-- ==== Sys2Proof/Word.lean ====
section
/-! DEFINITION. The word types of the machine and the plainest helpers over them. -/

namespace Sys2Proof

/-- A 64-bit scalar: s registers, predicates, addresses (R83). -/
abbrev Word := BitVec 64
/-- One byte of memory (R4). -/
abbrev Byte := BitVec 8
/-- A vector or direction register: 2,048 bits (R83). -/
abbrev Vec := BitVec 2048
/-- A bundle: 512 bits (R46). -/
abbrev BundleWord := BitVec 512

/-- Sticky floating-point flags of one slot, bit positions of R88. -/
abbrev Flags := BitVec 6

end Sys2Proof
end

