-- ==== Sys2Proof/Machine/Tab.lean ====
section
/-! DEFINITION. Finite tables by number, and vectors of elements: plain data with structural recursion. -/

namespace Sys2Proof.Machine

/-- A table by number; a key that is not listed holds the default given at the read. -/
abbrev Tab (α : Type) := List (Nat × α)

/-- The value at a key. -/
def tget {α : Type} (d : α) : Tab α → Nat → α
  | [], _ => d
  | (j, x) :: t, k => if j = k then x else tget d t k

/-- Writes the value at a key; keys stay in rising order when they are. -/
def tset {α : Type} : Tab α → Nat → α → Tab α
  | [], k, v => [(k, v)]
  | (j, x) :: t, k, v =>
    if j = k then (k, v) :: t
    else if j < k then (j, x) :: tset t k v
    else (k, v) :: (j, x) :: t

/-- Removes a key. -/
def terase {α : Type} (t : Tab α) (k : Nat) : Tab α := t.filter fun x => x.1 != k

/-- Whether a key is listed, and its value if it is. -/
def tfind {α : Type} : Tab α → Nat → Option α
  | [], _ => none
  | (j, x) :: t, k => if j = k then some x else tfind t k

/-- `Σ f i · 2^(w·i)` for i below n. -/
def packElems (w : Nat) (f : Nat → Nat) : Nat → Nat
  | 0 => 0
  | n + 1 => packElems w f n + (f n % 2 ^ w) * 2 ^ (w * n)

/-- A vector of elements of width w (R11). -/
def vbuild (w : Nat) (f : Nat → Nat) : Vec := BitVec.ofNat 2048 (packElems w f (2048 / w))

/-- Element i of width w (R11). -/
def velem (w : Nat) (x : Vec) (i : Nat) : Nat := x.toNat / 2 ^ (w * i) % 2 ^ w

/-- Lane k: 32 bits. -/
def vlane (x : Vec) (k : Nat) : Nat := velem 32 x k

/-- Lanes whose bit in `mask` is 1 come from `new`, the others from `old`. -/
def mergeLanes (mask : Word) (old new : Vec) : Vec :=
  vbuild 32 fun k => if mask.getLsbD k then vlane new k else vlane old k

/-- Direction lane i as a signed code; the code 0x8000 is read as −32767 (R33). -/
def dlane (q : Vec) (i : Nat) : Int :=
  let x := velem 16 q i
  if x = 0x8000 then -32767 else if x < 0x8000 then x else (x : Int) - 0x10000

/-- A direction register from signed codes; lanes beyond the list are zero. -/
def dpack (q : List Int) : Vec := vbuild 16 fun i => ((q.getD i 0) % 0x10000).toNat

/-- Sign extension of the low n bits. -/
def sextN (n x : Nat) : Int := let y := x % 2 ^ n; if y < 2 ^ (n - 1) then y else (y : Int) - 2 ^ n

/-- All 64 bits set. -/
def allOnes : Word := BitVec.allOnes 64

/-- Bits h..l of a number. -/
def bitsOf (x h l : Nat) : Nat := x / 2 ^ l % 2 ^ (h + 1 - l)

/-- Number of set bits among the low n. -/
def popcnt (x : Nat) : Nat → Nat
  | 0 => 0
  | n + 1 => popcnt x n + x / 2 ^ n % 2

/-- The little-endian bytes of a number. -/
def toBytes (x : Nat) : Nat → List Byte
  | 0 => []
  | n + 1 => BitVec.ofNat 8 x :: toBytes (x / 256) n

/-- The number of little-endian bytes. -/
def ofBytes : List Byte → Nat
  | [] => 0
  | b :: t => b.toNat + 256 * ofBytes t

end Sys2Proof.Machine
end

