-- ==== Sys2Proof/Machine/Crypto.lean ====
section
/-! DEFINITION. The primitives that the spec names by standard (R2, R348, R352 to R355, R368, R372, R376): SHA-256 (FIPS 180-4), AES-256
(FIPS 197) with its modes XTS (IEEE 1619) and GCM (NIST SP 800-38D), and ECDSA over P-256 (FIPS 186-5).  PRESUMED: the algorithms are
the standards'; log entry 14. -/

namespace Sys2Proof.Machine

/-! SHA-256. -/

def shaK : List (BitVec 32) :=
  [0x428a2f98, 0x71374491, 0xb5c0fbcf, 0xe9b5dba5, 0x3956c25b, 0x59f111f1, 0x923f82a4, 0xab1c5ed5] ++
  [0xd807aa98, 0x12835b01, 0x243185be, 0x550c7dc3, 0x72be5d74, 0x80deb1fe, 0x9bdc06a7, 0xc19bf174] ++
  [0xe49b69c1, 0xefbe4786, 0x0fc19dc6, 0x240ca1cc, 0x2de92c6f, 0x4a7484aa, 0x5cb0a9dc, 0x76f988da] ++
  [0x983e5152, 0xa831c66d, 0xb00327c8, 0xbf597fc7, 0xc6e00bf3, 0xd5a79147, 0x06ca6351, 0x14292967] ++
  [0x27b70a85, 0x2e1b2138, 0x4d2c6dfc, 0x53380d13, 0x650a7354, 0x766a0abb, 0x81c2c92e, 0x92722c85] ++
  [0xa2bfe8a1, 0xa81a664b, 0xc24b8b70, 0xc76c51a3, 0xd192e819, 0xd6990624, 0xf40e3585, 0x106aa070] ++
  [0x19a4c116, 0x1e376c08, 0x2748774c, 0x34b0bcb5, 0x391c0cb3, 0x4ed8aa4a, 0x5b9cca4f, 0x682e6ff3] ++
  [0x748f82ee, 0x78a5636f, 0x84c87814, 0x8cc70208, 0x90befffa, 0xa4506ceb, 0xbef9a3f7, 0xc67178f2]

/-- The eight working variables, from a to h. -/
structure Sha where
  a : BitVec 32
  b : BitVec 32
  c : BitVec 32
  d : BitVec 32
  e : BitVec 32
  f : BitVec 32
  g : BitVec 32
  h : BitVec 32
  deriving DecidableEq, Repr

def shaInit : Sha :=
  ⟨0x6a09e667, 0xbb67ae85, 0x3c6ef372, 0xa54ff53a, 0x510e527f, 0x9b05688c, 0x1f83d9ab, 0x5be0cd19⟩

def shaRot (a b c : Nat) (x : BitVec 32) : BitVec 32 := x.rotateRight a ^^^ x.rotateRight b ^^^ x.rotateRight c
def shaMix (a b c : Nat) (x : BitVec 32) : BitVec 32 := x.rotateRight a ^^^ x.rotateRight b ^^^ (x >>> c)

/-- n more words of the message schedule, newest first. -/
def shaExpand : Nat → List (BitVec 32) → List (BitVec 32)
  | 0, l => l
  | n + 1, l => shaExpand n ((shaMix 17 19 10 (l.getD 1 0) + l.getD 6 0 + shaMix 7 18 3 (l.getD 14 0) + l.getD 15 0) :: l)

def shaRound (s : Sha) (kw : BitVec 32 × BitVec 32) : Sha :=
  let t1 := s.h + shaRot 6 11 25 s.e + ((s.e &&& s.f) ^^^ (~~~ s.e &&& s.g)) + kw.1 + kw.2
  let t2 := shaRot 2 13 22 s.a + ((s.a &&& s.b) ^^^ (s.a &&& s.c) ^^^ (s.b &&& s.c))
  ⟨t1 + t2, s.a, s.b, s.c, s.d + t1, s.e, s.f, s.g⟩

/-- A number from its bytes, the first the most significant. -/
def ofBytesBE (bs : List Byte) : Nat := bs.foldl (fun n b => n * 256 + b.toNat) 0
def toBytesBE (x n : Nat) : List Byte := (toBytes x n).reverse

def shaBlock (s : Sha) (blk : List Byte) : Sha :=
  let w := (List.range 16).map fun i => BitVec.ofNat 32 (ofBytesBE ((blk.drop (4 * i)).take 4))
  let r := (shaK.zip (shaExpand 48 w.reverse).reverse).foldl shaRound s
  ⟨s.a + r.a, s.b + r.b, s.c + r.c, s.d + r.d, s.e + r.e, s.f + r.f, s.g + r.g, s.h + r.h⟩

def shaBlocks (s : Sha) : Nat → List Byte → Sha
  | 0, _ => s
  | n + 1, m => shaBlocks (shaBlock s (m.take 64)) n (m.drop 64)

/-- SHA-256; the digest's bytes in order, the first in bits 7:0. -/
def sha256 (m : List Byte) : BitVec 256 :=
  let p := m ++ 0x80#8 :: List.replicate ((119 - m.length % 64) % 64) 0#8 ++ toBytesBE (8 * m.length) 8
  let s := shaBlocks shaInit (p.length / 64) p
  BitVec.ofNat 256 (ofBytes ([s.a, s.b, s.c, s.d, s.e, s.f, s.g, s.h].flatMap fun x => toBytesBE x.toNat 4))

/-! AES-256. -/

/-- The S-box and its inverse, entry i in byte i. -/
def aesSbox : Nat :=
  0x16bb54b00f2d99416842e6bf0d89a18cdf2855cee9871e9b948ed9691198f8e19e1dc186b95735610ef6034866b53e708a8bbd4b1f74dde8c6b4a61c2e2578ba08ae7a65eaf4566ca94ed58d6d37c8e779e4959162acd3c25c2406490a3a32e0db0b5ede14b8ee4688902a22dc4f816073195d643d7ea7c41744975fec130ccdd2f3ff1021dab6bcf5389d928f40a351a89f3c507f02f94585334d43fbaaefd0cf584c4a39becb6a5bb1fc20ed00d153842fe329b3d63b52a05a6e1b1a2c830975b227ebe28012079a059618c323c7041531d871f1e5a534ccf73f362693fdb7c072a49cafa2d4adf04759fa7dc982ca76abd7fe2b670130c56f6bf27b777c63
def aesInv : Nat :=
  0x7d0c2155631469e126d677ba7e042b17619953833cbbebc8b0f52aae4d3be0a0ef9cc9939f7ae52d0d4ab519a97f51605fec8027591012b131c7078833a8dd1ff45acd78fec0db9a2079d2c64b3e56fc1bbe18aa0e62b76f89c5291d711af1476edf751ce837f9e28535ade72274ac9673e6b4f0cecff297eadc674f4111913a6b8a130103bdafc1020f3fca8f1e2cd00645b3b80558e4f70ad3bc8c00abd890849d8da75746155edab9edfd5048706c92b6655dcc5ca4d41698688664f6f87225d18b6d49a25b76b224d92866a12e084ec3fa420b954cee3d23c2a632947b54cbe9dec444438e3487ff2f9b8239e37cfbd7f3819ea340bf38a53630d56a0952

def sub8 (t : Nat) (b : Byte) : Byte := BitVec.ofNat 8 (t / 2 ^ (8 * b.toNat))

/-- Multiplication by x, and by a constant, in the field of FIPS 197. -/
def xtime (b : Byte) : Byte := (b <<< 1) ^^^ (if b.getLsbD 7 then 0x1B#8 else 0#8)
def gmul8 (k : Nat) (b : Byte) : Byte :=
  (if k.testBit 0 then b else 0#8) ^^^ (if k.testBit 1 then xtime b else 0#8) ^^^
    (if k.testBit 2 then xtime (xtime b) else 0#8) ^^^ (if k.testBit 3 then xtime (xtime (xtime b)) else 0#8)

def xorBytes (a b : List Byte) : List Byte := List.zipWith (fun x y => x ^^^ y) a b

/-- n more words of the key schedule, newest first, from word number i. -/
def aesExpand : Nat → Nat → List (List Byte) → List (List Byte)
  | 0, _, l => l
  | n + 1, i, l =>
    let t := l.getD 0 []
    let t := if i % 8 = 0 then xorBytes ((t.drop 1 ++ t.take 1).map (sub8 aesSbox)) [BitVec.ofNat 8 (2 ^ (i / 8 - 1)), 0, 0, 0]
      else if i % 8 = 4 then t.map (sub8 aesSbox) else t
    aesExpand n (i + 1) (xorBytes t (l.getD 7 []) :: l)

/-- The 15 round keys of a 32-byte key. -/
def aesKeys (key : List Byte) : List (List Byte) :=
  let w := (aesExpand 52 8 (((List.range 8).map fun i => (key.drop (4 * i)).take 4).reverse)).reverse
  (List.range 15).map fun r => ((w.drop (4 * r)).take 4).flatten

/-- Rows shift left by their number, or right. -/
def aesShift (s : List Byte) : List Byte := (List.range 16).map fun i => s.getD ((i + 4 * (i % 4)) % 16) 0
def aesUnshift (s : List Byte) : List Byte := (List.range 16).map fun i => s.getD ((i + 12 * (i % 4)) % 16) 0

/-- Each column times the matrix whose first row is given. -/
def aesMix (row : List Nat) (s : List Byte) : List Byte :=
  (List.range 16).map fun i => (List.range 4).foldl (fun x j => x ^^^ gmul8 (row.getD ((j + 4 - i % 4) % 4) 0) (s.getD (i / 4 * 4 + j) 0)) 0#8

/-- One block of 16 bytes under round keys. -/
def aesEnc (ks : List (List Byte)) (b : List Byte) : List Byte :=
  let s := ((ks.drop 1).take 13).foldl (fun s k => xorBytes (aesMix [2, 3, 1, 1] (aesShift (s.map (sub8 aesSbox)))) k) (xorBytes b (ks.getD 0 []))
  xorBytes (aesShift (s.map (sub8 aesSbox))) (ks.getD 14 [])

def aesDec (ks : List (List Byte)) (b : List Byte) : List Byte :=
  let s := ((ks.drop 1).take 13).reverse.foldl
    (fun s k => aesMix [14, 11, 13, 9] (xorBytes ((aesUnshift s).map (sub8 aesInv)) k)) (xorBytes b (ks.getD 14 []))
  xorBytes ((aesUnshift s).map (sub8 aesInv)) (ks.getD 0 [])

/-! XTS. -/

/-- The n blocks of a data unit under its running tweak. -/
def xtsRun (f : List Byte → List Byte) : Nat → Nat → List Byte → List Byte
  | 0, _, _ => []
  | n + 1, t, bs =>
    let tb := toBytes t 16
    xorBytes (f (xorBytes (bs.take 16) tb)) tb ++ xtsRun f n ((2 * t) % 2 ^ 128 ^^^ (if t.testBit 127 then 0x87 else 0)) (bs.drop 16)

/-- A 64-byte line under key material whose lower 256 bits are the data key and whose upper 256 the tweak key; the tweak is the line's
number, PA 45:6 (R348). -/
def xtsLine (dec : Bool) (mat : BitVec 512) (line : Nat) (x : BitVec 512) : BitVec 512 :=
  let k1 := aesKeys (toBytes mat.toNat 32)
  let k2 := aesKeys (toBytes (mat.toNat / 2 ^ 256) 32)
  let t := ofBytes (aesEnc k2 (toBytes line 16))
  BitVec.ofNat 512 (ofBytes (xtsRun (if dec then aesDec k1 else aesEnc k1) 4 t (toBytes x.toNat 64)))

/-- What a line written under one key reads as under another (R348). -/
def xtsMismatch (wr rd : BitVec 512) (line : Nat) (x : BitVec 512) : BitVec 512 := xtsLine true rd line (xtsLine false wr line x)

/-! GCM. -/

/-- The product in GCM's field: i bits of x are still to come. -/
def gcmMul (x : Nat) : Nat → Nat → Nat → Nat
  | 0, _, z => z
  | i + 1, v, z => gcmMul x i (v / 2 ^^^ (if v % 2 = 1 then 0xE1 * 2 ^ 120 else 0)) (if x.testBit i then z ^^^ v else z)

def gcmBlocks (n : Nat) (bs : List Byte) : List (List Byte) :=
  (List.range n).map fun i => let b := (bs.drop (16 * i)).take 16; b ++ List.replicate (16 - b.length) 0#8

def ghash (h : Nat) (aad ct : List Byte) : Nat :=
  let last := toBytesBE (8 * aad.length) 8 ++ toBytesBE (8 * ct.length) 8
  (gcmBlocks ((aad.length + 15) / 16) aad ++ gcmBlocks ((ct.length + 15) / 16) ct ++ [last]).foldl
    (fun y b => gcmMul (y ^^^ ofBytesBE b) 128 h 0) 0

/-- The keystream applied to bytes, from counter 2. -/
def gcmCtr (ks : List (List Byte)) (iv : List Byte) (bs : List Byte) : List Byte :=
  xorBytes bs ((List.range ((bs.length + 15) / 16)).flatMap fun i => aesEnc ks (iv ++ toBytesBE (i + 2) 4))

def gcmTag (ks : List (List Byte)) (iv aad ct : List Byte) : BitVec 128 :=
  let h := ofBytesBE (aesEnc ks (List.replicate 16 0#8))
  BitVec.ofNat 128 (ofBytes (xorBytes (toBytesBE (ghash h aad ct) 16) (aesEnc ks (iv ++ toBytesBE 1 4))))

/-- AES-256-GCM: ciphertext and tag; byte 0 of a key, a nonce and a tag stands in bits 7:0. -/
def gcmSeal (key : BitVec 256) (nonce : BitVec 96) (aad pt : List Byte) : List Byte × BitVec 128 :=
  let ks := aesKeys (toBytes key.toNat 32)
  let iv := toBytes nonce.toNat 12
  let ct := gcmCtr ks iv pt
  (ct, gcmTag ks iv aad ct)

/-- Nothing when the tag fails. -/
def gcmOpen (key : BitVec 256) (nonce : BitVec 96) (aad ct : List Byte) (tag : BitVec 128) : Option (List Byte) :=
  let ks := aesKeys (toBytes key.toNat 32)
  let iv := toBytes nonce.toNat 12
  if gcmTag ks iv aad ct = tag then some (gcmCtr ks iv ct) else none

/-! ECDSA over P-256. -/

def p256P : Nat := 0xffffffff00000001000000000000000000000000ffffffffffffffffffffffff
def p256N : Nat := 0xffffffff00000000ffffffffffffffffbce6faada7179e84f3b9cac2fc632551
def p256B : Nat := 0x5ac635d8aa3a93e7b3ebbd55769886bc651d06b0cc53b0f63bce3c3e27d2604b
def p256G : Nat × Nat :=
  (0x6b17d1f2e12c4247f8bce6e563a440f277037d812deb33a0f4a13945d898c296,
   0x4fe342e2fe1a7f9b8ee7eb4a7c0f9e162bce33576b315ececbb6406837bf51f5)

/-- x to the power of the low n bits of e, modulo m. -/
def powMod (m x e : Nat) : Nat → Nat
  | 0 => 1
  | n + 1 => let y := powMod m (x * x % m) (e / 2) n; if e % 2 = 1 then x * y % m else y

/-- The inverse modulo a prime below 2^256. -/
def invMod (m x : Nat) : Nat := powMod m (x % m) (m - 2) 256

/-- Addition of points; none is the point at infinity. -/
def ecAdd (a b : Option (Nat × Nat)) : Option (Nat × Nat) :=
  match a, b with
  | none, b => b
  | a, none => a
  | some (x1, y1), some (x2, y2) =>
    let p := p256P
    if x1 = x2 ∧ (y1 + y2) % p = 0 then none
    else
      let l := if x1 = x2 then (3 * x1 * x1 + (p - 3)) * invMod p (2 * y1) % p else (y2 + p - y1) * invMod p (x2 + p - x1) % p
      let x := (l * l + 2 * p - x1 - x2) % p
      some (x, (l * (x1 + p - x) + p - y1) % p)

/-- The multiple of a point by the low n bits of k. -/
def ecMul (k : Nat) (a : Option (Nat × Nat)) : Nat → Option (Nat × Nat)
  | 0 => none
  | n + 1 => let b := ecMul (k / 2) (ecAdd a a) n; if k % 2 = 1 then ecAdd a b else b

/-- The check of a signature (r below s) by a public key (x below y) over a digest (R352). -/
def ecdsaOk (key : BitVec 512) (digest : BitVec 256) (sig : BitVec 512) : Bool :=
  let x := key.toNat % 2 ^ 256
  let y := key.toNat / 2 ^ 256
  let r := sig.toNat % 2 ^ 256
  let s := sig.toNat / 2 ^ 256
  let e := ofBytesBE (toBytes digest.toNat 32)
  let onCurve := decide (x < p256P) && decide (y < p256P) && y * y % p256P == (x * x * x + (p256P - 3) * x + p256B) % p256P
  let range := decide (0 < r) && decide (r < p256N) && decide (0 < s) && decide (s < p256N)
  onCurve && range &&
    (let w := invMod p256N s
     match ecAdd (ecMul (e * w % p256N) (some p256G) 256) (ecMul (r * w % p256N) (some (x, y)) 256) with
     | some q => q.1 % p256N == r
     | none => false)

/-- The public key, x below y, of a private one. -/
def ecPublic (priv : BitVec 256) : BitVec 512 :=
  match ecMul priv.toNat (some p256G) 256 with
  | some (x, y) => BitVec.ofNat 512 (x + y * 2 ^ 256)
  | none => 0

/-- A signature (r below s) over a digest by a private key with the secret number k (R352). -/
def ecdsaSign (priv k : BitVec 256) (digest : BitVec 256) : BitVec 512 :=
  let k := k.toNat % (p256N - 1) + 1
  let r := ((ecMul k (some p256G) 256).map fun q => q.1 % p256N).getD 0
  let s := invMod p256N k * (ofBytesBE (toBytes digest.toNat 32) + r * priv.toNat) % p256N
  BitVec.ofNat 512 (r + s * 2 ^ 256)

/-- The SHA-256 digest of a public key: of its 64 bytes, x first (R354, R357, R368; log entry 184). -/
def keyDigest (key : BitVec 512) : BitVec 256 := sha256 (toBytes key.toNat 64)

end Sys2Proof.Machine
end

