-- ==== Sys2Proof/Config.lean ====
section
/-! DEFINITION. What the spec leaves open to an implementation: free values, none of which has a body. -/

namespace Sys2Proof.Config

/-- A free value of `w` bits: the n-th value that the spec leaves open (log entry 6). -/
opaque freeBits (w : Nat) (n : Nat) : BitVec w
/-- A free choice between two outcomes that the spec leaves unordered (log entry 6). -/
opaque freeBool (n : Nat) : Bool

/-- The secret in OTP, and the private identity key that a reset derives from it (R372): the spec does not say how. -/
opaque otpSecret : BitVec 256
opaque deriveKey (secret : BitVec 256) : BitVec 256
/-- The certificate of the identity key, which chains to a Loyhus root (R372): the spec does not lay it out. -/
opaque identityCert : List (BitVec 8)
/-- The AES-256-GCM key that a memory key's material gives to sealed programs (R353): the spec does not say which of its 512
bits serve. -/
opaque gcmKey (mat : BitVec 512) : BitVec 256
/-- The P-256 public key whose SHA-256 digest is registered (R354, R357). -/
opaque keyOfDigest (digest : BitVec 256) : BitVec 512
/-- The host address of the 4 KiB page at which a function's BAR begins (R360). -/
opaque barBase (func bar : Nat) : BitVec 64
/-- The private part of the Loyhus firmware key (R368). -/
opaque firmwareSecret : BitVec 256
/-- The digests of the ROM, of the firmware configuration block, and of the OTP fuse map with a rollback counter (R372). -/
opaque romDigest : BitVec 256
opaque configDigest : BitVec 256
opaque fuseDigest (otpsvn : Nat) : BitVec 256
/-- Random key material drawn by Sniras (R349). -/
opaque randomKey (n : Nat) : BitVec 512

end Sys2Proof.Config
end

