-- ==== Sys2Proof/Machine/Num.lean ====
section
/-! DEFINITION. Element formats, exact values, and the one rounding of R21 to R25. -/

namespace Sys2Proof.Machine

/-- The element formats, by their FMT codes 0x0 to 0x9 (R18). -/
inductive Fmt where
  | raw | f32 | f16 | bf16 | e4m3 | e5m2 | fp4 | i32 | i8 | i4
  deriving DecidableEq, Repr

/-- FMT code to format; the codes 0xA to 0xF are reserved (R18). -/
def fmtOfCode (c : Nat) : Option Fmt :=
  match c with
  | 0 => some .raw | 1 => some .f32 | 2 => some .f16 | 3 => some .bf16 | 4 => some .e4m3
  | 5 => some .e5m2 | 6 => some .fp4 | 7 => some .i32 | 8 => some .i8 | 9 => some .i4
  | _ => none

/-- Element width in bits (R11); a RAW element is a 32-bit word. -/
def Fmt.width : Fmt → Nat
  | .raw => 32 | .f32 => 32 | .f16 => 16 | .bf16 => 16 | .e4m3 => 8 | .e5m2 => 8
  | .fp4 => 4 | .i32 => 32 | .i8 => 8 | .i4 => 4

/-- Integer formats. -/
def Fmt.isInt : Fmt → Bool
  | .i32 | .i8 | .i4 => true
  | _ => false

/-- Exponent bits, mantissa bits and bias of a floating-point format (R12). -/
structure FParams where
  eb : Nat
  mb : Nat
  bias : Nat
  deriving DecidableEq, Repr

def Fmt.params : Fmt → FParams
  | .f32 => ⟨8, 23, 127⟩
  | .f16 => ⟨5, 10, 15⟩
  | .bf16 => ⟨8, 7, 127⟩
  | .e4m3 => ⟨4, 3, 7⟩
  | .e5m2 => ⟨5, 2, 15⟩
  | .fp4 => ⟨2, 1, 1⟩
  | _ => ⟨8, 23, 127⟩

/-- Formats with an infinity and NaNs at the all-ones exponent (R12). -/
def Fmt.ieee : Fmt → Bool
  | .f32 | .f16 | .bf16 | .e5m2 => true
  | _ => false

/-- The canonical NaN of a format (R13); FP4 has none and gives 0. -/
def Fmt.canonNaN : Fmt → Nat
  | .f32 => 0x7FC00000
  | .f16 => 0x7E00
  | .bf16 => 0x7FC0
  | .e4m3 => 0x7F
  | .e5m2 => 0x7E
  | _ => 0

/-- Largest finite magnitude as `m * 2^e` (R12; FP4 at scale 1). -/
def Fmt.maxFin : Fmt → Nat × Int
  | .f32 => (2 ^ 24 - 1, 104)
  | .f16 => (2 ^ 11 - 1, 5)
  | .bf16 => (2 ^ 8 - 1, 120)
  | .e4m3 => (14, 5)
  | .e5m2 => (7, 13)
  | .fp4 => (6, 0)
  | .i32 => (2 ^ 31 - 1, 0)
  | .i8 => (127, 0)
  | .i4 => (7, 0)
  | .raw => (0, 0)

/-- Lower and upper limit of an integer format (R16, R23). -/
def Fmt.intLo : Fmt → Int
  | .i32 => -(2 ^ 31) | .i8 => -128 | .i4 => -7 | _ => 0
def Fmt.intHi : Fmt → Int
  | .i32 => 2 ^ 31 - 1 | .i8 => 127 | .i4 => 7 | _ => 0

/-! The flags of R17, at the bit positions of R88. -/
def fIV : Flags := 1
def fZD : Flags := 2
def fOF : Flags := 4
def fUF : Flags := 8
def fNX : Flags := 16
def fRC : Flags := 32

/-- Rounding modes (R21). -/
inductive RMode where
  | rne | rtz | rup | rdn | stoc
  deriving DecidableEq, Repr

/-- Mode of a defined code; a reserved code never reaches this (R21, R72). -/
def rmodeOf (c : Nat) : RMode :=
  match c with
  | 0 => .rne | 1 => .rtz | 2 => .rup | 3 => .rdn | 4 => .stoc | _ => .rne

/-- An exact value: NaN, an infinity, or plus or minus `m * 2^e`, the sign of zero kept. -/
inductive XVal where
  | nan
  | inf (neg : Bool)
  | fin (neg : Bool) (m : Nat) (e : Int)
  deriving DecidableEq, Repr

def XVal.zero : XVal := .fin false 0 0

/-- `m * 2^e` as a numerator and a denominator. -/
def dyNum (m : Nat) (e : Int) : Nat := m * 2 ^ e.toNat
def dyDen (e : Int) : Nat := 2 ^ (-e).toNat

/-- The value of an integer. -/
def XVal.ofInt (i : Int) : XVal := .fin (decide (i < 0)) i.natAbs 0

def XVal.neg : XVal → XVal
  | .nan => .nan
  | .inf s => .inf (!s)
  | .fin s m e => .fin (!s) m e

def XVal.abs : XVal → XVal
  | .nan => .nan
  | .inf _ => .inf false
  | .fin _ m e => .fin false m e

def XVal.isNaN : XVal → Bool
  | .nan => true
  | _ => false

def XVal.isFin : XVal → Bool
  | .fin _ _ _ => true
  | _ => false

def XVal.isZero : XVal → Bool
  | .fin _ m _ => m == 0
  | _ => false

/-- Signed mantissa at a common exponent `e0 <= e`. -/
def signedAt (neg : Bool) (m : Nat) (e e0 : Int) : Int :=
  let x : Int := (m * 2 ^ (e - e0).toNat : Nat)
  if neg then -x else x

/-- Exact sum; `rdn` gives the sign of an exact zero sum of operands of opposite signs (R144); ∞ − ∞ is a NaN with IV. -/
def XVal.add (rdn : Bool) (a b : XVal) : XVal × Flags :=
  match a, b with
  | .nan, _ => (.nan, 0)
  | _, .nan => (.nan, 0)
  | .inf s, .inf t => if s == t then (.inf s, 0) else (.nan, fIV)
  | .inf s, .fin _ _ _ => (.inf s, 0)
  | .fin _ _ _, .inf t => (.inf t, 0)
  | .fin s m e, .fin t n f =>
    let e0 := min e f
    let x := signedAt s m e e0 + signedAt t n f e0
    if x = 0 then (.fin (if s == t then s else rdn) 0 0, 0)
    else (.fin (decide (x < 0)) x.natAbs e0, 0)

/-- Exact product; 0 × ∞ is a NaN with IV (R13). -/
def XVal.mul (a b : XVal) : XVal × Flags :=
  match a, b with
  | .nan, _ => (.nan, 0)
  | _, .nan => (.nan, 0)
  | .inf s, .inf t => (.inf (s != t), 0)
  | .inf s, .fin t n _ => if n == 0 then (.nan, fIV) else (.inf (s != t), 0)
  | .fin s m _, .inf t => if m == 0 then (.nan, fIV) else (.inf (s != t), 0)
  | .fin s m e, .fin t n f => (.fin (s != t) (m * n) (e + f), 0)

/-- Order of two values that are not NaN: less, equal or greater; +0 equals −0. -/
def XVal.cmp (a b : XVal) : Option Ordering :=
  match a, b with
  | .nan, _ => none
  | _, .nan => none
  | .inf s, .inf t => some (if s == t then .eq else if s then .lt else .gt)
  | .inf s, .fin _ _ _ => some (if s then .lt else .gt)
  | .fin _ _ _, .inf t => some (if t then .gt else .lt)
  | .fin s m e, .fin t n f =>
    let e0 := min e f
    some (compare (signedAt s m e e0) (signedAt t n f e0))

def XVal.isNeg : XVal → Bool
  | .nan => false
  | .inf s => s
  | .fin s _ _ => s

/-- FP max and min of R29: a NaN operand gives NaN; +0 above −0. -/
def XVal.max (a b : XVal) : XVal :=
  match XVal.cmp a b with
  | none => .nan
  | some .lt => b
  | some .gt => a
  | some .eq => if a.isNeg then b else a

def XVal.min (a b : XVal) : XVal :=
  match XVal.cmp a b with
  | none => .nan
  | some .lt => a
  | some .gt => b
  | some .eq => if a.isNeg then a else b

/-- A bit pattern read in a format: its exact value, and RC for the reserved INT4 code (R12, R14, R16). -/
def decodeFmt (f : Fmt) (x : Nat) : XVal × Flags :=
  let x := x % 2 ^ f.width
  match f with
  | .i32 | .i8 | .raw =>
    if x < 2 ^ (f.width - 1) then (.fin false x 0, 0) else (.fin true (2 ^ f.width - x) 0, 0)
  | .i4 => if x = 8 then (XVal.zero, fRC) else if x < 8 then (.fin false x 0, 0) else (.fin true (16 - x) 0, 0)
  | _ =>
    let p := f.params
    let s := x / 2 ^ (p.eb + p.mb) % 2 == 1
    let e := x / 2 ^ p.mb % 2 ^ p.eb
    let m := x % 2 ^ p.mb
    if f = .fp4 ∧ x = 8 then (XVal.zero, 0)
    else if f.ieee ∧ e = 2 ^ p.eb - 1 then (if m = 0 then .inf s else .nan, 0)
    else if f = .e4m3 ∧ e = 15 ∧ m = 7 then (.nan, 0)
    else if e = 0 then (.fin s m (1 - (p.bias : Int) - p.mb), 0)
    else (.fin s (m + 2 ^ p.mb) ((e : Int) - p.bias - p.mb), 0)

/-- ⌊log2 (n/d)⌋ for n, d > 0. -/
def floorLog2 (n d : Nat) : Int :=
  let e : Int := (Nat.log2 n : Int) - Nat.log2 d
  if n * 2 ^ (-e).toNat < d * 2 ^ e.toNat then e - 1 else e

/-- R21, R22: the magnitude n/d rounded to a multiple k of 2^q; whether it was inexact.  `r` is the 32-bit draw. -/
def roundMul (mode : RMode) (neg : Bool) (n d : Nat) (q : Int) (r : Nat) : Nat × Bool :=
  let num := n * 2 ^ (-q).toNat
  let den := d * 2 ^ q.toNat
  let k := num / den
  let rem := num % den
  if rem = 0 then (k, false)
  else
    let up := match mode with
      | .rne => decide (2 * rem > den) || (decide (2 * rem = den) && k % 2 == 1)
      | .rtz => false
      | .rup => !neg
      | .rdn => neg
      | .stoc => decide (rem * 2 ^ 32 / den + r ≥ 2 ^ 32)
    (if up then k + 1 else k, true)

/-- The pattern of `k * 2^q`, a value on the format's grid; a zero FP4 result is +0 whatever its sign (R14, R23). -/
def packFloat (f : Fmt) (neg : Bool) (k : Nat) (q : Int) : Nat :=
  let p := f.params
  let sb := if neg then 2 ^ (p.eb + p.mb) else 0
  if k = 0 then (if f = .fp4 then 0 else sb)
  else
    let top : Int := (Nat.log2 k : Int) + q
    let emin : Int := 1 - (p.bias : Int)
    if top < emin then
      let sh := q - (emin - p.mb)
      sb + k * 2 ^ sh.toNat / 2 ^ (-sh).toNat
    else
      let sh := q - (top - p.mb)
      let m := k * 2 ^ sh.toNat / 2 ^ (-sh).toNat
      sb + (top + p.bias).toNat * 2 ^ p.mb + m % 2 ^ p.mb

def packInf (f : Fmt) (neg : Bool) : Nat :=
  let p := f.params
  (if neg then 2 ^ (p.eb + p.mb) else 0) + (2 ^ p.eb - 1) * 2 ^ p.mb

/-- The overflow rule of R23: non-clamping, clamping at the largest finite value, or at a positive bound n/d. -/
inductive Clamp where
  | none
  | max
  | at (n d : Nat)
  deriving DecidableEq, Repr

/-- `k * 2^q > n/d`. -/
def dyGt (k : Nat) (q : Int) (n d : Nat) : Bool := decide (dyNum k q * d > n * dyDen q)

/-- R23's effective bound B of a floating format at scale 1, as `k * 2^q`: the largest finite value no greater than n/d, or 0. -/
def effBound (f : Fmt) (n d : Nat) : Nat × Int :=
  if n = 0 then (0, 0)
  else
    let (mk, mq) := f.maxFin
    if dyGt mk mq n d then
      let p := f.params
      let q := Max.max (floorLog2 n d) (1 - (p.bias : Int)) - p.mb
      (roundMul .rtz false n d q 0 |>.1, q)
    else (mk, mq)

/-- The bound that a clamp sets on a floating format, if it clamps. -/
def Clamp.bound (f : Fmt) : Clamp → Option (Nat × Int)
  | .none => Option.none
  | .max => some f.maxFin
  | .at n d => some (effBound f n d)

/-- R23 to a floating format, a finite magnitude n/d.  DESIGN CHOICE: R17 judges tininess "after
rounding" and does not say on which grid; here the value is rounded once, on the destination's own grid with its subnormal
spacing, so that a value that rounds up to the smallest normal number sets no UF, and an inexact one that rounds to zero sets
UF with NX. -/
def encFloat (f : Fmt) (mode : RMode) (cl : Clamp) (r : Nat) (neg : Bool) (n d : Nat) : Nat × Flags :=
  if n = 0 then (packFloat f neg 0 0, 0)
  else
    let p := f.params
    let emin : Int := 1 - (p.bias : Int)
    let q := Max.max (floorLog2 n d) emin - p.mb
    let (k, inexact) := roundMul mode neg n d q r
    let (mk, mq) := f.maxFin
    match cl.bound f with
    | some (bk, bq) =>
      if dyGt k q (dyNum bk bq) (dyDen bq) then (packFloat f neg bk bq, fOF ||| fNX)
      else fin p emin q k inexact
    | Option.none =>
      if dyGt k q (dyNum mk mq) (dyDen mq) then
        let toInf := f.ieee && (match mode with
          | .rne => true | .stoc => true | .rup => !neg | .rdn => neg | .rtz => false)
        (if toInf then packInf f neg else packFloat f neg mk mq, fOF ||| fNX)
      else fin p emin q k inexact
where
  /-- A rounded result within range: NX when inexact, UF when also tiny after rounding (R17), never for FP4. -/
  fin (p : FParams) (emin q : Int) (k : Nat) (inexact : Bool) : Nat × Flags :=
    let tiny := decide (q = emin - p.mb) && decide (k < 2 ^ p.mb)
    (packFloat f neg k q,
      if inexact then (if tiny && f != .fp4 then fNX ||| fUF else fNX) else 0)

/-- Two's complement pattern of width w. -/
def toTwos (w : Nat) (i : Int) : Nat := (i % 2 ^ w).toNat

/-- ⌊B⌋ for an integer destination, B the largest value of the format that is no greater than the bound (R23); without a
clamp a limit beyond the range. -/
def intLimit (f : Fmt) : Clamp → Int
  | .at bn bd => Min.min f.intHi (bn / bd : Nat)
  | .max => f.intHi
  | .none => f.intHi + 1

/-- R23 to an integer format, a finite magnitude n/d; the bound is ⌊B⌋. -/
def encInt (f : Fmt) (mode : RMode) (cl : Clamp) (r : Nat) (neg : Bool) (n d : Nat) : Nat × Flags :=
  let (k, inexact) := roundMul mode neg n d 0 r
  let v : Int := if neg then -(k : Int) else k
  let sat := Max.max f.intLo (Min.min f.intHi v)
  let lim : Int := intLimit f cl
  let v' := Max.max (-lim) (Min.min lim sat)
  (toTwos f.width v', if v' ≠ v then fOF else if inexact then fNX else 0)

/-- The conversion of R23 for every destination but blocked FP4: pattern and flags.  DESIGN CHOICE: under a clamp an infinity gives the saturated extreme limited to ±⌊B⌋, as a finite value beyond it would, where
R23's column for an infinite source says "saturated extreme" alone (log entry 157), to FP4 as well (log entry 194). -/
def encodeFmt (f : Fmt) (mode : RMode) (cl : Clamp) (r : Nat) (v : XVal) : Nat × Flags :=
  match v with
  | .nan => if f.isInt ∨ f = .fp4 then (0, fIV) else (f.canonNaN, 0)
  | .inf s =>
    if f.isInt then
      let x := if s then f.intLo else f.intHi
      let lim : Int := intLimit f cl
      (toTwos f.width (Max.max (-lim) (Min.min lim x)), fIV)
    else if f.ieee then (packInf f s, 0)
    else
      let (k, q) := (cl.bound f).getD f.maxFin
      (packFloat f s k q, fIV)
  | .fin s m e =>
    if f.isInt then encInt f mode cl r s (dyNum m e) (dyDen e)
    else encFloat f mode cl r s (dyNum m e) (dyDen e)

/-- A conversion of one element from a format's bits (R23, R24).  To the same format it returns the source bits with any NaN
canonicalised; a reserved INT4 code and the FP4 code 0b1000 read as zero (R14, R16). -/
def convert (src dst : Fmt) (mode : RMode) (cl : Clamp) (r : Nat) (bits : Nat) : Nat × Flags :=
  let (v, fl) := decodeFmt src bits
  if src = dst then
    (match v with
      | .nan => dst.canonNaN
      | _ => if (dst = .fp4 ∨ dst = .i4) ∧ bits % 16 = 8 then 0 else bits % 2 ^ dst.width, fl)
  else let (x, e) := encodeFmt dst mode cl r v; (x, fl ||| e)

/-- `round_rne` to FP32 of an exact value (R9). -/
def rneF32 (v : XVal) : Nat × Flags := encodeFmt .f32 .rne .none 0 v

/-- The bound that a clamp pattern in FP32 names: zero, an infinity or a NaN mean the largest finite value; its sign is
ignored (R26, R149). -/
def clampOfF32 (x : Nat) : Clamp :=
  match (decodeFmt .f32 x).1 with
  | .fin _ m e => if m = 0 then .max else .at (dyNum m e) (dyDen e)
  | _ => .max

/-- R15: the E3M5 block scale, as a dyadic magnitude. -/
def blockScale (c : Nat) : Nat × Int :=
  let e := c / 32 % 8
  let m := c % 32
  if e = 0 then (m, -7) else (m + 32, (e : Int) - 8)

/-- The value of an FP4 element: code × block scale × band scale (R15); the code 0b1000 is +0 whatever the scales (R14). -/
def fp4Value (code scale : Nat) (band : XVal) : XVal × Flags :=
  if code % 16 = 8 then (XVal.zero, 0)
  else
    let (m, k) := blockScale scale
    (((decodeFmt .fp4 code).1.mul (.fin false m k)).1).mul band

/-- The smallest E3M5 code with 6·s ≥ n/d, or 0xFF (R25); codes rise with their values. -/
def scaleCodeFor (n d : Nat) : Nat :=
  go 256 0
where
  go : Nat → Nat → Nat
    | 0, _ => 0xFF
    | fuel + 1, c =>
      if c ≥ 255 then 0xFF
      else
        let (m, e) := blockScale c
        if 6 * dyNum m e * d ≥ n * dyDen e then c else go fuel (c + 1)

/-- An element of an FP4 block at scale `s` (a positive dyadic) with a possible bound: R23's FP4 row. -/
def encFp4Scaled (mode : RMode) (cl : Clamp) (r : Nat) (sm : Nat) (se : Int) (neg : Bool) (n d : Nat) : Nat × Flags :=
  -- divide value and bound by the scale, then round in the element code's grid
  let n' := n * dyDen se
  let d' := d * dyNum sm se
  let cl' : Clamp := match cl with
    | .at bn bd => .at (bn * dyDen se) (bd * dyNum sm se)
    | .max => .max
    | .none => .max
  encFloat .fp4 mode cl' r neg n' d'

/-- One FP4 block (R25): the scale code, the eight element codes and the flags.  `band` is the band scale, `rs` the
draws, one per element. -/
def encBlock (mode : RMode) (cl : Clamp) (band : XVal) (rs : List Nat) (xs : List XVal) : Nat × List Nat × Flags :=
  match band with
  | .fin bneg bm be =>
    if bm = 0 then (0, xs.map fun _ => 0, fIV)
    else
      let bn := dyNum bm be
      let bd := dyDen be
      -- the source values divided by the band scale, as sign, numerator and denominator
      let amax := xs.foldl (fun (acc : Option (Nat × Nat)) x =>
        match acc, x with
        | acc, .nan => acc
        | Option.none, _ => Option.none
        | some _, .inf _ => Option.none
        | some (an, ad), .fin _ m e =>
          let n := dyNum m e * bd
          let d := dyDen e * bn
          if n * ad > an * d then some (n, d) else some (an, ad)) (some (0, 1))
      let code := match amax with
        | Option.none => 0xFF
        | some (an, ad) => if an = 0 then 0 else scaleCodeFor an ad
      let (sm, se) := blockScale code
      let one (x : XVal) (r : Nat) : Nat × Flags :=
        match x with
        | .nan => (0, fIV)
        | .inf s =>
          let top := match cl with
            | .at n d => encFp4Scaled .rtz (.at (n * bd) (d * bn)) 0 sm se (s != bneg) (6 * dyNum sm se) (dyDen se) |>.1
            | _ => packFloat .fp4 (s != bneg) 6 0
          (top, fIV)
        | .fin s m e =>
          if code = 0 then (0, 0)
          else
            let cl' : Clamp := match cl with
              | .at n d => .at (n * bd) (d * bn)
              | c => c
            encFp4Scaled mode cl' r sm se (s != bneg) (dyNum m e * bd) (dyDen e * bn)
      let out := List.zipWith one xs (rs ++ List.replicate 8 0)
      (code, out.map Prod.fst, out.foldl (fun f y => f ||| y.2) 0)
  | _ => (0, xs.map fun _ => 0, fIV)

/-- One step of the stochastic generator (R22). -/
def lfsrStep (g : Word) : Word :=
  if g.getLsbD 0 then (g >>> 1) ^^^ 0xD800000000000000#64 else g >>> 1

/-- The value a generator load takes: zero loads 1 (R22). -/
def lfsrSeed (x : Word) : Word := if x = 0 then 1 else x

/-- The draw after a step: bits 31:0 (R22). -/
def lfsrDraw (g : Word) : Nat := g.toNat % 2 ^ 32

end Sys2Proof.Machine
end

