-- ==== Sys2Proof/Machine/Mem.lean ====
section
/-! DEFINITION. Memory as a canonical list of address and byte pairs, and the one line of addresses on which every
byte-addressed store of the package lies. -/

namespace Sys2Proof.Machine

/-- Strictly rising addresses and no entry equal to what an unlisted address reads as, 0 (log entry 3). -/
abbrev Mem := List Host.Cell

/-- The byte at an address; an unlisted address reads 0. -/
def memGet : Mem → Nat → Byte
  | [], _ => 0
  | (a, b) :: t, k => if a = k then b else memGet t k

/-- Inserts a nonzero byte in address order. -/
def memIns : Mem → Nat → Byte → Mem
  | [], k, v => [(k, v)]
  | (a, b) :: t, k, v =>
    if a = k then (k, v) :: t else if a < k then (a, b) :: memIns t k v else (k, v) :: (a, b) :: t

/-- Removes an address. -/
def memDel : Mem → Nat → Mem
  | [], _ => []
  | (a, b) :: t, k => if a = k then memDel t k else (a, b) :: memDel t k

/-- Writes one byte; writing 0 removes the entry. -/
def memSet (m : Mem) (k : Nat) (v : Byte) : Mem := if v = 0 then memDel m k else memIns m k v

/-- Entries above `lo`, strictly rising and nonzero. -/
def memWfFrom : Nat → Mem → Bool
  | _, [] => true
  | lo, (a, b) :: t => decide (lo ≤ a) && decide (b ≠ 0) && memWfFrom (a + 1) t

/-- The canonical form. -/
def Memory.wf (m : Mem) : Bool := memWfFrom 0 m

/-- n bytes from an address. -/
def memBytes (m : Mem) (a : Nat) : Nat → List Byte
  | 0 => []
  | n + 1 => memGet m a :: memBytes m (a + 1) n

/-- n bytes read as a little-endian number (R4). -/
def memRead (m : Mem) (a n : Nat) : Nat := ofBytes (memBytes m a n)

/-- Writes a list of bytes from an address upward. -/
def memPut (m : Mem) (a : Nat) : List Byte → Mem
  | [] => m
  | b :: t => memPut (memSet m a b) (a + 1) t

/-- Writes the low n bytes of a number, little-endian. -/
def memWrite (m : Mem) (a n x : Nat) : Mem := memPut m a (toBytes x n)

/-- Removes every entry of a range, so that it reads 0. -/
def memZero (m : Mem) (a n : Nat) : Mem := m.filter fun c => decide (c.1 < a) || decide (a + n ≤ c.1)

/-- Copies n bytes from one place to another, through the bytes as they stood before. -/
def memMove (m : Mem) (dst src n : Nat) : Mem := memPut m dst (memBytes m src n)

/-! The package's physical map (R346) lies below 2^46.  The stores that the spec leaves outside every address space,
or gives a space of its own, lie above it, each at a place of the model's own (log entry 7). -/

/-- The scratchpad of a core (R206). -/
def spBase (core : Nat) : Nat := 2 ^ 48 + core * 2 ^ 20
/-- The slice of a lane (R10). -/
def lsBase (core lane : Nat) : Nat := 2 ^ 49 + core * 2 ^ 16 + lane * 2 ^ 10
/-- A physical slot of operand memory (R188). -/
def omBase (core slot : Nat) : Nat := 2 ^ 50 + core * 2 ^ 18 + slot * 2 ^ 12
/-- A physical accumulator tile (R197). -/
def tileBase (core phys : Nat) : Nat := 2 ^ 51 + core * 2 ^ 15 + phys * 2 ^ 12
/-- Cluster-shared memory of a cluster (R232). -/
def clBase (cluster : Nat) : Nat := 2 ^ 52 + cluster * 2 ^ 22

end Sys2Proof.Machine
end

