-- ==== Sys2Proof/Syntax.lean ====
section
/-! DEFINITION. The instructions: operand records of the slot forms (R52 to R62) and the one inductive `Instr`, one
constructor for each row of the opcode table: slot operations, machine events and packet-program instructions.
An event takes no operand: like an operation, it acts at the place that the machine's focus names (`Cur`), which
also carries what an outside party supplies. -/

namespace Sys2Proof

/-- A source selector (R56), reserved patterns left out. -/
inductive Sel where
  /-- class 00: a register of the file that the role implies -/
  | reg (n : BitVec 8)
  /-- class 01: latch of slot S, A or B (0, 1, 2), at depth `depth + 1` -/
  | latch (slot : Fin 3) (depth : BitVec 2)
  /-- class 10: q0 (false) or q1 (true) -/
  | queue (q : Bool)
  /-- class 11: a signed constant -/
  | const (c : BitVec 8)
  deriving DecidableEq, Repr

/-- One of the two vector slots (R64). -/
inductive VUnit where
  | a | b
  deriving DecidableEq, Repr

/-- The R form (R52). -/
structure ROp where
  pred : BitVec 4
  pn : Bool
  nw : Bool
  dst : BitVec 8
  xa : Sel
  xb : Sel
  xc : Sel
  md : BitVec 10
  deriving DecidableEq, Repr

/-- The RI form (R53). -/
structure RIOp where
  pred : BitVec 4
  pn : Bool
  nw : Bool
  dst : BitVec 8
  xa : Sel
  imm : BitVec 20
  md : BitVec 10
  deriving DecidableEq, Repr

/-- The I32 form (R53). -/
structure I32Op where
  pred : BitVec 4
  pn : Bool
  nw : Bool
  dst : BitVec 8
  imm : BitVec 32
  md : BitVec 8
  deriving DecidableEq, Repr

/-- The C slot (R61). -/
structure COp where
  pred : BitVec 4
  pn : Bool
  ca : BitVec 8
  cb : BitVec 8
  cc : BitVec 8
  md : BitVec 11
  deriving DecidableEq, Repr

/-- The Y slot (R62). -/
structure YOp where
  pred : BitVec 4
  pn : Bool
  yr : BitVec 8
  imm : BitVec 13
  deriving DecidableEq, Repr

/-- The instructions and events of the part. -/
inductive Instr where
  /-- ADD (R110): Scalar add of two 64-bit sources, modulo 2^64. -/
  | add (op : ROp)
  /-- SUB (R110): Scalar subtract, modulo 2^64. -/
  | sub (op : ROp)
  /-- ADDI (R111): Adds the sign-extended IMM20 to a scalar source. -/
  | addi (op : RIOp)
  /-- MUL (R110): Low 64 bits of a scalar product. -/
  | mul (op : ROp)
  /-- MULH (R110): High 64 bits of a signed scalar product. -/
  | mulh (op : ROp)
  /-- MULHU (R110): High 64 bits of an unsigned scalar product. -/
  | mulhu (op : ROp)
  /-- DIV (R110): Signed division truncated toward zero, with fixed results and ZD for a zero divisor. -/
  | div (op : ROp)
  /-- DIVU (R110): Unsigned division truncated toward zero. -/
  | divu (op : ROp)
  /-- REM (R110): Signed remainder with the sign of the dividend. -/
  | rem (op : ROp)
  /-- AND (R110): Bitwise AND of two scalars. -/
  | and (op : ROp)
  /-- OR (R110): Bitwise OR of two scalars. -/
  | or (op : ROp)
  /-- XOR (R110): Bitwise XOR of two scalars. -/
  | xor (op : ROp)
  /-- ANDN (R110): a AND NOT b. -/
  | andn (op : ROp)
  /-- SHL (R110): Scalar shift left by b[5:0]. -/
  | shl (op : ROp)
  /-- SHR (R110): Scalar logical shift right by b[5:0]. -/
  | shr (op : ROp)
  /-- SRA (R110): Scalar arithmetic shift right by b[5:0]. -/
  | sra (op : ROp)
  /-- ROT (R110): Scalar rotate left by b[5:0]. -/
  | rot (op : ROp)
  /-- CLZ (R110): Counts leading zero bits of a scalar. -/
  | clz (op : ROp)
  /-- POPC (R110): Counts one bits of a scalar. -/
  | popc (op : ROp)
  /-- MIN (R110): Signed scalar minimum. -/
  | min (op : ROp)
  /-- MAX (R110): Signed scalar maximum. -/
  | max (op : ROp)
  /-- MINU (R110): Unsigned scalar minimum. -/
  | minu (op : ROp)
  /-- MAXU (R110): Unsigned scalar maximum. -/
  | maxu (op : ROp)
  /-- SEL (R114): Selects a or b by bit 0 of a predicate. -/
  | sel (op : ROp)
  /-- CMP (R115): Compares two scalars and writes all ones or zero to a predicate. -/
  | cmp (op : ROp)
  /-- PAND (R116): AND of two predicates. -/
  | pand (op : ROp)
  /-- POR (R116): OR of two predicates. -/
  | por (op : ROp)
  /-- PXOR (R116): XOR of two predicates. -/
  | pxor (op : ROp)
  /-- PNOT (R116): NOT of a predicate. -/
  | pnot (op : ROp)
  /-- MOVI (R112): Writes a sign- or zero-extended 32-bit immediate. -/
  | movi (op : I32Op)
  /-- MOVHI (R112): Writes a 32-bit immediate to bits 63:32, keeping bits 31:0. -/
  | movhi (op : I32Op)
  /-- LEA (R111): Forms a based or bundle-relative address. -/
  | lea (op : RIOp)
  /-- BFX (R113): Extracts a bit field, optionally sign-extended. -/
  | bfx (op : ROp)
  /-- BFI (R113): Inserts a bit field. -/
  | bfi (op : ROp)
  /-- CSRR (R117): Reads a control register into a scalar. -/
  | csrr (op : RIOp)
  /-- CSRW (R85): Writes a control register, with value checks and register-specific effects such as loading the stochastic generator. -/
  | csrw (op : RIOp)
  /-- BR (R119): Unconditional bundle-relative branch. -/
  | br (op : I32Op)
  /-- BRC (R119): Branch on a scalar compared with zero. -/
  | brc (op : RIOp)
  /-- CALL (R120): Writes the return address and branches. -/
  | call (op : I32Op)
  /-- RET (R120): Branches to a scalar address. -/
  | ret (op : ROp)
  /-- LOOPM (R121): Sets up the modulo sequencer, or skips the kernel when N is 0. -/
  | loopm (op : RIOp)
  /-- BRLC (R107): Performs one modulo-sequencer step: LC, rotation, stage predicates and branch. -/
  | brlc (op : I32Op)
  /-- TRAP (R123): Commits the bundle and stops the context with the software-trap cause. -/
  | trap (op : I32Op)
  /-- END (R124): Ends the task or partition X routine after its bundle's close. -/
  | endTask (op : ROp)
  /-- ERET (R127): Applies each frozen context's RESUME action and ends the supervisor routine. -/
  | eret (op : ROp)
  /-- XRD (R126): Supervisor read of a register of any partition. -/
  | xrd (op : RIOp)
  /-- XWR (R126): Supervisor write of a register of any partition, cancelling in-flight writes. -/
  | xwr (op : RIOp)
  /-- VADD (R144): Elementwise vector add. -/
  | vadd (u : VUnit) (op : ROp)
  /-- VSUB (R144): Elementwise vector subtract. -/
  | vsub (u : VUnit) (op : ROp)
  /-- VMUL (R144): Elementwise vector multiply. -/
  | vmul (u : VUnit) (op : ROp)
  /-- VFMA (R144): Fused a*b+c with one rounding. -/
  | vfma (u : VUnit) (op : ROp)
  /-- VFMS (R144): Fused a*b-c with one rounding. -/
  | vfms (u : VUnit) (op : ROp)
  /-- VNFMA (R144): Fused c-a*b with one rounding. -/
  | vnfma (u : VUnit) (op : ROp)
  /-- VMIN (R144): Elementwise minimum. -/
  | vmin (u : VUnit) (op : ROp)
  /-- VMAX (R144): Elementwise maximum. -/
  | vmax (u : VUnit) (op : ROp)
  /-- VABS (R144): Elementwise absolute value. -/
  | vabs (u : VUnit) (op : ROp)
  /-- VNEG (R144): Elementwise negation. -/
  | vneg (u : VUnit) (op : ROp)
  /-- VSF (R146): Elementwise special function rounded to nearest even. -/
  | vsf (u : VUnit) (op : ROp)
  /-- VCVT (R148): Converts elements between formats, narrowing or widening by PART. -/
  | vcvt (u : VUnit) (op : ROp)
  /-- VQNT (R150): Quantises blocks to FP4 with block scales in the quantised layout. -/
  | vqnt (u : VUnit) (op : ROp)
  /-- VDQNT (R150): Dequantises FP4 blocks to a float type. -/
  | vdqnt (u : VUnit) (op : ROp)
  /-- VAND (R151): Bitwise AND of lanes. -/
  | vand (u : VUnit) (op : ROp)
  /-- VOR (R151): Bitwise OR of lanes. -/
  | vor (u : VUnit) (op : ROp)
  /-- VXOR (R151): Bitwise XOR of lanes. -/
  | vxor (u : VUnit) (op : ROp)
  /-- VNOT (R151): Bitwise NOT of lanes. -/
  | vnot (u : VUnit) (op : ROp)
  /-- VSHL (R151): Elementwise shift left. -/
  | vshl (u : VUnit) (op : ROp)
  /-- VSHR (R151): Elementwise logical shift right. -/
  | vshr (u : VUnit) (op : ROp)
  /-- VSRA (R151): Elementwise arithmetic shift right. -/
  | vsra (u : VUnit) (op : ROp)
  /-- VCMP (R152): Compares one element per lane and writes predicate bits. -/
  | vcmp (u : VUnit) (op : ROp)
  /-- VSEL (R153): Selects lanes of a or b by a predicate. -/
  | vsel (u : VUnit) (op : ROp)
  /-- VMOV (R153): Copies active lanes. -/
  | vmov (u : VUnit) (op : ROp)
  /-- VBCAST (R153): Broadcasts a scalar to every element. -/
  | vbcast (u : VUnit) (op : ROp)
  /-- VIOTA (R153): Writes a+i to element i. -/
  | viota (u : VUnit) (op : ROp)
  /-- VSHUF (R154): Permutes units by an index vector. -/
  | vshuf (u : VUnit) (op : ROp)
  /-- VROWM (R155): Moves rows under SHAPE by an index. -/
  | vrowm (u : VUnit) (op : ROp)
  /-- VCOLM (R155): Moves columns under SHAPE by an index. -/
  | vcolm (u : VUnit) (op : ROp)
  /-- VTRN (R156): Transposes the SHAPE matrix. -/
  | vtrn (u : VUnit) (op : ROp)
  /-- VRED (R157): Reduces rows or columns under SHAPE by the fixed pairwise tree. -/
  | vred (u : VUnit) (op : ROp)
  /-- VSCAN (R158): Scans rows or columns in ascending order. -/
  | vscan (u : VUnit) (op : ROp)
  /-- VDOT2 (R159): Per-lane BF16 pair dot product added to FP32 with one rounding. -/
  | vdot2 (u : VUnit) (op : ROp)
  /-- VEXT (R160): Extracts one element into a scalar. -/
  | vext (u : VUnit) (op : ROp)
  /-- VINS (R160): Replaces one element of a vector. -/
  | vins (u : VUnit) (op : ROp)
  /-- VLDS (R161): Per-lane load from the lane slice. -/
  | vlds (u : VUnit) (op : ROp)
  /-- VSTS (R161): Per-lane store to the lane slice, effective at issue. -/
  | vsts (u : VUnit) (op : ROp)
  /-- SADD (R163): Scalar add in a vector slot. -/
  | sadd (u : VUnit) (op : ROp)
  /-- SSUB (R163): Scalar subtract in a vector slot. -/
  | ssub (u : VUnit) (op : ROp)
  /-- SMUL (R163): Scalar multiply in a vector slot. -/
  | smul (u : VUnit) (op : ROp)
  /-- SMIN (R163): Scalar signed minimum in a vector slot. -/
  | smin (u : VUnit) (op : ROp)
  /-- SMAX (R163): Scalar signed maximum in a vector slot. -/
  | smax (u : VUnit) (op : ROp)
  /-- SAND (R163): Scalar AND in a vector slot. -/
  | sand (u : VUnit) (op : ROp)
  /-- SOR (R163): Scalar OR in a vector slot. -/
  | sor (u : VUnit) (op : ROp)
  /-- SXOR (R163): Scalar XOR in a vector slot. -/
  | sxor (u : VUnit) (op : ROp)
  /-- DNRM (R39): Renormalises an ordinary vector into a directional pair. -/
  | dnrm (u : VUnit) (op : ROp)
  /-- DEXP (R40): Expands a directional pair into ordinary vector elements. -/
  | dexp (u : VUnit) (op : ROp)
  /-- DDOT (R37): Forms the cosine of two directions. -/
  | ddot (u : VUnit) (op : ROp)
  /-- DDOT8 (R166): Forms eight cosines against consecutive directions. -/
  | ddot8 (u : VUnit) (op : ROp)
  /-- DSCL (R167): Adds a scalar to the norm, saturating. -/
  | dscl (u : VUnit) (op : ROp)
  /-- DNGET (R167): Reads a norm into a scalar. -/
  | dnget (u : VUnit) (op : ROp)
  /-- DNSET (R167): Writes a norm code onto a pair. -/
  | dnset (u : VUnit) (op : ROp)
  /-- DADD (R168): Adds two directional values and renormalises. -/
  | dadd (u : VUnit) (op : ROp)
  /-- DSUB (R168): Subtracts two directional values and renormalises. -/
  | dsub (u : VUnit) (op : ROp)
  /-- DNEG (R169): Negates a direction, keeping the norm. -/
  | dneg (u : VUnit) (op : ROp)
  /-- DMULV (R168): Multiplies a directional value by a vector and renormalises. -/
  | dmulv (u : VUnit) (op : ROp)
  /-- DLERP (R168): Interpolates two directional values and renormalises. -/
  | dlerp (u : VUnit) (op : ROp)
  /-- DMOV (R169): Copies a directional pair. -/
  | dmov (u : VUnit) (op : ROp)
  /-- DCVT (R165): Writes a direction's codes to a vector without the norm. -/
  | dcvt (u : VUnit) (op : ROp)
  /-- OMCLAIM (R189): Maps a range of operand slots from the core pool at issue. -/
  | omclaim (op : ROp)
  /-- OMREL (R189): Held release of a range of operand slots. -/
  | omrel (op : ROp)
  /-- OMLD (R190): Held load of one 4 KiB operand slot from memory. -/
  | omld (op : ROp)
  /-- OMST (R190): Held store of one operand slot to memory. -/
  | omst (op : ROp)
  /-- MMA (R200): Held matrix multiply-accumulate into a tile. -/
  | mma (op : ROp)
  /-- MMAQ (R201): Held BF16 by INT4-weight matrix multiply into a tile. -/
  | mmaq (op : ROp)
  /-- TZERO (R205): Held zeroing of a whole tile. -/
  | tzero (op : ROp)
  /-- TCFG (R198): Configures, reshapes or releases a tile at issue. -/
  | tcfg (op : ROp)
  /-- TROW (R202): Immediate read of a tile row into a vector. -/
  | trow (op : ROp)
  /-- TCOL (R202): Immediate read of a tile column into a vector. -/
  | tcol (op : ROp)
  /-- TROW_W (R202): Held write of a vector into a tile row. -/
  | trowW (op : ROp)
  /-- TCOL_W (R202): Held write of a vector into a tile column. -/
  | tcolW (op : ROp)
  /-- TLD (R203): Held load of a tile's shaped part from memory. -/
  | tld (op : ROp)
  /-- TST (R203): Held store of a tile's shaped part to memory. -/
  | tst (op : ROp)
  /-- TDRAIN (R204): Held conversion of a tile into a tensor in global memory. -/
  | tdrain (op : ROp)
  /-- TSAVE (R205): Held write of a tile to its save area. -/
  | tsave (op : ROp)
  /-- TSTAT (R199): Reads a tile's state, pending count and shape, optionally clearing DERR. -/
  | tstat (op : ROp)
  /-- LDA (R176): Pushes a scalar or vector load onto a data channel. -/
  | lda (op : RIOp)
  /-- LDW (R183): Pushes a load at a walker's current address and steps it. -/
  | ldw (op : ROp)
  /-- LDS (R180): Direct scalar scratchpad load at latency 4. -/
  | lds (op : ROp)
  /-- LDV (R180): Direct vector scratchpad load with conversion. -/
  | ldv (op : ROp)
  /-- LDG (R177): Per-lane gather load into a vector entry. -/
  | ldg (op : ROp)
  /-- LDX (R177): Per-lane strided load into a vector entry. -/
  | ldx (op : ROp)
  /-- PFT (R178): Prefetches a global line toward the core. -/
  | pft (op : ROp)
  /-- QDROP (R179): Discards the next n entries of a channel. -/
  | qdrop (op : ROp)
  /-- WSET (R182): Loads a walk record into a walker. -/
  | wset (op : ROp)
  /-- WADV (R183): Steps a walker n times. -/
  | wadv (op : ROp)
  /-- CSEL (R183): Reads a walker index, address or status. -/
  | csel (op : ROp)
  /-- STS (R184): Scalar store. -/
  | sts (op : ROp)
  /-- STV (R184): Vector store with conversion. -/
  | stv (op : ROp)
  /-- STW (R183): Store at a walker's current address, then step. -/
  | stw (op : ROp)
  /-- STG (R184): Per-lane scatter store. -/
  | stg (op : ROp)
  /-- STP (R184): Stores the 8 bytes of a predicate. -/
  | stp (op : ROp)
  /-- AADD (R185): Irrevocable atomic add, old value to q1. -/
  | aadd (op : ROp)
  /-- AFADD (R185): Irrevocable atomic FP32 add. -/
  | afadd (op : ROp)
  /-- AMIN (R185): Irrevocable atomic minimum. -/
  | amin (op : ROp)
  /-- AMAX (R185): Irrevocable atomic maximum. -/
  | amax (op : ROp)
  /-- AXCH (R185): Irrevocable atomic exchange. -/
  | axch (op : ROp)
  /-- ACAS (R185): Irrevocable atomic compare-and-swap. -/
  | acas (op : ROp)
  /-- AAND (R185): Irrevocable atomic AND. -/
  | aand (op : ROp)
  /-- AOR (R185): Irrevocable atomic OR. -/
  | aor (op : ROp)
  /-- AXOR (R185): Irrevocable atomic XOR. -/
  | axor (op : ROp)
  /-- COPY (R289): Held command sending a copy record to the cluster copy engine. -/
  | copy (op : COp)
  /-- COPYM (R284): Held copy into operand memory with a follow-on MMA. -/
  | copym (op : COp)
  /-- GATH (R286): Held gather of table rows by an index list. -/
  | gath (op : COp)
  /-- SCAD (R287): Held scatter-add of rows into a table. -/
  | scad (op : COp)
  /-- HREL (R283): Held release of a handle. -/
  | hrel (op : COp)
  /-- TASKL (R293): Held submission of a launch or graph to the Hearth. -/
  | taskl (op : COp)
  /-- TASKS_SETPRI (R294): Sets a launch's priority level. -/
  | tasksSetpri (op : COp)
  /-- TASKS_SUSP (R269): Suspends a launch and pre-empts its tasks. -/
  | tasksSusp (op : COp)
  /-- TASKS_RESUME (R269): Resumes a suspended launch. -/
  | tasksResume (op : COp)
  /-- CANC (R295): Cancels a task, launch, graph, phase or job of the issuing job. -/
  | canc (op : COp)
  /-- TMRK (R296): Irrevocable emission of a Bellows user-mark record. -/
  | tmrk (op : COp)
  /-- PKB (R410): Held build of a packet into a staging slot. -/
  | pkb (op : COp)
  /-- PKSND (R411): Irrevocable send of a staged packet. -/
  | pksnd (op : COp)
  /-- PKPRK_COPY (R412): Copies a park-queue entry to memory and keeps it. -/
  | pkprkCopy (op : COp)
  /-- PKPRK_TAKE (R412): Copies a park-queue entry to memory and frees it. -/
  | pkprkTake (op : COp)
  /-- PKPRK_RETRY (R412): Frees a park entry and re-injects its packet. -/
  | pkprkRetry (op : COp)
  /-- PKPRK_DROP (R412): Frees a park-queue entry. -/
  | pkprkDrop (op : COp)
  /-- RLD (R413): Irrevocable copy from a remote node into local memory. -/
  | rld (op : COp)
  /-- RST (R413): Irrevocable copy from local memory to a remote node. -/
  | rst (op : COp)
  /-- FAA (R414): Irrevocable fabric fetch-and-add. -/
  | faa (op : COp)
  /-- FFN (R415): Irrevocable flagged fence storing a flag after earlier remote writes. -/
  | ffn (op : COp)
  /-- COLL (R420): Held submission of a collective record. -/
  | coll (op : COp)
  /-- RESH (R433): Held submission of a resharding record. -/
  | resh (op : COp)
  /-- CBKT (R429): Held signal that a collective bucket is ready on this die. -/
  | cbkt (op : COp)
  /-- CWGT (R431): Held setting of the node's link arbitration weights. -/
  | cwgt (op : COp)
  /-- WAITH (R129): Closes the segment and waits for a handle state. -/
  | waith (op : YOp)
  /-- WAITC (R130): Closes the segment and waits for a delivery counter to reach a target. -/
  | waitc (op : YOp)
  /-- ACQ (R131): Holds the bundle until earlier loads and atomics have returned. -/
  | acq (op : YOp)
  /-- REL (R131): Holds the bundle until earlier accesses are performed at the scope. -/
  | rel (op : YOp)
  /-- FENCE (R131): Holds the bundle until earlier core-path accesses are performed. -/
  | fence (op : YOp)
  /-- FENCEX (R306): Holds until completed writes of two named paths are visible to each other. -/
  | fencex (op : YOp)
  /-- CHK (R133): Compares two operands and stops with SDE when the condition fails. -/
  | chk (op : YOp)
  /-- YLD (R134): Yields the port at the next segment close. -/
  | yld (op : YOp)
  /-- BRK (R135): Stops the context with the debug cause. -/
  | brk (op : YOp)
  /-- TRIG (R136): Held decrement of a Hearth node's predecessor count. -/
  | trig (op : YOp)
  /-- FPCLR (R137): Clears selected FPSTAT bytes and FPREC. -/
  | fpclr (op : YOp)
  /-- FPSNAP (R138): Copies FPSTAT and FPREC into two scalars, optionally clearing them. -/
  | fpsnap (op : YOp)
  /-- BARA (R237): Held arrival at a cluster barrier. -/
  | bara (op : YOp)
  /-- BARW (R238): Closes the segment and waits for a barrier phase. -/
  | barw (op : YOp)
  /-- RDV (R242): Clears holds on the member and waits for its rendezvous group. -/
  | rdv (op : YOp)
  /-- PKT_PSHR (R394): Pushes a packet register. -/
  | pktPshr (n : BitVec 2)
  /-- PKT_POPR (R394): Pops into a packet register. -/
  | pktPopr (n : BitVec 2)
  /-- PKT_PSHI (R394): Pushes a sign-extended 10-bit immediate. -/
  | pktPshi (im : BitVec 10)
  /-- PKT_DUP (R394): Duplicates the top of stack. -/
  | pktDup
  /-- PKT_SWP (R394): Swaps the top two entries. -/
  | pktSwp
  /-- PKT_DRP (R394): Drops the top entry. -/
  | pktDrp
  /-- PKT_ADD (R394): Wrapping add of the top two entries. -/
  | pktAdd
  /-- PKT_SUB (R394): Wrapping subtract. -/
  | pktSub
  /-- PKT_MIN (R394): Signed minimum. -/
  | pktMin
  /-- PKT_MAX (R394): Signed maximum. -/
  | pktMax
  /-- PKT_AND (R394): Bitwise AND. -/
  | pktAnd
  /-- PKT_OR (R394): Bitwise OR. -/
  | pktOr
  /-- PKT_XOR (R394): Bitwise XOR. -/
  | pktXor
  /-- PKT_SHL (R394): Shift left by b[4:0]. -/
  | pktShl
  /-- PKT_SHR (R394): Logical shift right by b[4:0]. -/
  | pktShr
  /-- PKT_CEQ (R394): Pushes 1 when the two entries are equal. -/
  | pktCeq
  /-- PKT_CLT (R394): Pushes 1 when a is signed-less than b. -/
  | pktClt
  /-- PKT_LDW (R395): Reads a Crucible word of the job's window. -/
  | pktLdw
  /-- PKT_ADW (R395): Indivisibly adds to a Crucible word and pushes the old value. -/
  | pktAdw
  /-- PKT_XCW (R395): Indivisibly exchanges a Crucible word. -/
  | pktXcw
  /-- PKT_TSC (R394): Pushes the low 32 bits of Bellows time. -/
  | pktTsc
  /-- PKT_INC (R394): Increments a packet register. -/
  | pktInc (n : BitVec 2)
  /-- PKT_NODE (R394): Pushes this node's coordinate. -/
  | pktNode
  /-- PKT_HOPS (R394): Pushes the remaining hop budget. -/
  | pktHops
  /-- PKT_PLD (R395): Pushes a payload word, or 0 beyond PLEN. -/
  | pktPld (w : BitVec 7)
  /-- PKT_PACC_I32 (R395): Adds a popped value into a payload word modulo 2^32. -/
  | pktPaccI32 (w : BitVec 7)
  /-- PKT_PACC_F32 (R395): Adds a popped FP32 value into a payload word. -/
  | pktPaccF32 (w : BitVec 7)
  /-- PKT_PACC_MAX (R395): Takes the signed maximum into a payload word. -/
  | pktPaccMax (w : BitVec 7)
  /-- PKT_JZ (R396): Pops and branches when zero. -/
  | pktJz (t : BitVec 4)
  /-- PKT_JNZ (R396): Pops and branches when nonzero. -/
  | pktJnz (t : BitVec 4)
  /-- PKT_JMP (R396): Branches unconditionally. -/
  | pktJmp (t : BitVec 4)
  /-- PKT_ROUTE_PORT (R397): Sends the packet out of a named port. -/
  | pktRoutePort (n : BitVec 4) (d : BitVec 3)
  /-- PKT_ROUTE_AUTO (R397): Sends the packet by dimension-order routing toward DST. -/
  | pktRouteAuto (n : BitVec 4)
  /-- PKT_ROUTE_POP (R397): Sends the packet in a popped direction. -/
  | pktRoutePop (n : BitVec 4)
  /-- PKT_CLONE (R398): Sends one copy out of each port in a mask. -/
  | pktClone (n : BitVec 4) (m : BitVec 6)
  /-- PKT_DLVR_CTR (R399): Writes the payload and raises a delivery counter. -/
  | pktDlvrCtr
  /-- PKT_DLVR_HND (R399): Fills a handle with the payload. -/
  | pktDlvrHnd
  /-- PKT_DLVR_NODE (R399): Writes the payload and decrements a Hearth node. -/
  | pktDlvrNode
  /-- PKT_DLVR_GRAPH (R399): Submits a graph descriptor to the job's open phase. -/
  | pktDlvrGraph
  /-- PKT_PARK (R400): Parks the packet with code 0x80+n. -/
  | pktPark (n : BitVec 7)
  /-- PKT_DROP (R400): Discards the packet. -/
  | pktDrop
  /-- RESULT_VISIBLE (R91): A result of latency L becomes visible when the context's issued-bundle count reaches i+L. -/
  | resultVisible
  /-- NORM_SCOREBOARD_CLEAR (R43): A pending norm write completes and releases bundles waiting on it. -/
  | normScoreboardClear
  /-- SEGMENT_CLOSE (R105): Drains results, sends held commands, performs the irrevocable operation, frees queue space and evaluates the wait. -/
  | segmentClose
  /-- SEGMENT_LIMIT_CLOSE (R104): The core closes a segment that reaches 256 issued bundles. -/
  | segmentLimitClose
  /-- WAIT_SATISFIED (R97): A WAITING context's wait becomes satisfied and it becomes READY. -/
  | waitSatisfied
  /-- LOAD_DATA_ARRIVAL (R95): Data of a queued load arrives in its channel, possibly readying a QSTALL context. -/
  | loadDataArrival
  /-- QUEUE_SWITCH (R98): After LDQSW cycles of a pop wait or ordering hold, the context enters QSTALL and yields the port. -/
  | queueSwitch
  /-- TIME_SLICE_SWITCH (R99): A READY context's wait reaching 1,024 cycles makes the holder leave at its next close. -/
  | timeSliceSwitch
  /-- FORCED_DEPARTURE (R99): With no close within 1,024 further cycles, the holder leaves at the next bundle boundary. -/
  | forcedDeparture
  /-- TRANSIENT_ERROR (R220): An uncorrectable error in transient state rewinds the consuming segment, or kills on a repeat. -/
  | transientError
  /-- HANDLER_ENTRY (R215): Partition X enters a trap handler or the supervisor with copies of the victim's state. -/
  | handlerEntry
  /-- URGENT_PREEMPTION (R222): An urgent request gives partition X the port and freezes the victim. -/
  | urgentPreemption
  /-- ORDINARY_PREEMPTION (R223): A Hearth pre-emption freezes the victim at its next segment close. -/
  | ordinaryPreemption
  /-- BANK_DROWSY (R247): Register banks of a context frozen for 256 cycles go drowsy. -/
  | bankDrowsy
  /-- FETCH_BLOCK_ARRIVE (R355): A code block reaches the fetch buffer and its tag is checked before any bundle opens. -/
  | fetchBlockArrive
  /-- MATRIX_CMD_START (R194): The matrix engine starts the next queued command after the previous one's last step. -/
  | matrixCmdStart
  /-- MATRIX_CMD_COMPLETE (R194): A matrix command completes 12 cycles after its last step, making its writes and flags visible. -/
  | matrixCmdComplete
  /-- TILE_CLAIM_EVICT (R197): A tile claim with no free physical tile evicts a victim or waits. -/
  | tileClaimEvict
  /-- LAZY_SAVE_DONE (R197): A DIRTY victim tile finishes its 64-cycle save and becomes SAVED. -/
  | lazySaveDone
  /-- LAZY_RESTORE_DONE (R197): A SAVED tile finishes its 64-cycle reload and becomes CLEAN. -/
  | lazyRestoreDone
  /-- MATRIX_ENGINE_FAILURE (R250): A core's matrix engine fails, making its cluster no-matrix and killing dependent jobs. -/
  | matrixEngineFailure
  /-- MACHINE_CHECK (R221): A write that fails after translation kills the whole job on every die. -/
  | machineCheck
  /-- BARA_ACCEPT (R237): The barrier unit accepts an arrival once the release condition holds, possibly completing the phase. -/
  | baraAccept
  /-- GRAPH_ADMIT (R257): The Hearth admits a waiting graph once enough free node entries exist. -/
  | graphAdmit
  /-- NODE_DECREMENT (R260): Summed decrements reach a Hearth node in one router cycle. -/
  | nodeDecrement
  /-- PHASE_OPEN (R258): The next phase opens on all dies after the previous one closes and completes. -/
  | phaseOpen
  /-- LAUNCH_READY (R262): A node becomes READY and the Hearth reads and checks its launch record. -/
  | launchReady
  /-- LAUNCH_EXPAND (R264): The Hearth expands one task of a READY launch and sends it to an eligible cluster. -/
  | launchExpand
  /-- LAUNCH_AGE (R264): A launch's age timer passes 100 us and the launch rises one level. -/
  | launchAge
  /-- TASK_DISPATCH (R235): A cluster places its head ready task on a candidate core and context. -/
  | taskDispatch
  /-- TASK_STEAL (R266): A cluster with an empty queue steals the tail task of another cluster. -/
  | taskSteal
  /-- URGENT_DISPATCH (R268): A level-0 launch's task goes to partition X of its named core. -/
  | urgentDispatch
  /-- CORE_UNBIND (R267): A core with no active context or busy handle unbinds and zeroes its memories. -/
  | coreUnbind
  /-- NODE_COMPLETE (R254): A node completes with a status and decrements or cancels its successors. -/
  | nodeComplete
  /-- COPY_ACCEPT (R274): The copy engine reads a copy record and takes its handle. -/
  | copyAccept
  /-- COPY_NODE_START (R288): A READY copy node starts on the least loaded copy engine. -/
  | copyNodeStart
  /-- COPY_COMPLETE (R281): A copy finishes; its completion word is written and its handle enters FULL. -/
  | copyComplete
  /-- COPYM_MMA_ENQUEUE (R284): After a COPYM's copy ends OK, its MMA enters the matrix queue when an entry is free. -/
  | copymMmaEnqueue
  /-- HANDLE_FREE (R282): A DRAINING handle becomes FREE once earlier handle-using commands complete. -/
  | handleFree
  /-- PAGE_WALK (R325): A page-table walk completes, filling the TLB or reporting a fault. -/
  | pageWalk
  /-- TLBINV_PAGE (R326): TLBINV kind 00 invalidates one page of an ASID. -/
  | tlbinvPage
  /-- TLBINV_ASID (R326): TLBINV kind 01 invalidates a whole ASID. -/
  | tlbinvAsid
  /-- TLBINV_ALL (R326): TLBINV kind 10 invalidates everything. -/
  | tlbinvAll
  /-- RESOLVE_RETRY (R327): RESOLVE with FAIL 0 retries the suspended work at its faulting piece. -/
  | resolveRetry
  /-- RESOLVE_FAIL (R327): RESOLVE with FAIL 1 stops the suspended work with FAULT. -/
  | resolveFail
  /-- REGISTER_WRITE (R361): A write to a device register that has no behaviour of its own. -/
  | registerWrite
  /-- TRACE_SINK_WRITE (R335): The sink writes a record to a tenant ring and returns the source's credit. -/
  | traceSinkWrite
  /-- TRACE_STALL (R337): A lossless source with no credit stalls until a credit returns. -/
  | traceStall
  /-- MXSUM (R341): Every 65,536 cycles or at task end, the core emits matrix-cycle summaries. -/
  | mxsum
  /-- TIME_STEP (R330): A PTP correction steps or slews the package time master. -/
  | timeStep
  /-- DEBUG_BREAKPOINT (R343): A bundle matching an enabled breakpoint stops before decode. -/
  | debugBreakpoint
  /-- PATROL_SCRUB (R347): The patrol scrub reads and corrects DRAM lines once per 24 hours. -/
  | patrolScrub
  /-- ADMIT (R358): Admits a job from an admission record. -/
  | admitJob
  /-- CLOSEJOB (R362): Closes a job. -/
  | closejob
  /-- KILLJOB (R362): Kills a job as a job-level cancel. -/
  | killjob
  /-- JOBSTAT (R362): Returns a job's status. -/
  | jobstat
  /-- TENANT_CREATE (R357): Creates a tenant with its CONF flag and key digest. -/
  | tenantCreate
  /-- TENANT_DESTROY (R362): Destroys a tenant that owns no job or key. -/
  | tenantDestroy
  /-- KEYGEN (R349): Loads a random key for a non-confidential tenant. -/
  | keygen
  /-- KEYZERO (R351): Returns a key to EMPTY on every controller at one instant. -/
  | keyzero
  /-- COUNTER (R340): Returns a tenant's counter on a die, subject to the allow-list. -/
  | counter
  /-- FWCONFIRM (R371): Raises OTPSVN to the running slot's SVN. -/
  | fwconfirm
  /-- MIGQUIESCE (R375): Suspends a job and waits until it is QUIESCED. -/
  | migquiesce
  /-- MIGSEND (R376): Sends a job's pages, and for a final pass its state, as one sealed stream. -/
  | migsend
  /-- MIGRECV (R376): Accepts one migration stream into an admitted job. -/
  | migrecv
  /-- MIGRESUME (R375): Resumes a job's launches and continues its frozen tasks. -/
  | migresume
  /-- SQ_SUBMIT_GRAPH (R362): A submission-queue entry submits a graph descriptor. -/
  | sqSubmitGraph
  /-- SQ_CLOSE_PHASE (R362): A submission-queue entry closes the open phase. -/
  | sqClosePhase
  /-- SQ_CLOSE_JOB (R362): A submission-queue entry closes the job. -/
  | sqCloseJob
  /-- FEATCTL_COMMIT (R363): Commits the accepted feature map or rejects it. -/
  | featctlCommit
  /-- BAR2_ACCESS (R360): A host access through BAR2 under the function's APKEY, or a Completer Abort. -/
  | bar2Access
  /-- KEY_SET (R365): SPDM message loading a confidential tenant's key. -/
  | keySet
  /-- KEY_ZERO (R365): SPDM message zeroising a confidential tenant's key. -/
  | keyZero
  /-- LOCK_INTERFACE (R365): TDISP message binding a TDI to a tenant. -/
  | lockInterface
  /-- GET_MEASUREMENTS (R372): SPDM request returning the device measurements. -/
  | getMeasurements
  /-- TDI_LEAVE_RUN (R365): A TDI leaving RUN triggers the link-down actions for its tenant. -/
  | tdiLeaveRun
  /-- LINK_DOWN (R367): A hot reset or link-down zeroises session keys and stops host DMA. -/
  | linkDown
  /-- LINKDOWN_STOP_CONF_JOBS (R367): At 1 us, confidential jobs' contexts and commands stop. -/
  | linkdownStopConfJobs
  /-- LINKDOWN_ZEROISE (R367): At 4 us, confidential jobs' on-chip state and keys are zeroised. -/
  | linkdownZeroise
  /-- BUS_MASTER_ENABLE (R367): Setting PF0's Bus Master Enable writes buffered reports in order. -/
  | busMasterEnable
  /-- FIRMWARE_UPDATE (R370): Writes the inactive firmware slot over PLDM. -/
  | firmwareUpdate
  /-- FIRMWARE_COMMIT (R370): Verifies the new image and sets it as the preferred slot. -/
  | firmwareCommit
  /-- PACKAGE_RESET (R369): The ROM selects and verifies a firmware slot and arms the watchdog. -/
  | packageReset
  /-- FIRMWARE_HEALTHY (R369): Firmware declares itself healthy, clearing the attempt count and disarming the watchdog. -/
  | firmwareHealthy
  /-- WATCHDOG_EXPIRE (R369): The 60 s boot watchdog expires and resets the package. -/
  | watchdogExpire
  /-- POWER_LIMIT_SET (R379): The side-band sets a package power limit. -/
  | powerLimitSet
  /-- CLOCK_STEP (R379): The core clock steps down or up as the power or temperature excess appears or clears. -/
  | clockStep
  /-- THERMAL_TRIP (R379): A junction temperature of 110 C is a fatal event. -/
  | thermalTrip
  /-- FATAL_DUMP (R378): A fatal event freezes the package and writes dump records. -/
  | fatalDump
  /-- DUMP_MARKER_ARRIVE (R434): A dump marker arrives on a port, taking the cut or closing that port's recording. -/
  | dumpMarkerArrive
  /-- PACKET_ARRIVAL (R391): An Anvil lane checks, decrements HB and executes an arriving or injected packet. -/
  | packetArrival
  /-- PACKET_INJECT (R411): The packet unit stamps a staged packet and hands it to an injection lane. -/
  | packetInject
  /-- PACKET_TIMEOUT (R384): A packet unable to leave for 4,096 router cycles is parked with TIMEOUT. -/
  | packetTimeout
  /-- REMOTE_REQUEST_ARRIVE (R416): A remote operation reaches its target node and is performed or fails. -/
  | remoteRequestArrive
  /-- REMOTE_RESPONSE_ARRIVE (R413): A remote operation's response returns and its handle enters FULL. -/
  | remoteResponseArrive
  /-- REMOTE_DISCARD (R404): A remote request stuck for 4,096 router cycles on an absent port is discarded. -/
  | remoteDiscard
  /-- LINK_FLIT_RETRY (R381): A flit whose CRC fails is resent from the retry buffer. -/
  | linkFlitRetry
  /-- COLL_ACCEPT (R427): The collective engine reads and checks a collective record. -/
  | collAccept
  /-- BUCKET_COMPLETE (R425): A bucket completes on a node: completion words, counter and COLL_BKT. -/
  | bucketComplete
  /-- COLL_ABORT_ARRIVE (R427): An abort spreading on VC 3 ends a collective's incomplete buckets. -/
  | collAbortArrive
  /-- CWGT_APPLY (R431): New link weights take effect 8 router cycles after arrival. -/
  | cwgtApply
  /-- CORE_STORE_PERFORMED (R299): A core-path store (or aperture store) is performed at its home and its scope instance, possibly ending a REL or FENCE hold or permitting a BARA acceptance. -/
  | coreStorePerformed
  /-- SEALED_HEADER_VERIFIED (R354): Sniras finishes verifying a sealed-program header within 40 us and enters it in the program table or refuses it. -/
  | sealedHeaderVerified
  /-- TORUS_LINK_TRAINED (R380): A torus port's link finishes training and the port becomes present. -/
  | torusLinkTrained
  /-- TORUS_LINK_DOWN (R404): A torus port's link goes down, parking packets bound for it with NOROUTE and making the port not present. -/
  | torusLinkDown
  /-- HOST_LINK_UP (R366): The PCIe host link comes up again after a link-down, ending the side-band's right to kill jobs. -/
  | hostLinkUp
  /-- SPDM_SECURED_SESSION (R365): A requester establishes a secured SPDM session, proving possession of a tenant key where KEY_SET needs it. -/
  | spdmSecuredSession
  /-- IDE_STREAM_PROGRAM (R364): The host programs the keys of a Selective IDE stream. -/
  | ideStreamProgram
  /-- TDI_ENTER_RUN (R365): A locked TDI is brought to the TDISP RUN state. -/
  | tdiEnterRun
  /-- PACKET_UNIT_DONE (R412): The packet unit finishes a PKB build, making the slot BUILT, or finishes writing a PKPRK record and moves its handle to FULL. -/
  | packetUnitDone
  /-- COLL_CHUNK_ARRIVE (R427): A collective chunk arrives from another mesh node and its header's shared fields are compared, raising MISMATCH if they differ. -/
  | collChunkArrive
  deriving DecidableEq, Repr

end Sys2Proof
end

