-- ==== Sys2Proof/Machine/State.lean ====
section
/-! DEFINITION. The state of the part as plain data: contexts, cores, clusters, dies, the package, and the model's own
schedule.  INVENTORY.md lists every field with the rule that names it and its reset value. -/

namespace Sys2Proof.Machine

/-- Why a step stops.  No rule of the spec stops the whole part outside its own state, so the one reason is
unreachable: it is raised by nothing (safe). -/
inductive Fault where
  /-- Raised by no meaning. Safe. -/
  | none
  deriving DecidableEq, Repr

/-- Why a step is refused. -/
inductive Refusal where
  /-- An instruction whose meaning is not written: raised by its arm of `exec` alone. Safe. -/
  | notModelled (mnemonic : String)
  deriving DecidableEq, Repr

/-- A flag event of a T operation that is still to become visible (R108, R173, R187): its cycle, flags and bundle, and whether its
segment is still open, so that a rewind takes it back (R102). -/
structure LateFl where
  due : Nat
  fl : Flags
  addr : Word
  opn : Bool
  deriving DecidableEq, Repr

/-- A trap: the offending part (R73), cause, subcode (R211) and value. -/
structure Trap where
  part : Nat
  cause : Nat
  sub : Nat
  val : Word
  deriving DecidableEq, Repr

/-- Memory spaces of L, T and M operands (R170). -/
inductive Space where
  | sp | cl | ds | g
  deriving DecidableEq, Repr

/-- Context states (R97). -/
inductive CtxStat where
  | free | ready | issuing | waiting | qstall | frozen
  deriving DecidableEq, Repr

/-- Handle states (R129, R282). -/
inductive HState where
  | free | filling | full | draining
  deriving DecidableEq, Repr

/-- What a context in WAITING waits for (R129, R130, R238, R242). -/
inductive Wait where
  | handle (h : Nat) (st : HState) (scope : Nat)
  | counter (c : Nat) (target : Nat) (scope : Nat)
  | barrier (k : Nat) (scope : Nat)
  | rdv (scope : Nat)
  deriving DecidableEq, Repr

/-- A latch entry carries the width of the result that made it (R57). -/
inductive LatchVal where
  | scalar (x : Word)
  | vector (x : Vec)
  deriving DecidableEq, Repr

/-- The memory part of a load, store or atomic: where and in what shape.  `addr` is the program address of a whole
access, `lanes` the active lanes of a per-lane access with their addresses. -/
inductive Shape where
  /-- `n` bytes, sign-extended or not -/
  | scalar (n : Nat) (sx : Bool)
  /-- a vector of register type `ty` and memory format `mf`, FMT codes, 0xF the page's own (R171) -/
  | vector (ty mf : Nat)
  /-- one element of `n` bytes a lane (R177, R184) -/
  | lanes (n : Nat) (sx : Bool)
  deriving DecidableEq, Repr

/-- A part of an access that lies in one place: its byte offset in the access, or its lane, its program address, its
physical or model address, its length, and its page's key and MLOG bit (R323). -/
structure Run where
  off : Nat
  va : Word
  pa : Nat
  n : Nat
  key : Nat
  mlog : Bool
  deriving DecidableEq, Repr

structure MemReq where
  space : Space
  shape : Shape
  addr : Word
  mask : Word
  lanes : List (Nat × Word)
  scope : Nat
  /-- where the access lies, once it is translated -/
  runs : List Run
  /-- the memory format that applies, 0 for raw bits, and GEO 001 (R171, R19) -/
  fmt : Nat
  geo : Bool
  deriving DecidableEq, Repr

/-- The state of a queue entry (R95, R174, R175). -/
inductive QStat where
  /-- the load is still to return -/
  | pending
  /-- an atomic of the open segment is still to be performed (R186) -/
  | atomic
  | ready
  | faulted (t : Trap)
  deriving DecidableEq, Repr

/-- One entry of a load-data channel (R174). -/
structure QEntry where
  vec : Bool
  data : Vec
  stat : QStat
  req : Option MemReq
  /-- the conversion flags that its pop makes visible (R187) -/
  fl : Flags
  addr : Word
  deriving DecidableEq, Repr

/-- A load-data channel (R95, R96): the entries in push order, how many of them are popped and how many were pushed in
the open segment, and the entries of a rewound run that are still to be matched. -/
structure QChan where
  ents : List QEntry
  popped : Nat
  pushed : Nat
  old : List QEntry
  deriving DecidableEq, Repr

/-- A walker: record, the six indices, EXH, malformed (R181). -/
structure Walker where
  body : BitVec 512
  idx : List Nat
  exh : Bool
  bad : Bool
  deriving DecidableEq, Repr

/-- A register write in flight (R91). -/
inductive Write where
  | s (k : Nat) (x : Word)
  /-- bits of `mask` of physical predicate k -/
  | p (k : Nat) (mask x : Word)
  /-- lanes of `mask` of physical vector k -/
  | v (k : Nat) (mask : Word) (x : Vec)
  /-- a directional pair (R41) -/
  | pair (k : Nat) (q : Vec) (n : BitVec 32)
  /-- a norm alone -/
  | norm (k : Nat) (n : BitVec 32)
  | csr (num : Nat) (x : Word)
  | wset (k : Nat) (w : Walker)
  | wstep (k : Nat) (n : Nat)
  /-- FPCLR (R137): bytes of FPSTAT and FPREC -/
  | fpclr (mask : BitVec 7)
  deriving DecidableEq, Repr

/-- A result in flight: it becomes visible to bundles numbered `due` and above (R91). -/
structure Pend where
  due : Nat
  /-- the slot in FPSTAT order: S, A, B, M, L, T -/
  slot : Nat
  writes : List Write
  latch : Option LatchVal
  fl : Flags
  /-- the bundle address, for FPREC -/
  addr : Word
  /-- the result is poisoned (R220) -/
  bad : Bool
  deriving DecidableEq, Repr

/-- The control registers a context holds (R85).  FEAT0-3 and CTXID's place bits are computed. -/
structure Csr where
  shape : BitVec 14
  dlen : BitVec 8
  tshp : Tab (BitVec 14)
  rotv : BitVec 5
  rotp : BitVec 3
  lc : Word
  ec : BitVec 6
  fpstat : BitVec 48
  fprec : Word
  rmode : BitVec 3
  rseed : Word
  tcx : BitVec 32
  tcy : BitVec 32
  tcz : BitVec 32
  sup : Bool
  /-- DIE, CLU, CORE and CTX of CTXID as XWR last wrote them; none while they are the hardware's (R85, R87, R126) -/
  place : Option (BitVec 12)
  ldqsw : BitVec 16
  bndlo : BitVec 19
  bndhi : BitVec 19
  segpc : Word
  done : BitVec 9
  trapc : BitVec 20
  trapv : Word
  lnch : BitVec 32
  /-- FEAT0 to FEAT3, as accepted when the partition was entered (R85, R363) -/
  feat : BitVec 256
  deriving DecidableEq, Repr

/-- What a rewind restores (R102, R183). -/
structure SegSave where
  rotv : BitVec 5
  rotp : BitVec 3
  lc : Word
  ec : BitVec 6
  /-- physical p8 to p15 -/
  preds : List Word
  gen : Word
  fpstat : BitVec 48
  fprec : Word
  walkers : Tab Walker
  deriving DecidableEq, Repr

/-- A task's fixed attributes, set at dispatch (R83, R206, R233, R236, R261, R271). -/
structure Task where
  /-- the model's own number of the dispatched task -/
  serial : Nat
  job : Nat
  lnch : BitVec 32
  tidx : Nat
  asid : Nat
  tenant : Nat
  /-- the program's PROG address; bundles lie from PROG + 0x200 (R352) -/
  prog : Word
  handler : Word
  spBase : Nat
  spSize : Nat
  clBase : Nat
  clSize : Nat
  /-- handle range (R271) -/
  hLo : Nat
  hCnt : Nat
  /-- physical barriers of the names b0, b1, … (R236) -/
  bars : List Nat
  rdv : Option Nat
  /-- save area, 0 when there is none (R197) -/
  save : Word
  nomx : Bool
  urgent : Bool
  /-- the launch's node on its die, its level and the phase it runs in (R253, R258) -/
  node : Nat
  prio : Nat
  phase : Nat
  deriving DecidableEq, Repr

/-- Who translates: address space, supervisor mode, tenant and the root table (R322, R324, R350). -/
structure XCtx where
  asid : Nat
  sup : Bool
  tenant : Nat
  root : Nat
  deriving DecidableEq, Repr

/-- A held M command (R193), its operands captured at issue; slots are physical. -/
inductive MKind where
  | omrel (names phys : List Nat)
  | omld (phys : Nat)
  | omst (phys : Nat)
  | mma (a b : Nat) (k : Nat) (fa fb : Nat) (z : Bool)
  | mmaq (a b : Nat) (k : Nat) (z : Bool)
  | tzero
  | rowW (idx : Nat) (data : Vec) (mask : Word)
  | colW (idx : Nat) (data : Vec) (mask : Word)
  | tld
  | tst
  | tdrain (zr : Bool) (row0 col0 : Nat)
  | tsave
  deriving DecidableEq, Repr

structure MCmd where
  kind : MKind
  /-- owner: context, task serial and job -/
  ctx : Nat
  serial : Nat
  job : Nat
  /-- the tile it names, if any, and the tile's shape at issue -/
  tile : Option Nat
  shape : BitVec 14
  /-- where its memory operand, or its record, lies -/
  place : Nat
  x : XCtx
  /-- the bundle, for FPREC and traces -/
  addr : Word
  /-- the COPYM handle that waits for this MMA, if any (R284) -/
  follow : Option Nat
  deriving DecidableEq, Repr

/-- A held engine command of the C or Y slot (R61, R105): the operation, the three captured operands, MOD and scope. -/
inductive CKind where
  | copy | copym | gath | scad | hrel | taskl | tasksSetpri | tasksSusp | tasksResume | canc | tmrk
  | pkb | pksnd | pkprkCopy | pkprkTake | pkprkRetry | pkprkDrop | rld | rst | faa | ffn
  | coll | resh | cbkt | cwgt | trig | bara
  deriving DecidableEq, Repr

structure CCmd where
  kind : CKind
  a : Word
  b : Word
  c : Word
  md : Nat
  scope : Nat
  addr : Word
  deriving DecidableEq, Repr

/-- An irrevocable atomic (R185, R186): performed at step 3 of the close. -/
inductive AKind where
  | aadd | afadd | amin | amax | axch | acas | aand | aor | axor
  deriving DecidableEq, Repr

structure ACmd where
  kind : AKind
  space : Space
  /-- program address, and the place its translation found at issue -/
  addr : Word
  place : Nat
  key : Nat
  mlog : Bool
  n : Nat
  opnd : Word
  cmp : Word
  uns : Bool
  scope : Nat
  bundle : Word
  deriving DecidableEq, Repr

/-- A command held in the open segment, in issue order. -/
inductive Held where
  | m (c : MCmd)
  | c (c : CCmd)
  | a (c : ACmd)
  deriving DecidableEq, Repr

/-- What ends with a close (R124, R127). -/
inductive EndReq where
  | endTask | eret
  deriving DecidableEq, Repr

/-- Why a context is FROZEN. -/
inductive Freeze where
  | none
  /-- a trap (R213), its cause code in TRAPC -/
  | trap
  /-- an urgent pre-emption (R222) -/
  | urgent
  /-- an ordinary pre-emption or a suspension by the Hearth (R223) -/
  | hearth
  /-- stopped with a debug stop of another context of the core (R343) -/
  | corestop
  deriving DecidableEq, Repr

/-- A completion held back while its context stands at a debug stop (R344). -/
inductive Deferred where
  /-- flags of a matrix command and its bundle -/
  | flags (fl : Flags) (addr : Word)
  /-- the end of a copy: cluster and copy sequence number -/
  | copy (cluster seq : Nat)
  /-- the end of a remote operation: its request slot -/
  | remote (slot : Nat)
  /-- the end of a PKPRK: its handle and its number among the core's handle-using commands -/
  | park (hnd num : Nat)
  /-- the end of a collective's bucket on this node: record and bucket -/
  | bucket (cnum bucket : Nat)
  deriving DecidableEq, Repr

/-- A packet (R388, R389): the header's fields, the program, the registers k0 to k3, the stack's eight entries, and the payload
words.  PLEN is held in bytes, SD is the stack depth. -/
structure Packet where
  ts : BitVec 64
  tag : BitVec 16
  rty : Bool
  cln : Bool
  nprog : Nat
  plen : Nat
  sd : Nat
  pc : Nat
  hb : Nat
  pmi : Nat
  tenant : Nat
  src : Nat
  dst : Nat
  prog : List (BitVec 16)
  k : Tab (BitVec 32)
  stk : Tab (BitVec 32)
  pay : Tab (BitVec 32)
  deriving DecidableEq, Repr

/-- A packet staging slot that is BUILT (R410): its core, context, task and number, and its content; every other slot is EMPTY. -/
structure Staged where
  core : Nat
  ctx : Nat
  serial : Nat
  slot : Nat
  pkt : Packet
  deriving DecidableEq, Repr


/-- A context or partition X (R83, R85, R97). -/
structure Ctx where
  stat : CtxStat
  /-- cycles waited since entering READY (R99) -/
  age : Nat
  /-- order of entry into READY -/
  readyAt : Nat
  sRegs : Tab Word
  pRegs : Tab Word
  vRegs : Tab Vec
  dRegs : Tab Vec
  nRegs : Tab (BitVec 32)
  /-- poisoned registers: kind (0 s, 1 p, 2 v, 3 pair) and number (R220) -/
  bad : List (Nat × Nat)
  csr : Csr
  latS : List LatchVal
  latA : List LatchVal
  latB : List LatchVal
  q0 : QChan
  q1 : QChan
  walkers : Tab Walker
  pend : List Pend
  count : Nat
  pc : Word
  segOpen : Bool
  segN : Nat
  /-- the next bundle is a segment entry whatever its SB bit (R104, R215) -/
  entry : Bool
  /-- the open segment was opened by that rule -/
  segForced : Bool
  replay : Bool
  /-- error rewinds at `errPc` with no close between (R219) -/
  errN : Nat
  errPc : Word
  save : SegSave
  /-- the next issue rewinds to SEGPC first, for this reason of REWIND (R98, R99, R339) -/
  rewindNext : Option Nat
  closing : Bool
  /-- the commands held in the open segment, and its irrevocable ones, in issue order (R61, R68) -/
  held : List Held
  irrev : List Held
  waitOp : Option Wait
  waitHit : Bool
  endReq : Option EndReq
  yld : Bool
  /-- an ordinary pre-emption is requested (R223) -/
  preempt : Bool
  freeze : Freeze
  /-- cycles spent waiting before issue on a pop or an ordering hold (R98, R132) -/
  stallN : Nat
  /-- cycles of a scratchpad bank wait already spent by the bundle about to issue (R207) -/
  bankN : Nat
  /-- cycles since the port was taken or the longest wait reached 1,024 (R99) -/
  sliceN : Nat
  kept0 : Option QEntry
  kept1 : Option QEntry
  act : BitVec 2
  task : Option Task
  /-- operand slots o0-o63 to physical slots (R188) -/
  omap : Tab Nat
  arr : BitVec 16
  comp : BitVec 16
  /-- cycles of the present freeze, drowsy banks, and cycles of wake still to run (R247, R248) -/
  frozenN : Nat
  drowsy : BitVec 8
  wakeN : Nat
  /-- the address of the bundle whose debug stop a "continue" has ended: its first issue is not matched again (R343) -/
  dbgSkip : Option Word
  /-- DONE is a copy of a stopped context's, and no slot of its own is done (R215, R217) -/
  copied : Bool
  /-- completions held back by a debug stop (R344) -/
  deferred : List Deferred
  /-- a TCFG waits for a physical tile (R197) -/
  claim : Bool
  /-- per tile, a drain rejected or stopped since the last TSTAT.clr (R199) -/
  derr : BitVec 8
  /-- errors in words of drowsy banks, found at the next wake (R249): kind (0 s, 1 p, 2 v, 3 d, 4 n), number, 64-bit chunk, and
  whether two bits are wrong -/
  ecc : List (Nat × Nat × Nat × Bool)
  /-- the operations of the bundle whose wait made the context leave the port (R97) -/
  stallOps : List Instr
  stallScope : Nat
  /-- flags of T operations on their way -/
  late : List LateFl
  /-- the close has begun to send a batch larger than a receiver's whole room (R445) -/
  feeding : Bool
  deriving DecidableEq, Repr

/-- States of an architectural tile that is claimed (R197). -/
inductive TileStat where
  | clean | dirty | saved
  deriving DecidableEq, Repr

/-- A claimed architectural tile (R197): owner, physical tile when resident, lazy move in progress. -/
structure Tile where
  ctx : Nat
  serial : Nat
  t : Nat
  stat : TileStat
  phys : Option Nat
  /-- cycle at which a lazy save or restore of the tile ends -/
  saving : Option Nat
  restoring : Option Nat
  /-- an operation named it while SAVED, so that it is to be restored -/
  want : Bool
  /-- the move waits on a fault record (R197) -/
  stuck : Bool
  /-- place of its copy in the owner's save area, 0 when there is none, and the owner's address space -/
  save : Word
  job : Nat
  x : XCtx
  /-- released by END, kept until the task's pending commands have completed (R198), with its shape at END -/
  dead : Bool
  shp : BitVec 14
  deriving DecidableEq, Repr

/-- A command in the matrix queue (R194): cycle of its first step once started, of its last step, and whether it waits
on a fault record. -/
structure MQEntry where
  cmd : MCmd
  arrive : Nat
  start : Option Nat
  last : Nat
  stuck : Bool
  /-- TDRAIN: the record read at the start, whether it was poisoned, the element to resume at, the band entries read so far with
  their poison (R27), and the flags of the elements written (R204) -/
  recd : BitVec 512
  recBad : Bool
  pos : Nat
  bands : Tab (Nat × Bool)
  fl : Flags
  deriving DecidableEq, Repr

/-- A command that arrives in the queue. -/
def MQEntry.new (c : MCmd) (cycle : Nat) : MQEntry :=
  { cmd := c, arrive := cycle, start := none, last := 0, stuck := false, recd := 0, recBad := false, pos := 0, bands := [], fl := 0 }

/-- One single-copy unit of a store (R301): consecutive bytes within an aligned 8-byte unit, each with the bits that it
writes; the page's key and MLOG bit. -/
structure SUnit where
  pa : Nat
  bytes : List (Byte × Byte)
  key : Nat
  mlog : Bool
  deriving DecidableEq, Repr

/-- A core-path store that has passed translation, with the units not yet performed (R300, R304), in T-queue order. -/
structure PStore where
  ctx : Nat
  serial : Nat
  job : Nat
  units : List SUnit
  scope : Nat
  /-- the flags of its conversion, its bundle, and whether its segment is still open (R102, R108) -/
  fl : Flags
  addr : Word
  opn : Bool
  deriving DecidableEq, Repr

/-- The writer field of a race record (R244, R320). -/
inductive RaceWr where
  | none
  /-- a die context slot, 40 · cluster + cluster slot -/
  | slot (n : Nat)
  /-- handle `h` of core `core`, a copy in progress -/
  | copy (core h : Nat)
  deriving DecidableEq, Repr

/-- The race record of a 64-byte line (R244, R320): the reader slots and the writer. -/
structure RaceRec where
  rd : List Nat
  wr : RaceWr
  deriving DecidableEq, Repr

/-- The routine in partition X (R100). -/
inductive XRole where
  | none
  | handler (victim : Nat)
  | super (victim : Nat)
  | urgent (victims : List Nat)
  deriving DecidableEq, Repr

/-- A waiting request for partition X (R100). -/
inductive XReq where
  | trap (victim : Nat)
  | super (victim : Nat)
  | urgent (launch : BitVec 32)
  deriving DecidableEq, Repr

/-- What an access through an aperture that is not yet answered was: a store, an atomic, the load at the head of a channel; or a load whose
answer is here, with its poison. -/
inductive ApKind where
  | store
  | atomic (a : ACmd)
  | load (ch : Nat)
  | back (ch : Nat) (bad : Bool)
  deriving DecidableEq, Repr

/-- An access through an aperture that the target has still to answer (R386, R417): context, task serial and job, place, kind. -/
structure ApWait where
  ctx : Nat
  serial : Nat
  job : Nat
  place : Nat
  kind : ApKind
  deriving DecidableEq, Repr

/-- A TLB entry (R325): the page of an ASID and its leaf. -/
structure TlbEnt where
  asid : Nat
  va : Nat
  size : Nat
  pte : BitVec 64
  /-- the node that the leaf's aperture named at the walk, 0 for another leaf (R386) -/
  node : Nat
  deriving DecidableEq, Repr

/-- A memory key (R349): material and owner; an unlisted key is EMPTY. -/
structure KeyRec where
  mat : BitVec 512
  owner : Nat
  deriving DecidableEq, Repr

/-- A tenant (R357). -/
structure Tenant where
  conf : Bool
  digest : BitVec 256
  deriving DecidableEq, Repr

/-- States of a job index, coded as JOBSTAT reports them (R362). -/
inductive JobSt where
  | free | running | done | linkKilled
  deriving DecidableEq, Repr

/-- Completion statuses (R254), worst last. -/
inductive CStatus where
  | ok | cancelled | failed
  deriving DecidableEq, Repr

/-- A job (R253, R254, R258, R358, R362): what ADMIT took from its admission record, its phases and its queues. -/
structure Job where
  st : JobSt
  tenant : Nat
  asid : Nat
  root : Nat
  perm : Word
  crBase : Nat
  crSize : Nat
  /-- per die: window base and size in 64 KiB units -/
  dsw : List (Nat × Nat)
  func : Nat
  sq : Nat
  sqLog : Nat
  sqHead : Nat
  cq : Nat
  cqLog : Nat
  cqTail : Nat
  /-- reports that wait for the completion queue or for DMA (R362, R367) -/
  reports : List (BitVec 256)
  phase : Nat
  phaseClosed : Bool
  /-- the open phase has completed and the next may open -/
  phaseDone : Bool
  closed : Bool
  phSt : Tab CStatus
  status : CStatus
  /-- suspended for migration (R375) -/
  quiesced : Bool
  /-- the lowest phase that a cancel has named: it and every later one are cancelled (R295) -/
  cancFrom : Option Nat
  deriving DecidableEq, Repr

/-- A verified program (R354). -/
structure Prog where
  prog : Word
  asid : Nat
  job : Nat
  header : BitVec 3072
  deriving DecidableEq, Repr

/-- What the package sends to the host: a write of `n` bytes at a host address, or an MSI-X vector (R361, R362, R273). -/
inductive HostMsg where
  | write (func addr n data : Nat)
  | msix (func vec : Nat)
  /-- a migration record sealed for an Ultra Ethernet endpoint (R376) -/
  | ue (endpoint : Nat) (record : List Byte)
  /-- the package resets (R369) -/
  | reset
  /-- the answer to an access through BAR2, or its Completer Abort (R360) -/
  | bar (func : Nat) (ok : Bool) (data : List Byte)
  /-- an SPDM or MCTP reply to the host or the side-band (R364, R366, R371, R372) -/
  | reply (side : Bool) (data : List Byte)
  deriving DecidableEq, Repr

/-! The trace fabric. -/

/-- A trace source (R333, R336 to R338): the last timestamp, credits taken, a sequence number per tenant, drops not yet
reported per tenant (count, first and last timestamp), lossless records waiting for a credit with their tenant and the least timestamp
that they may carry, and the stall that they make; and the PKT_SEND records whose packet has still to take their timestamp: tenant, TS
(R407). -/
structure TraceSrc where
  last : Nat
  used : Nat
  seq : Tab Nat
  drops : Tab (Nat × Nat × Nat)
  waiting : List (Nat × BitVec 256 × Nat)
  stallTs : Option Nat
  stallN : Nat
  sends : List (Nat × Nat)
  deriving DecidableEq, Repr

/-- A record at a sink: source, tenant and contents. -/
structure SinkRec where
  src : Nat
  tenant : Nat
  body : BitVec 256
  deriving DecidableEq, Repr

/-- An entry of the matrix-cycle summary (R341): context, BIDX and the six counts in class order. -/
structure MxEnt where
  ctx : Nat
  bidx : Nat
  tenant : Nat
  counts : List Nat
  deriving DecidableEq, Repr

/-! Handles and copies. -/

/-- A handle (R282): its state, and the command number before which every handle-using command must complete for a release. -/
structure Handle where
  st : HState
  rel : Option Nat
  deriving DecidableEq, Repr

/-- What a copy sees of its issuer: windows and bounds, slot map, address space and permissions, as they stood at the close
(R280). -/
structure View where
  bndlo : Nat
  bndhi : Nat
  sp : Nat
  cl : Nat × Nat
  ds : Nat × Nat
  omap : Tab Nat
  x : XCtx
  perm : Word
  hLo : Nat
  hCnt : Nat
  deriving DecidableEq, Repr

/-- A command in the intake of a copy engine (R274, R445), or a copy node's (R288): its order number among the handle-using
commands of its core, or the node. -/
structure CopyIn where
  cmd : CCmd
  core : Nat
  ctx : Nat
  serial : Nat
  job : Nat
  view : View
  num : Nat
  node : Option (Nat × Nat)
  /-- the phase of the issuing task (R427) -/
  phase : Nat
  /-- the timestamp that it carries where it crosses dies (R333) -/
  sent : Nat
  deriving DecidableEq, Repr

/-- A copy, gather or scatter-add in progress (R274 to R287): its record, handle, engine slot, the tensor record read, the
stochastic generator, the next piece or index, what it has collected, and how it ends. -/
structure Copying where
  inp : CopyIn
  rec0 : BitVec 1024
  hnd : Option Nat
  slot : Nat
  tens : Option (BitVec 512)
  /-- FMT of the page that holds the tensor record's BASE and whether its GEO is 001, translated at the start (R26) -/
  page : Option (Nat × Bool)
  /-- band-table entries read so far, by band (R27) -/
  bands : Tab Nat
  gen : Word
  pos : Nat
  /-- the index of the gather or scatter-add piece in progress, once read (R286) -/
  idx : Option Nat
  fl : Flags
  count : Nat
  /-- status and address, once the pieces have ended (R281) -/
  fin : Option (Nat × Word)
  /-- waits on a fault record (R280) -/
  stuck : Bool
  /-- the record resolved with FAIL (R327) -/
  failed : Bool
  deriving DecidableEq, Repr

/-! Clusters and the Hearth. -/

/-- A physical barrier (R236): EXP, CNT, and the context slots in MASK. -/
structure Barrier where
  exp : Nat
  cnt : Nat
  mask : List Nat
  deriving DecidableEq, Repr

/-- What a launch holds on a cluster while it has a task there (R233, R236, R240). -/
structure Bind where
  lnch : BitVec 32
  job : Nat
  bars : List Nat
  rdv : Option Nat
  /-- The window base of each of its tasks here, by task index: one for all where the launch declares its windows shared (R206, R233). -/
  wins : List (Nat × Nat)
  clSize : Nat
  deriving DecidableEq, Repr

/-- A task in a ready queue, or on its way to partition X (R264, R265, R268). -/
structure ReadyTask where
  node : Nat
  lnch : BitVec 32
  job : Nat
  tidx : Nat
  level : Nat
  /-- its age: when its launch last rose in level before the expansion (R264, R266) -/
  aged : Nat
  deriving DecidableEq, Repr

/-- A code or constant block as the cluster instruction store holds it (R353): address space, address, ciphertext, tag. -/
structure IBlock where
  asid : Nat
  va : Nat
  ct : BitVec 4096
  tag : BitVec 128
  deriving DecidableEq, Repr

/-- A block in a core's fetch buffer, opened (R355). -/
structure FBlock where
  asid : Nat
  va : Nat
  body : BitVec 4096
  deriving DecidableEq, Repr

/-- A cluster: barriers, hold bits of the rendezvous groups, bindings, the no-matrix state, the ready queue, the job that
last held each 2 KiB unit of cluster-shared memory, the copy engine's intake and copies, and blocks of the instruction
store. -/
structure Cluster where
  bars : Tab Barrier
  /-- (group, m, j): H[m][j] = 1, by context slot (R240) -/
  holds : List (Nat × Nat × Nat)
  binds : List Bind
  nomx : Bool
  ready : List ReadyTask
  clJob : Tab Nat
  intake : List CopyIn
  copies : List Copying
  istore : List IBlock
  deriving DecidableEq, Repr

/-- Node kinds (R256). -/
inductive NodeKind where
  | launch | copy | gate
  deriving DecidableEq, Repr

/-- Node states (R259). -/
inductive NodeSt where
  | waiting | deferred | ready | suspended | active | done | cancelled
  deriving DecidableEq, Repr

/-- A node-table entry (R256, R259 to R264). -/
structure Node where
  graph : BitVec 32
  job : Nat
  kind : NodeKind
  st : NodeSt
  count : Nat
  succ : List Nat
  recAddr : Word
  /-- the launch record, once it has been read and found well formed (R262) -/
  lrec : Option (BitVec 1024)
  level : Nat
  /-- order of arrival in READY, and of service within its level (R264) -/
  order : Nat
  /-- next linear index to expand, tasks not yet ended, indices that CANC removed (R253, R295) -/
  next : Nat
  left : Nat
  skip : List Nat
  bad : Bool
  /-- a cancel has reached it (R259) -/
  dying : Bool
  /-- TASKS.susp stands (R269, R294) -/
  susp : Bool
  status : CStatus
  /-- the model's numbers of the tasks dispatched -/
  serials : List Nat
  /-- time of the last rise in level, for the age timer (R264) -/
  aged : Nat
  /-- the level that TASKS.setpri gave, and the tasks that CANC removed with its identifier, before the record was read (R294, R295) -/
  pri : Option Nat
  canc : List (Nat × Word)
  /-- the identifier of the cancel that has reached it (R272, R295) -/
  ident : Word
  deriving DecidableEq, Repr

/-- An admitted graph (R253). -/
structure Graph where
  id : BitVec 32
  job : Nat
  phase : Nat
  n : Nat
  left : Nat
  status : CStatus
  deriving DecidableEq, Repr

/-- A graph that waits for admission (R257): its phase, its node entries (one launch for TASKL.one), and where its identifier
goes. -/
structure GraphReq where
  job : Nat
  phase : Nat
  nodes : List (BitVec 256)
  one : Bool
  res : Word
  /-- the task that submitted it, 0 for the host (R221) -/
  serial : Nat
  deriving DecidableEq, Repr

/-- A command in the Hearth's intake (R445): the core, the issuing task's job, serial and phase, and the command. -/
inductive HKind where
  | trig (node n : Nat)
  | taskl (graph : Bool) (addr res : Word)
  | setpri (lnch : BitVec 32) (level : Nat)
  | susp (lnch : BitVec 32)
  | resume (lnch : BitVec 32)
  | canc (level : Nat) (ident : Word) (tidx : Word)
  deriving DecidableEq, Repr

structure HCmd where
  kind : HKind
  core : Nat
  job : Nat
  phase : Nat
  serial : Nat
  deriving DecidableEq, Repr

/-- Work suspended through the fault queue (R327). -/
inductive Susp where
  | copy (cluster seq : Nat)
  /-- a drain of a task's tile -/
  | drain (core ctx serial t : Nat)
  /-- a lazy save, lazy restore or TSAVE -/
  | tile (core ctx serial t : Nat)
  | packet (park : Nat)
  | remote (slot : Nat)
  /-- a remote operation of another node, held at this one (R416) -/
  | served (i : Nat)
  /-- a bucket of a collective, on a die -/
  | coll (job cnum die bucket : Nat)
  /-- a BUSY word (R426) -/
  | busy (i : Nat)
  deriving DecidableEq, Repr

/-- A page-table walk that a miss has asked for: the contexts that wait for it (core, context), address space and address of the page, and
whether an access writes (R325, R328). -/
structure Walk where
  who : List (Nat × Nat)
  asid : Nat
  va : Nat
  wr : Bool
  deriving DecidableEq, Repr

/-- A Hearth: node table, graphs, waiting graphs, admission sequence, intake, service order, suspended works by fault-queue
index with the faulting addresses, and records waiting for queue room (R252, R257, R327). -/
structure Die where
  nodes : Tab Node
  graphs : List Graph
  waiting : List GraphReq
  seq : Nat
  intake : List HCmd
  order : Nat
  faults : Tab (Susp × Word)
  /-- fault records not yet read -/
  fqN : Nat
  /-- tasks that have ended or been killed, until their last write is performed: node, serial, killed (R272, R310) -/
  ended : List (Nat × Nat × Bool)
  fqWait : List (BitVec 256 × Nat × Susp × Nat)
  /-- page-table walks in progress or waiting for a walker, oldest first (R325) -/
  walks : List Walk
  deriving DecidableEq, Repr

/-- A core: contexts 0 to 3 and partition X as 4 (R83), the port, and the core's shared units. -/
structure Core where
  ctxs : Tab Ctx
  /-- the context that owns the issue port -/
  port : Option Nat
  /-- core cycles -/
  cycle : Nat
  /-- issue cycles still empty: the rest of a GAP or a counted wait (R50, R91) -/
  gap : Nat
  /-- order number of the next entry into READY -/
  readySeq : Nat
  xrole : XRole
  xqueue : List XReq
  /-- a trap inside partition X's routine, still to be resolved (R216) -/
  xtrap : Option Trap
  mq : List MQEntry
  tiles : List Tile
  /-- tiles that the MMA of a COPYM keeps pending: context, serial, tile (R284) -/
  resv : List (Nat × Nat × Nat)
  /-- MMAs of COPYMs that wait for a queue entry (R284) -/
  mmaWait : List MCmd
  omFree : List Nat
  /-- slots of ended tasks that queued commands still use: context, serial, slots (R189) -/
  omLate : List (Nat × Nat × List Nat)
  omScl : Tab (BitVec 16)
  /-- core-path stores not yet performed, in T-queue order per context -/
  stq : List PStore
  /-- L1 lines by physical line address (R210) -/
  l1 : Tab (List Byte)
  tlb : List TlbEnt
  /-- blocks of the fetch buffer, newest first (R355) -/
  fbuf : List FBlock
  handles : Tab Handle
  /-- handle-using commands sent so far, and those in progress (R282) -/
  cmdSeq : Nat
  cmdBusy : List Nat
  /-- the job to which the core is bound; the window base that a launch with SPSH has on the core; and whether the core has unbound and
  is still to be zeroed (R267) -/
  bound : Option Nat
  spShare : List (BitVec 32 × Nat)
  zeroing : Bool
  /-- the job from which it has unbound and whose stores it still holds -/
  unbindJob : Option Nat
  mxSum : List MxEnt
  /-- the last command that the matrix engine ran (R341) -/
  mxLast : Option MCmd
  /-- accesses through an aperture that the target has still to answer (R417) -/
  acks : List ApWait
  /-- misses whose walk has ended: address space and page (R325) -/
  walked : List (Nat × Nat)
  deriving DecidableEq, Repr

/-! The fabric. -/

/-- A fabric job table entry (R387). -/
structure FabJob where
  tenant : Nat
  perm : BitVec 32
  crBase : Nat
  crSize : Nat
  asid : Nat
  deriving DecidableEq, Repr

/-- How a packet comes to a lane: from another node or a retry, from a task of this one, or resumed after a NORES (R391, R403). -/
inductive PktHow where
  | arrive | inject | resume
  deriving DecidableEq, Repr

/-- An Anvil lane (R391): packets that wait for it, the one it runs, instructions executed since it was taken. -/
structure Lane where
  queue : List (Packet × PktHow)
  pkt : Option Packet
  steps : Nat
  deriving DecidableEq, Repr

/-- A packet on its way out of a port, with its state before the instruction that sent it (R384, R404), and the lane that sent it. -/
structure Leaving where
  port : Nat
  pkt : Packet
  before : Packet
  lane : Nat
  deriving DecidableEq, Repr

/-- An entry of the park queue (R402): fault code, and the time and order of its parking. -/
structure Parked where
  pkt : Packet
  code : Nat
  time : Nat
  order : Nat
  deriving DecidableEq, Repr

/-- Kinds of remote operation (R413 to R415); and an access through an aperture (R386). -/
inductive RKind where
  | rld | rst | faa | ffn | apRead | apWrite
  /-- an atomic, whose data are its operand and its compare value of 8 bytes each -/
  | apAmo (k : AKind) (uns : Bool)
  deriving DecidableEq, Repr

/-- A remote request (R385, R387): source node and slot, job index and tenant, address at the target, length, and the data of a
write, an addend or a flag, with their poison (R220). -/
structure RemReq where
  kind : RKind
  src : Nat
  slot : Nat
  job : Nat
  tenant : Nat
  /-- the KEYID that an aperture access carries (R386) -/
  key : Nat
  addr : Nat
  n : Nat
  data : List Byte
  bad : Bool
  /-- the timestamp that it carries (R333) -/
  sent : Nat
  deriving DecidableEq, Repr

/-- What a remote request comes back with (R416), and whether its data are poisoned. -/
structure RemRsp where
  slot : Nat
  ok : Bool
  data : List Byte
  bad : Bool
  /-- the timestamp that it carries (R333) -/
  sent : Nat
  deriving DecidableEq, Repr

/-- Where a remote operation of this node stands. -/
inductive RStage where
  /-- not yet sent: a DRAINING handle, a local source that waits, or an FFN's order -/
  | waiting
  | sent
  /-- the response is here, and is still to be written -/
  | back
  deriving DecidableEq, Repr

/-- A request slot of the remote-operation unit (R409, R413 to R416). -/
structure RemOp where
  slot : Nat
  inp : CopyIn
  hnd : Option Nat
  node : Nat
  stage : RStage
  rsp : RemRsp
  /-- waits on a fault record -/
  stuck : Bool
  deriving DecidableEq, Repr

/-- One element that a collective carries: its bits, the flags of the adders it has passed, its poison (R425, R426). -/
structure CElem where
  bits : Nat
  fl : Flags
  bad : Bool
  deriving DecidableEq, Repr

/-- A chunk of a collective: record header and layout, bucket, mesh index of the sender, and that node's contribution (R427). -/
structure Chunk where
  job : Nat
  hdr : BitVec 512
  lay : BitVec 512
  bucket : Nat
  pos : Nat
  elems : List CElem
  /-- the timestamp that it carries (R333) -/
  sent : Nat
  deriving DecidableEq, Repr

/-- A die's part in a collective (R419, R425): issuer and record, completion words, sources and destinations, a status of its own
with which its buckets end, the FLAGS and NANCNT of the buckets whose outputs are written, and the buckets whose word is. -/
structure CollDie where
  die : Nat
  inp : CopyIn
  cwa : Nat
  ents : List (BitVec 256)
  st : Option Nat
  outs : Tab (Nat × Nat)
  ends : List Nat
  deriving DecidableEq, Repr

/-- A collective (R419 to R427): its shared header and layout (0 for COLL), the dies that have issued it, the contributions here
(this node's own among them), buckets whose contribution this node has sent, buckets complete, and the status with which the
others end once it has failed or been aborted. -/
structure Coll where
  job : Nat
  cnum : Nat
  hdr : BitVec 512
  lay : BitVec 512
  dies : List CollDie
  got : List Chunk
  sent : List Nat
  ends : List Nat
  ended : Option Nat
  /-- the failure is still to be sent to the other mesh nodes -/
  spread : Bool
  /-- buckets that wait on a fault record, and buckets whose word a FAIL leaves unwritten: die, bucket -/
  stuck : List (Nat × Nat)
  failed : List (Nat × Nat)
  /-- the timestamp of the abort that ended it, which its records follow (R333) -/
  cause : Option Nat
  deriving DecidableEq, Repr

/-- What an access through an aperture does: n bytes read; bytes written, with the bits of each that are; an atomic, performed at its
location's home (R312): kind, size, whether unsigned, operand, compare value. -/
inductive ApOp where
  | load (n : Nat)
  | store (data : List (Byte × Byte))
  | atomic (kind : AKind) (n : Nat) (uns : Bool) (opnd cmp : Word)
  deriving DecidableEq, Repr

/-- An access through an aperture as it leaves (R386): the KEYID of the local leaf, the tenant of its job, the physical address at the
target. -/
structure ApReq where
  key : Nat
  tenant : Nat
  addr : Nat
  op : ApOp
  deriving DecidableEq, Repr

/-- What leaves the node on its torus links, oldest first (R381). -/
inductive NetMsg where
  | packet (port : Nat) (p : Packet)
  | request (port : Nat) (node : Nat) (r : RemReq)
  /-- an access through an aperture (R386) -/
  | aperture (port : Nat) (node : Nat) (r : ApReq)
  | response (port : Nat) (node : Nat) (r : RemRsp)
  | chunk (node : Nat) (c : Chunk)
  | abort (node : Nat) (job cnum sent : Nat)
  | marker (port : Nat)
  deriving DecidableEq, Repr

/-- A packet whose PKT_SEND has still to leave; or, where that record does not wait, the time of its injection (R407, R411). -/
structure Unsent where
  inp : CopyIn
  pkt : Packet
  ts : Option Nat
  deriving DecidableEq, Repr

/-- The Anvil, the packet, remote-operation and collective units of the I/O die: job table, lanes, packets on their way out, the
park queue, delivery counters (R405), commands of the packet unit, the staging slots that are BUILT and packets still to be injected, request slots and their intake, messages that wait for a
port that is not present, requests of other nodes held here, collectives, kept CBKTs (die, job, number, bucket), intake of
the collective engine, link weights and those still to come (cycle, value), trained links, and what has left the node. -/
structure Fabric where
  jobs : Tab FabJob
  lanes : Tab Lane
  leaving : List Leaving
  park : Tab Parked
  parkN : Nat
  dctr : Tab Word
  pktq : List CopyIn
  staged : List Staged
  unsent : List Unsent
  remq : List CopyIn
  remote : List RemOp
  held : List NetMsg
  served : Tab RemReq
  colls : List Coll
  cbkts : List (Nat × Nat × Nat × Nat)
  collq : List CopyIn
  /-- BUSY words that wait on a fault record: the COLL's die part and bucket (R426) -/
  busy : Tab (CollDie × Nat)
  /-- when a failed collective of a job index and number was last over on this node (R427) -/
  collOver : Tab Nat
  weights : BitVec 12
  newWeights : Option (BitVec 12)
  links : BitVec 6
  net : List NetMsg
  /-- time that the router and its lanes have used, in 1/16 ns -/
  clock : Nat
  /-- lanes whose packet the router holds while its record waits for a credit (R337) -/
  heldLanes : List Nat
  deriving DecidableEq, Repr

/-! Sniras. -/

/-- A firmware slot (R368): SVN and signature of its image header, its image, and its attempt count. -/
structure FwSlot where
  svn : Nat
  sig : BitVec 512
  image : List Byte
  att : Nat
  deriving DecidableEq, Repr

/-- TDISP states (R365). -/
inductive TdiSt where
  | unlocked | locked | run | error
  deriving DecidableEq, Repr

/-- A function's device interface (R360, R365): state, bound tenant, and APKEY. -/
structure Tdi where
  st : TdiSt
  tenant : Nat
  apkey : Nat
  deriving DecidableEq, Repr

/-- A secured SPDM session: over MCTP or DOE, and the tenants whose key its requester has proved (R364 to R367). -/
structure Spdm where
  side : Bool
  tenants : List Nat
  deriving DecidableEq, Repr

/-- What Sniras keeps (R349, R360 to R379): firmware slots, rollback counter, the running slot and its boot, fatal state,
functions, sessions and IDE streams, power limit, core-clock steps, highest PASS used per key, and packets of a dump cut with
ports whose marker has come. -/
structure Sniras where
  slots : Tab FwSlot
  pref : Nat
  /-- the Loyhus firmware key as the ROM has it, and its digest in OTP (R368) -/
  fwKey : BitVec 512
  otpKey : BitVec 256
  /-- the device identity key, private (R372) -/
  identity : BitVec 256
  otpsvn : Nat
  /-- OTPSVN as it stood at boot (R373) -/
  otpBoot : Nat
  running : Nat
  fb : Bool
  att : Nat
  healthy : Bool
  recovery : Bool
  watchdog : Bool
  /-- a firmware update in progress (R366, R370): from the side-band, or the host -/
  update : Option Bool
  offered : BitVec 256
  featCtl : Nat
  /-- a commit has been accepted (R363) -/
  negotiated : Bool
  tdis : Tab Tdi
  sessions : Tab Spdm
  streams : Tab (BitVec 256)
  power : Nat
  clock : Nat
  dumped : Option Nat
  cutPorts : List Nat
  chan : List (Nat × List Byte)
  sendPass : Tab Nat
  recvPass : Tab Nat
  nomx : BitVec 32
  deriving DecidableEq, Repr

/-- The operation being performed: where, the bundle it belongs to, and what it has decided so far. -/
structure Cur where
  core : Nat
  ctx : Nat
  /-- the Anvil lane whose packet runs -/
  lane : Nat
  /-- the other arguments of an event, and the bytes that an outside party supplies with it -/
  arg : List Nat
  inp : List Byte
  addr : Word
  scope : Nat
  /-- address of the next bundle -/
  next : Word
  /-- the queue heads that the bundle pops (R58) -/
  head0 : Option QEntry
  head1 : Option QEntry
  /-- lane-slice bytes to write when the bundle has issued (R162) -/
  lsW : List (Nat × Byte)
  /-- memory before the T-slot store of the bundle, for a load in its L slot (R173, R303) -/
  before : Option Mem
  /-- the trap that the operation took -/
  stop : Option Trap
  /-- a software trap of the bundle (R123) -/
  swTrap : Option Word
  /-- the lowest poisoned operand of an operation whose trap has a lower cause (R220) -/
  poisonV : Option Word
  /-- the least timestamp of a record that the arrival of a message causes: its timestamp and 32, or 0 (R333) -/
  least : Nat
  deriving DecidableEq, Repr

/-- An event that is to take place: its instruction and where, with its arguments. -/
structure Ev where
  ins : Instr
  core : Nat
  ctx : Nat
  lane : Nat
  arg : List Nat
  inp : List Byte
  deriving DecidableEq, Repr

structure State where
  cores : Tab Core
  mem : Mem
  /-- poisoned 8-byte units, by address / 8 (R220) -/
  poison : List Nat
  /-- the key material each DRAM line was last written under; an unlisted line under key 0's (R348) -/
  lineKey : Tab (BitVec 512)
  keys : Tab KeyRec
  tenants : Tab Tenant
  jobs : Tab Job
  /-- the job of each report that waits, in the order in which they were produced; while DMA is stopped the I/O die holds the first
  16,384 and the Hearths the others (R362, R367) -/
  rptQueue : List Nat
  /-- NODECFG, DOMAIN and the aperture table (R382) -/
  nodecfg : Word
  domain : Word
  apt : Tab Word
  feat : BitVec 256
  /-- race records by line address: cluster-shared memory and the checked regions (R243, R320) -/
  races : Tab RaceRec
  /-- device registers by physical address: the die and package control blocks (R326, R361) -/
  regs : Tab Word
  /-- root table of the supervisor's own address space, ASID 0, and the address of its image there (R217, R322) -/
  supRoot : Nat
  supProg : Word
  clusters : Tab Cluster
  dies : Tab Die
  /-- Bellows time of cycle 0 in 1/16 ns (R330), sources by SRC, records at each
  die's sink, counters by tenant, die and number (R340) -/
  time : Nat
  /-- corrections toward an earlier time: when each starts to slew, and its size; and the port that disciplines the time master: 0
  management Ethernet, 1 Ultra Ethernet (R330) -/
  slews : List (Nat × Nat)
  timeRef : Nat
  trace : Tab TraceSrc
  sinks : Tab (List SinkRec)
  counters : Tab Nat
  progs : List Prog
  /-- what has left for the host, oldest first; DMA is stopped after a link-down until Bus Master Enable is set (R367) -/
  hostOut : List HostMsg
  /-- physical addresses of machine checks that Sniras has recorded (R221) -/
  mchecks : List Nat
  dmaOn : Bool
  linkUp : Bool
  fab : Fabric
  sn : Sniras
  /-- the number of the next dispatched task -/
  nextSerial : Nat
  cur : Cur
  agenda : List Ev
  turn : Nat
  fresh : Nat
  deriving DecidableEq, Repr

/-- Control registers at dispatch (R85). -/
def Csr.reset : Csr where
  shape := 0x043F#14
  dlen := 128#8
  tshp := []
  rotv := 0
  rotp := 0
  lc := 0
  ec := 0
  fpstat := 0
  fprec := 0x38#64
  rmode := 0
  rseed := 1
  tcx := 0
  tcy := 0
  tcz := 0
  sup := false
  place := none
  ldqsw := 64#16
  bndlo := 0
  bndhi := 0
  segpc := 0
  done := 0
  trapc := 0
  trapv := 0
  lnch := 0
  feat := 0

/-- Task attributes of a context that holds no task. -/
def Task.zero : Task where
  serial := 0
  job := 0
  lnch := 0
  tidx := 0
  asid := 0
  tenant := 0
  prog := 0
  handler := 0
  spBase := 0
  spSize := 0
  clBase := 0
  clSize := 0
  hLo := 0
  hCnt := 0
  bars := []
  rdv := none
  save := 0
  nomx := false
  urgent := false
  node := 0
  prio := 0
  phase := 0

def QChan.empty : QChan := ⟨[], 0, 0, []⟩
def Walker.zero : Walker := ⟨0, [0, 0, 0, 0, 0, 0], false, false⟩
def SegSave.zero : SegSave := ⟨0, 0, 0, 0, [], 1, 0, 0x38#64, []⟩

/-- A context that holds no task (R83, R97). -/
def Ctx.reset : Ctx where
  stat := .free
  age := 0
  readyAt := 0
  sRegs := []
  pRegs := []
  vRegs := []
  dRegs := []
  nRegs := []
  bad := []
  csr := Csr.reset
  latS := []
  latA := []
  latB := []
  q0 := QChan.empty
  q1 := QChan.empty
  walkers := []
  pend := []
  count := 0
  pc := 0
  segOpen := false
  segN := 0
  entry := false
  segForced := false
  replay := false
  errN := 0
  errPc := 0
  save := SegSave.zero
  rewindNext := none
  closing := false
  held := []
  irrev := []
  waitOp := none
  waitHit := false
  endReq := none
  yld := false
  preempt := false
  freeze := .none
  stallN := 0
  bankN := 0
  sliceN := 0
  kept0 := none
  kept1 := none
  act := 0
  task := none
  omap := []
  arr := 0
  comp := 0
  frozenN := 0
  drowsy := 0
  wakeN := 0
  dbgSkip := none
  copied := false
  deferred := []
  claim := false
  derr := 0
  ecc := []
  stallOps := []
  stallScope := 0
  late := []
  feeding := false

def Core.reset : Core where
  ctxs := []
  port := none
  cycle := 0
  gap := 0
  readySeq := 0
  xrole := .none
  xqueue := []
  xtrap := none
  mq := []
  tiles := []
  resv := []
  mmaWait := []
  omFree := List.range 64
  omLate := []
  omScl := []
  stq := []
  l1 := []
  tlb := []
  fbuf := []
  handles := []
  cmdSeq := 0
  cmdBusy := []
  bound := none
  spShare := []
  zeroing := false
  unbindJob := none
  mxSum := []
  mxLast := none
  acks := []
  walked := []

def Handle.zero : Handle := ⟨.free, none⟩
def Barrier.zero : Barrier := ⟨0, 0, []⟩
def TraceSrc.zero : TraceSrc := ⟨0, 0, [], [], [], none, 0, []⟩
def Cluster.reset : Cluster := ⟨[], [], [], false, [], [], [], [], []⟩
def Die.reset : Die := ⟨[], [], [], 0, [], 0, [], 0, [], [], []⟩

def Cur.reset : Cur := ⟨0, 0, 0, [], [], 0, 0, 0, none, none, [], none, none, none, none, 0⟩

def Fabric.reset : Fabric where
  jobs := []
  lanes := []
  leaving := []
  park := []
  parkN := 0
  dctr := []
  pktq := []
  staged := []
  unsent := []
  remq := []
  remote := []
  held := []
  served := []
  colls := []
  cbkts := []
  collq := []
  busy := []
  collOver := []
  weights := 0x111#12
  newWeights := none
  links := 0
  net := []
  clock := 0
  heldLanes := []

/-- As manufactured (log entry 4): slot A holds an empty image of SVN 0 that Loyhus has signed, slot B none; nothing is booted yet. -/
def Sniras.reset : Sniras where
  slots := [(0, ⟨0, ecdsaSign Config.firmwareSecret 0 (sha256 []), [], 0⟩)]
  pref := 0
  fwKey := ecPublic Config.firmwareSecret
  otpKey := keyDigest (ecPublic Config.firmwareSecret)
  identity := Config.deriveKey Config.otpSecret
  otpsvn := 0
  otpBoot := 0
  running := 0
  fb := false
  att := 0
  healthy := false
  recovery := false
  watchdog := false
  update := none
  offered := 0x7F#256
  featCtl := 0
  negotiated := false
  tdis := []
  sessions := []
  streams := []
  power := 1800
  clock := 0
  dumped := none
  cutPorts := []
  chan := []
  sendPass := []
  recvPass := []
  nomx := 0

def State.reset : State where
  cores := []
  mem := []
  poison := []
  lineKey := []
  keys := [(0, ⟨0, 0⟩)]
  tenants := []
  jobs := []
  rptQueue := []
  nodecfg := 0
  domain := 0
  apt := []
  feat := 0
  races := []
  regs := []
  supRoot := 0
  supProg := 0
  clusters := []
  dies := []
  time := 0
  slews := []
  timeRef := 0
  trace := []
  sinks := []
  counters := []
  progs := []
  hostOut := []
  mchecks := []
  dmaOn := true
  linkUp := true
  fab := Fabric.reset
  sn := Sniras.reset
  nextSerial := 1
  cur := Cur.reset
  agenda := []
  turn := 0
  fresh := 0

end Sys2Proof.Machine
end

