-- ==== Sys2Proof/Machine/Ops.lean ====
section
/-! DEFINITION. The named operations over the focused context: registers (R83, R84), control registers (R85), results in
flight (R91, R93, R108), stops (R211 to R213) and rewinds (R219). -/

namespace Sys2Proof.Machine

/-! Access to cores and contexts. -/

def State.coreAt (s : State) (i : Nat) : Core := tget Core.reset s.cores i
def State.setCore (s : State) (i : Nat) (c : Core) : State := { s with cores := tset s.cores i c }
def State.updCore (s : State) (i : Nat) (f : Core → Core) : State := s.setCore i (f (s.coreAt i))
def Core.ctxAt (c : Core) (k : Nat) : Ctx := tget Ctx.reset c.ctxs k
def Core.setCtx (c : Core) (k : Nat) (x : Ctx) : Core := { c with ctxs := tset c.ctxs k x }
def Core.updCtx (c : Core) (k : Nat) (f : Ctx → Ctx) : Core := c.setCtx k (f (c.ctxAt k))
def State.ctxAt (s : State) (i k : Nat) : Ctx := (s.coreAt i).ctxAt k
def State.setCtxAt (s : State) (i k : Nat) (x : Ctx) : State := s.setCore i ((s.coreAt i).setCtx k x)
def State.updCtxAt (s : State) (i k : Nat) (f : Ctx → Ctx) : State := s.setCtxAt i k (f (s.ctxAt i k))

/-- The core and the context in focus. -/
def State.core (s : State) : Core := s.coreAt s.cur.core
def State.ctx (s : State) : Ctx := s.ctxAt s.cur.core s.cur.ctx
def State.setCtx (s : State) (x : Ctx) : State := s.setCtxAt s.cur.core s.cur.ctx x
def State.updCtx (s : State) (f : Ctx → Ctx) : State := s.setCtx (f s.ctx)
def State.updCur (s : State) (f : Cur → Cur) : State := { s with cur := f s.cur }

/-! Time (R7, R330).  Every core counts its own cycles of 4/16 ns from the time of cycle 0; the router counts its own time. -/

/-- Time that the furthest unit has used since cycle 0. -/
def State.elapsed (s : State) : Nat := s.cores.foldl (fun m (y : Nat × Core) => Max.max m (4 * y.2.cycle)) s.fab.clock

/-- What corrections toward an earlier time have taken away when `e` units have been used: 1 unit in 10,000, which is 100 ppm. -/
def State.slewed (s : State) (e : Nat) : Nat := (s.slews.map fun y => Min.min y.2 ((e - y.1) / 10000)).sum

/-- Bellows time, and the time of a core's present cycle. -/
def State.now (s : State) : Nat := s.time + s.elapsed - s.slewed s.elapsed
def State.coreNow (s : State) (core : Nat) : Nat :=
  let e := 4 * (s.coreAt core).cycle
  s.time + e - s.slewed e

/-- The i-th argument of the event in focus. -/
def State.arg (s : State) (i : Nat) : Nat := s.cur.arg.getD i 0

/-- The next free value's number; the counter advances. -/
def State.draw (s : State) : State := { s with fresh := s.fresh + 1 }

/-! Part codes of R73. -/
def partS : Nat := 1
def partA : Nat := 2
def partB : Nat := 3
def partM : Nat := 4
def partL : Nat := 5
def partT : Nat := 6
def partC : Nat := 7
def partY : Nat := 8
def partOf (u : VUnit) : Nat := match u with | .a => partA | .b => partB

/-! Registers.  The rotating ranges go through ROTV and ROTP (R84). -/

/-- Physical number of an architectural v register. -/
def Ctx.vPhys (c : Ctx) (k : Nat) : Nat :=
  if k < 32 then k else 32 + (k - 32 + (32 - c.csr.rotv.toNat)) % 32
/-- Physical number of an architectural p register. -/
def Ctx.pPhys (c : Ctx) (k : Nat) : Nat :=
  if k < 8 then k else 8 + (k - 8 + (8 - c.csr.rotp.toNat)) % 8

/-- s registers; s0 reads zero. -/
def Ctx.sGet (c : Ctx) (k : Nat) : Word := if k = 0 then 0 else tget 0 c.sRegs k
/-- p registers by architectural number; p0 reads all ones. -/
def Ctx.pGet (c : Ctx) (k : Nat) : Word := if k = 0 then allOnes else tget 0 c.pRegs (c.pPhys k)
def Ctx.vGet (c : Ctx) (k : Nat) : Vec := tget 0 c.vRegs (c.vPhys k)
def Ctx.dGet (c : Ctx) (k : Nat) : Vec := tget 0 c.dRegs k
def Ctx.nGet (c : Ctx) (k : Nat) : BitVec 32 := tget 0x80000000#32 c.nRegs k

/-- The guard of R54: bit 0 of the predicate, inverted by PN. -/
def Ctx.guard (c : Ctx) (pred : BitVec 4) (pn : Bool) : Bool := (c.pGet pred.toNat).getLsbD 0 != pn
/-- The lane guard of R54. -/
def Ctx.lanes (c : Ctx) (pred : BitVec 4) (pn : Bool) : Word :=
  if pn then ~~~ (c.pGet pred.toNat) else c.pGet pred.toNat

/-! Control registers. -/

/-- CTXID (R87). -/
def ctxid (core ctx : Nat) (sup : Bool) : Nat :=
  (if sup then 2 ^ 12 else 0) + core / 64 % 4 * 2 ^ 10 + core / 8 % 8 * 2 ^ 7 + core % 8 * 2 ^ 4 + ctx % 8

/-- Names of R85 that exist. -/
def csrListed (n : Nat) : Bool :=
  n == 0 || n == 1 || (decide (8 ≤ n) && decide (n ≤ 0xF)) || (decide (0x10 ≤ n) && decide (n ≤ 0x13)) ||
  (decide (0x20 ≤ n) && decide (n ≤ 0x23)) || (decide (0x30 ≤ n) && decide (n ≤ 0x34)) || n == 0x38 || n == 0x39 ||
  (decide (0x40 ≤ n) && decide (n ≤ 0x43)) || n == 0x48 || (decide (0x50 ≤ n) && decide (n ≤ 0x53))

/-- Registers marked RW in R85. -/
def csrWritable (n : Nat) : Bool :=
  n == 0 || n == 1 || (decide (0x10 ≤ n) && decide (n ≤ 0x13)) || n == 0x22 || n == 0x23 || n == 0x34

/-- Width of a control register (R85). -/
def csrWidth (n : Nat) : Nat :=
  if n = 0 then 14 else if n = 1 then 8 else if 8 ≤ n ∧ n ≤ 0xF then 14 else if n = 0x10 then 5 else if n = 0x11 then 3
  else if n = 0x13 then 6 else if n = 0x20 then 48 else if n = 0x22 then 3 else if 0x30 ≤ n ∧ n ≤ 0x32 then 32
  else if n = 0x33 then 13 else if n = 0x34 then 16 else if n = 0x38 ∨ n = 0x39 then 19 else if n = 0x41 then 9
  else if n = 0x42 then 20 else if n = 0x48 then 32 else 64

/-- The value of a control register, zero-extended (R85); the context's place gives CTXID. -/
def csrGet (core ctx : Nat) (c : Csr) (n : Nat) : Word :=
  if n = 0 then c.shape.setWidth 64
  else if n = 1 then c.dlen.setWidth 64
  else if 8 ≤ n ∧ n ≤ 0xF then (tget 0 c.tshp (n - 8)).setWidth 64
  else if n = 0x10 then c.rotv.setWidth 64
  else if n = 0x11 then c.rotp.setWidth 64
  else if n = 0x12 then c.lc
  else if n = 0x13 then c.ec.setWidth 64
  else if n = 0x20 then c.fpstat.setWidth 64
  else if n = 0x21 then c.fprec
  else if n = 0x22 then c.rmode.setWidth 64
  else if n = 0x23 then c.rseed
  else if n = 0x30 then c.tcx.setWidth 64
  else if n = 0x31 then c.tcy.setWidth 64
  else if n = 0x32 then c.tcz.setWidth 64
  else if n = 0x33 then BitVec.ofNat 64 (match c.place with
    | none => ctxid core ctx c.sup
    | some p => (if c.sup then 2 ^ 12 else 0) + p.toNat)
  else if n = 0x34 then c.ldqsw.setWidth 64
  else if n = 0x38 then c.bndlo.setWidth 64
  else if n = 0x39 then c.bndhi.setWidth 64
  else if n = 0x40 then c.segpc
  else if n = 0x41 then c.done.setWidth 64
  else if n = 0x42 then c.trapc.setWidth 64
  else if n = 0x43 then c.trapv
  else if n = 0x48 then c.lnch.setWidth 64
  else if 0x50 ≤ n ∧ n ≤ 0x53 then (c.feat >>> (64 * (n - 0x50))).setWidth 64
  else 0

/-- Puts a value into a control register; a write of RSEED loads the generator (R22).  DESIGN CHOICE (log entry 180): the place fields
that XWR writes to CTXID are what CTXID reads from then on, and the partition stays where it is. -/
def Csr.put (c : Csr) (n : Nat) (x : Word) : Csr :=
  if n = 0 then { c with shape := x.setWidth 14 }
  else if n = 1 then { c with dlen := x.setWidth 8 }
  else if 8 ≤ n ∧ n ≤ 0xF then { c with tshp := tset c.tshp (n - 8) (x.setWidth 14) }
  else if n = 0x10 then { c with rotv := x.setWidth 5 }
  else if n = 0x11 then { c with rotp := x.setWidth 3 }
  else if n = 0x12 then { c with lc := x }
  else if n = 0x13 then { c with ec := x.setWidth 6 }
  else if n = 0x20 then { c with fpstat := x.setWidth 48 }
  else if n = 0x21 then { c with fprec := x }
  else if n = 0x22 then { c with rmode := x.setWidth 3 }
  else if n = 0x23 then { c with rseed := if x = 0 then 1 else x }
  else if n = 0x30 then { c with tcx := x.setWidth 32 }
  else if n = 0x31 then { c with tcy := x.setWidth 32 }
  else if n = 0x32 then { c with tcz := x.setWidth 32 }
  else if n = 0x33 then { c with sup := x.getLsbD 12, place := some (x.setWidth 12) }
  else if n = 0x34 then { c with ldqsw := x.setWidth 16 }
  else if n = 0x38 then { c with bndlo := x.setWidth 19 }
  else if n = 0x39 then { c with bndhi := x.setWidth 19 }
  else if n = 0x40 then { c with segpc := x }
  else if n = 0x41 then { c with done := x.setWidth 9 }
  else if n = 0x42 then { c with trapc := x.setWidth 20 }
  else if n = 0x43 then { c with trapv := x }
  else if n = 0x48 then { c with lnch := x.setWidth 32 }
  else if 0x50 ≤ n ∧ n ≤ 0x53 then
    let sh := 64 * (n - 0x50)
    { c with feat := (c.feat &&& ~~~ ((allOnes.setWidth 256) <<< sh)) ||| ((x.setWidth 256) <<< sh) }
  else c

/-- Width in bits of an element type code 1 to 9 (R139). -/
def typeWidth (c : Nat) : Nat :=
  match c with
  | 1 => 32 | 2 => 16 | 3 => 16 | 4 => 8 | 5 => 8 | 6 => 4 | 7 => 32 | 8 => 8 | 9 => 4 | _ => 32

/-- Values that R86 excludes from SHAPE. -/
def shapeOk (x : Nat) : Bool :=
  let e := bitsOf x 13 10
  let rows := bitsOf x 9 6 + 1
  let cols := bitsOf x 5 0 + 1
  decide (1 ≤ e) && decide (e ≤ 9) && decide (rows * cols * typeWidth e ≤ 2048)

/-- The value rules of R85 that bind CSRW and XWR: width, DLEN, SHAPE, RMODE, EC. -/
def csrValueOk (n : Nat) (x : Word) : Bool :=
  decide (x.toNat < 2 ^ csrWidth n) &&
  (if n = 0 then shapeOk x.toNat
   else if n = 1 then decide (1 ≤ x.toNat) && decide (x.toNat ≤ 128)
   else if n = 0x22 then decide (x.toNat ≤ 4)
   else if n = 0x13 then decide (bitsOf x.toNat 3 2 = 0)
   else true)

/-! Floating-point flags (R88, R89, R108). -/

/-- The lowest flag code of a set of flags. -/
def flagCode (fl : Flags) : Nat :=
  if fl.getLsbD 0 then 0 else if fl.getLsbD 1 then 1 else if fl.getLsbD 2 then 2
  else if fl.getLsbD 3 then 3 else if fl.getLsbD 4 then 4 else 5

/-- The FPREC value of a flag event, for the lowest flag code of `fl`. -/
def fprecOf (slot : Nat) (fl : Flags) (addr : Word) : Word :=
  BitVec.ofNat 64 (addr.toNat / 64 * 64 + flagCode fl * 8 + slot)

/-- Flags become visible: the sticky bits, and FPREC when it records no event yet. -/
def raiseFlags (fpstat : BitVec 48) (fprec : Word) (slot : Nat) (fl : Flags) (addr : Word) : BitVec 48 × Word :=
  if fl = 0 then (fpstat, fprec)
  else
    (fpstat ||| ((fl.setWidth 48) <<< (8 * slot)),
      if bitsOf fprec.toNat 5 3 = 7 then fprecOf slot fl addr else fprec)

/-- FPCLR's effect (R137). -/
def fpClear (m : BitVec 7) (fpstat : BitVec 48) (fprec : Word) : BitVec 48 × Word :=
  let byte (i : Nat) : BitVec 48 := if m.getLsbD i then (0xFF#48) <<< (8 * i) else 0
  let kill := byte 0 ||| byte 1 ||| byte 2 ||| byte 3 ||| byte 4 ||| byte 5
  (fpstat &&& ~~~ kill, if m.getLsbD 6 then 0x38#64 else fprec)

def Ctx.flagEvent (c : Ctx) (slot : Nat) (fl : Flags) (addr : Word) : Ctx :=
  let (a, b) := raiseFlags c.csr.fpstat c.csr.fprec slot fl addr
  { c with csr := { c.csr with fpstat := a, fprec := b } }

/-- A flag event of an engine, of a command whose segment has closed: it stands beyond every rewind (R102). -/
def Ctx.engineFlags (c : Ctx) (slot : Nat) (fl : Flags) (addr : Word) : Ctx :=
  let c := c.flagEvent slot fl addr
  let (a, b) := raiseFlags c.save.fpstat c.save.fprec slot fl addr
  { c with save := { c.save with fpstat := a, fprec := b } }

/-! Walkers (R182). -/

def walkCnt (body : BitVec 512) (l : Nat) : Nat := bitsOf body.toNat (56 * l + 119) (56 * l + 104)
def walkStr (body : BitVec 512) (l : Nat) : Int := sextN 40 (bitsOf body.toNat (56 * l + 103) (56 * l + 64))

/-- One step of the odometer from level l on; EXH when every level has wrapped. -/
def odometer (body : BitVec 512) : Nat → List Nat → List Nat × Bool
  | _, [] => ([], true)
  | l, i :: t =>
    if i + 1 < walkCnt body l then ((i + 1) :: t, false)
    else let (t', e) := odometer body (l + 1) t; (0 :: t', e)

/-- One step (R182); after EXH further steps change nothing (R183). -/
def Walker.step (w : Walker) : Walker :=
  if w.exh then w
  else let (i, e) := odometer w.body 0 w.idx; { w with idx := i, exh := e }

def Walker.steps (w : Walker) : Nat → Walker
  | 0 => w
  | n + 1 => if w.exh then w else Walker.steps w.step n

/-- The current address (R181). -/
def Walker.addr (w : Walker) : Word :=
  BitVec.ofInt 64 ((bitsOf w.body.toNat 63 0 : Int) +
    ((w.idx.zipIdx.map fun (i, l) => (i : Int) * walkStr w.body l).foldl (· + ·) 0))

/-! Results in flight. -/

/-- Marks or clears the poison of one register (R220): any write clears it. -/
def setBad (bad : List (Nat × Nat)) (kind num : Nat) (on : Bool) : List (Nat × Nat) :=
  let rest := bad.filter fun x => x != (kind, num)
  if on then (kind, num) :: rest else rest

/-- Puts one write into its register; writes to s0 and p0 are discarded (R60), a special norm code clears the
direction (R33). -/
def Ctx.apply (c : Ctx) (bad : Bool) : Write → Ctx
  | .s k x => if k = 0 then c else { c with sRegs := tset c.sRegs k x, bad := setBad c.bad 0 k bad }
  | .p k m x =>
    if k = 0 ∨ m = 0 then c
    else { c with pRegs := tset c.pRegs k ((tget 0 c.pRegs k &&& ~~~ m) ||| (x &&& m)), bad := setBad c.bad 1 k bad }
  | .v k m x => if m = 0 then c else { c with vRegs := tset c.vRegs k (mergeLanes m (tget 0 c.vRegs k) x), bad := setBad c.bad 2 k bad }
  | .pair k q n => { c with dRegs := tset c.dRegs k q, nRegs := tset c.nRegs k n, bad := setBad c.bad 3 k bad }
  | .norm k n =>
    { c with
      nRegs := tset c.nRegs k n
      dRegs := if n = 0x80000000#32 ∨ n = 0x7FFFFFFF#32 then tset c.dRegs k 0 else c.dRegs
      bad := setBad c.bad 3 k bad }
  | .csr n x => { c with csr := c.csr.put n x }
  | .wset k w => { c with walkers := tset c.walkers k w }
  | .wstep k n => { c with walkers := tset c.walkers k ((tget Walker.zero c.walkers k).steps n) }
  | .fpclr m =>
    let (a, b) := fpClear m c.csr.fpstat c.csr.fprec
    { c with csr := { c.csr with fpstat := a, fprec := b } }

/-- Pushes a latch entry of slot S, A or B (R93); four are kept. -/
def Ctx.latchPush (c : Ctx) (slot : Nat) (x : LatchVal) : Ctx :=
  if slot = 0 then { c with latS := (x :: c.latS).take 4 }
  else if slot = 1 then { c with latA := (x :: c.latA).take 4 }
  else if slot = 2 then { c with latB := (x :: c.latB).take 4 }
  else c

/-- One result becomes visible: its writes and its latch entry together (R91). -/
def Ctx.land (c : Ctx) (p : Pend) : Ctx :=
  let c := p.writes.foldl (fun c w => c.apply p.bad w) c
  match p.latch with
  | none => c
  | some x => c.latchPush p.slot x

/-- Whether a result steps a walker, and whether it sets one. -/
def Pend.steps (p : Pend) : Bool := p.writes.any fun w => match w with | .wstep _ _ => true | _ => false
def Pend.sets (p : Pend) : Bool := p.writes.any fun w => match w with | .wset _ _ => true | _ => false

/-- Inserts a result behind those that become visible no later: results of one count enter in issue order (R93).  A walker's step comes before
a WSET that becomes visible with it, since its bundle sees the previous state (R182). -/
def pendIns (p : Pend) : List Pend → List Pend
  | [] => [p]
  | q :: t => if p.due < q.due || (p.due == q.due && p.steps && q.sets) then p :: q :: t else q :: pendIns p t

/-- The order of events that become visible in one cycle: slot, then flag code (R108). -/
def flagKey (slot : Nat) (fl : Flags) : Nat := 8 * slot + flagCode fl

/-- Inserts a result among those of one count by its slot and its flag code. -/
def flagIns (p : Pend) : List Pend → List Pend
  | [] => [p]
  | q :: t => if flagKey p.slot p.fl < flagKey q.slot q.fl then p :: q :: t else q :: flagIns p t

/-- The flags of the results of one count, after their writes, clears among them, by slot (R108, R137). -/
def Ctx.flagAll (c : Ctx) (l : List Pend) : Ctx := l.foldl (fun c p => c.flagEvent p.slot p.fl p.addr) c

/-- Inserts the flags of a T operation by their cycle, and among those of one cycle by flag code (R108). -/
def lateIns (p : LateFl) : List LateFl → List LateFl
  | [] => [p]
  | q :: t => if p.due < q.due || (p.due == q.due && decide (flagCode p.fl < flagCode q.fl)) then p :: q :: t else q :: lateIns p t

/-- The flags of T operations that have become visible by a cycle (R108, R173): those of a closed segment stand beyond every rewind. -/
def Ctx.flagLate (c : Ctx) (cycle : Nat) : Ctx :=
  if c.late.isEmpty then c
  else
    ((c.late.filter fun l => decide (l.due ≤ cycle)).foldl (fun q l => lateIns l q) []).foldl
      (fun c l => if l.opn then c.flagEvent 5 l.fl l.addr else c.engineFlags 5 l.fl l.addr)
      { c with late := c.late.filter fun l => !(decide (l.due ≤ cycle)) }

/-- Every result due by the present count becomes visible (R91); the list is kept in order of visibility, and `now` holds the results
whose flags are still to be recorded. -/
def Ctx.settle (c : Ctx) : Ctx :=
  go c.pend [] { c with pend := [] }
where
  go : List Pend → List Pend → Ctx → Ctx
    | [], now, c => c.flagAll now
    | p :: t, now, c =>
      if c.count < p.due then go t now { c with pend := c.pend ++ [p] }
      else if now.all fun q => q.due == p.due then go t (flagIns p now) (c.land p)
      else go t [p] ((c.flagAll now).land p)

/-- The count rises by n, and what has become due is visible (R91). -/
def Ctx.advance (c : Ctx) (n : Nat) : Ctx := Ctx.settle { c with count := c.count + n }

/-- Adds a result of the bundle being issued, of latency `lat`. -/
def Ctx.post (c : Ctx) (p : Pend) : Ctx := { c with pend := pendIns p c.pend }

/-- A result of the operation in focus: slot, latency, writes, latch entry and flags. -/
def State.post (s : State) (slot lat : Nat) (ws : List Write) (l : Option LatchVal) (fl : Flags) (bad : Bool) : State :=
  let c := s.ctx
  if ws.isEmpty && l.isNone && fl = 0 then s
  else s.setCtx (c.post ⟨c.count + lat, slot, ws, l, fl, s.cur.addr, bad⟩)

/-- The slots of its next bundle that are done (R214): a DONE that stands as a copy of another context's masks none (R215, R217). -/
def Ctx.mask (c : Ctx) : BitVec 9 := if c.copied then 0 else c.csr.done

/-- Whether breakpoints and watchpoints pass over a context's next bundle (R343). -/
def Ctx.skips (c : Ctx) : Bool := c.dbgSkip == some c.pc

/-- Whether a write to pair k is in flight: its norm scoreboard entry (R43). -/
def Ctx.normBusy (c : Ctx) (k : Nat) : Bool :=
  c.pend.any fun p => p.writes.any fun w => match w with
    | .pair j _ _ => j == k
    | .norm j _ => j == k
    | _ => false

/-! Cycles (R99, R247, R248). -/

/-- Whether the longest wait of a READY context has reached 1,024 cycles (R99). -/
def Core.sliceUp (k : Core) : Bool :=
  (List.range 4).any fun i => (k.ctxAt i).stat == .ready && decide (1024 ≤ (k.ctxAt i).age)

/-- One cycle of a context: a wait in READY is counted while `x`, partition X issuing, does not hold; the holder counts the cycles in
which the longest wait stands at 1,024 or more, a frozen context its freeze, and a bank wake runs down. -/
def Ctx.tick (c : Ctx) (cycle : Nat) (x up : Bool) : Ctx :=
  let c := (if c.wakeN = 0 then c else { c with wakeN := c.wakeN - 1 }).flagLate cycle
  match c.stat with
  | .ready => if x then c else { c with age := c.age + 1 }
  | .issuing => if x then c else { c with sliceN := if up then c.sliceN + 1 else 0 }
  | .frozen => { c with frozenN := c.frozenN + 1 }
  | _ => c

/-- One cycle of a core. -/
def Core.tick (k : Core) : Core :=
  let x := k.port == some 4
  let up := k.sliceUp
  { k with
    cycle := k.cycle + 1
    ctxs := k.ctxs.map fun (y : Nat × Ctx) => (y.1, y.2.tick k.cycle (x || y.1 == 4) up) }

/-! Stops. -/

/-- TRAPC's layout (R90). -/
def trapcOf (t : Trap) : BitVec 20 := BitVec.ofNat 20 (t.part % 16 * 2 ^ 16 + t.sub % 256 * 2 ^ 8 + t.cause % 256)

/-- DBGC.SUPV of a core's debug block: its debug stops go to the supervisor (R342, R343). -/
def State.dbgSupv (s : State) (core : Nat) : Bool :=
  (tget 0 s.regs (0x3F_0000_0000 + 0x1_0000 * (core / 64) + 0x1000 + 0x100 * (core % 64))).getLsbD 0

/-- Taking an exception (R213): TRAPC, TRAPV and DONE are written, the context is FROZEN with its port given up and its
latches empty (R94), its held commands and results in flight kept; the request for partition X joins the queue of R100, for the handler of the
task or, when it has none, for the supervisor (R215).  A trap of partition X itself does not nest (R216). -/
def State.takeTrap (s : State) (t : Trap) (done : BitVec 9) : State :=
  let i := s.cur.core
  let k := s.cur.ctx
  let c := s.ctxAt i k
  let c := { c with
    csr := { c.csr with trapc := trapcOf t, trapv := t.val, done := done }
    copied := false
    stat := .frozen
    freeze := .trap
    frozenN := 0
    latS := []
    latA := []
    latB := []
    stallN := 0
    bankN := 0 }
  let core := (s.coreAt i).setCtx k c
  let core := { core with
    port := if core.port = some k then none else core.port
    gap := 0
    xtrap := if k = 4 then some t else core.xtrap
    xqueue := if k = 4 then core.xqueue
      else core.xqueue ++ [match c.task with
        | some ts => if ts.handler = 0 || (t.cause == 3 && s.dbgSupv i) then .super k else .trap k
        | none => .super k] }
  { s.setCore i core with cur := { s.cur with stop := some t } }

/-- The stop of an operation in focus: its trap takes the context (R212, R213); BRK alone marks the Y slot done. -/
def State.trap (s : State) (part cause sub : Nat) (val : Word) : State := s.takeTrap ⟨part, cause, sub, val⟩ 0

/-- ILL raised by a value (R444): TRAPV holds the bundle address and the part (R73). -/
def State.ill (s : State) (part reason : Nat) : State :=
  s.trap part 0x01 reason (BitVec.ofNat 64 (s.cur.addr.toNat / 64 * 64 + part))

/-! Rewind (R219): the next bundle is SEGPC; the discards of R105 and the restorations of R102, R183 and R96. -/

/-- A channel at a rewind (R96): popped entries are popped again; the segment's pushes await their match; an
uncorrectable error discards them. -/
def QChan.rewind (q : QChan) (err : Bool) : QChan :=
  let keep := q.ents.take (q.ents.length - q.pushed)
  let mine := q.ents.drop (q.ents.length - q.pushed)
  ⟨keep, 0, 0, if err then [] else mine ++ q.old⟩

/-- The values at the segment entry that a rewind restores (R102). -/
def Ctx.checkpoint (c : Ctx) : Ctx :=
  { c with save := {
      rotv := c.csr.rotv, rotp := c.csr.rotp, lc := c.csr.lc, ec := c.csr.ec
      preds := (List.range 8).map fun i => tget 0 c.pRegs (8 + i)
      gen := c.csr.rseed, fpstat := c.csr.fpstat, fprec := c.csr.fprec, walkers := c.walkers } }

def Ctx.rewind (c : Ctx) (err : Bool) : Ctx :=
  { c with
    pc := c.csr.segpc
    csr := { c.csr with
      rotv := c.save.rotv, rotp := c.save.rotp, lc := c.save.lc, ec := c.save.ec, rseed := c.save.gen
      fpstat := c.save.fpstat, fprec := c.save.fprec, done := if c.copied then c.csr.done else 0 }
    pRegs := (c.save.preds.zipIdx.foldl (fun (t : Tab Word) (x : Word × Nat) => tset t (8 + x.2) x.1) c.pRegs)
    walkers := c.save.walkers
    pend := []
    latS := []
    latA := []
    latB := []
    q0 := c.q0.rewind err
    q1 := c.q1.rewind err
    held := []
    irrev := []
    late := c.late.filter fun l => !l.opn
    waitOp := none
    waitHit := false
    endReq := none
    segOpen := false
    entry := c.segForced
    closing := false
    rewindNext := none
    replay := true
    kept0 := none
    kept1 := none
    yld := false
    stallN := 0
    bankN := 0 }

end Sys2Proof.Machine
end

