-- ==== Sys2Proof/Machine/Operands.lean ====
section
/-! DEFINITION. Every source operand form (R56 to R60) and the traps that reading one takes (R94, R175, R220). -/

namespace Sys2Proof.Machine

/-- What a step of this part answers. -/
abbrev Out := Host.Outcome State Fault Refusal

/-- Bits 31:0 in every lane (R57). -/
def bcast32 (x : Nat) : Vec := vbuild 32 fun _ => x

/-- The latch entry at a slot and depth code (R93). -/
def Ctx.latchAt (c : Ctx) (slot : Nat) (depth : Nat) : Option LatchVal :=
  (if slot = 0 then c.latS else if slot = 1 then c.latA else c.latB)[depth]?

/-- R57: an entry in a role of another width. -/
def LatchVal.asScalar : LatchVal → Word
  | .scalar x => x
  | .vector x => BitVec.ofNat 64 (vlane x 0)
def LatchVal.asVector : LatchVal → Vec
  | .scalar x => bcast32 (x.toNat % 2 ^ 32)
  | .vector x => x

def QEntry.asScalar (e : QEntry) : Word :=
  if e.vec then BitVec.ofNat 64 (vlane e.data 0) else e.data.setWidth 64
def QEntry.asVector (e : QEntry) : Vec :=
  if e.vec then e.data else bcast32 (e.data.toNat % 2 ^ 32)

/-- The head that the bundle popped from a channel (R58). -/
def Cur.head (c : Cur) (q : Bool) : Option QEntry := if q then c.head1 else c.head0

/-- Sign-extended constant (R59). -/
def constS (c : BitVec 8) : Word := c.signExtend 64

/-- A constant in an element role: saturated for integers, rounded for floating point, no flag (R59). -/
def constElem (f : Fmt) (c : BitVec 8) : Nat :=
  if f.isInt then toTwos f.width (Max.max (Min.min c.toInt f.intHi) (if f = .i4 then -7 else f.intLo))
  else (encodeFmt f .rne .none 0 (XVal.ofInt c.toInt)).1

/-- A source in a scalar role. -/
def Ctx.srcS (c : Ctx) (cur : Cur) : Sel → Word
  | .reg n => c.sGet n.toNat
  | .latch slot depth => ((c.latchAt slot.val depth.toNat).map LatchVal.asScalar).getD 0
  | .queue q => ((cur.head q).map QEntry.asScalar).getD 0
  | .const k => constS k

/-- A source in a vector role without a type, whose constants go to 32-bit lanes (DEDUCED, log entry 19). -/
def Ctx.srcV (c : Ctx) (cur : Cur) : Sel → Vec
  | .reg n => c.vGet n.toNat
  | .latch slot depth => ((c.latchAt slot.val depth.toNat).map LatchVal.asVector).getD 0
  | .queue q => ((cur.head q).map QEntry.asVector).getD 0
  | .const k => bcast32 ((constS k).toNat % 2 ^ 32)

/-- A source in an element role of a format. -/
def Ctx.srcE (c : Ctx) (cur : Cur) (f : Fmt) : Sel → Vec
  | .const k => let e := constElem f k; vbuild f.width fun _ => e
  | x => c.srcV cur x

/-- Register number of a class 00 selector. -/
def selNum : Sel → Nat
  | .reg n => n.toNat
  | _ => 0

/-- The file that a source's role names. -/
inductive SKind where
  /-- scalar and vector roles take every class; `v2` is the pair role of R164 -/
  | s | v | v2 | p | d
  deriving DecidableEq, Repr

/-- Poison kinds of TRAPV (R220). -/
def poisonVal (kind num : Nat) : Word := BitVec.ofNat 64 (kind + num * 256)

def Ctx.badReg (c : Ctx) (kind phys : Nat) : Bool := c.bad.contains (kind, phys)

/-- The poisoned registers that a class 00 source names, as TRAPV values. -/
def Ctx.poisoned (c : Ctx) (k : SKind) (n : Nat) : List Word :=
  match k with
  | .s => if c.badReg 0 n then [poisonVal 0 n] else []
  | .p => if c.badReg 1 (c.pPhys n) then [poisonVal 1 n] else []
  | .v => if c.badReg 2 (c.vPhys n) then [poisonVal 2 n] else []
  | .v2 => (if c.badReg 2 (c.vPhys n) then [poisonVal 2 n] else []) ++
      (if c.badReg 2 (c.vPhys (n + 1)) then [poisonVal 2 (n + 1)] else [])
  | .d => if c.badReg 3 n then [poisonVal 3 n] else []

/-- The selector's ten bits, for LATCH's TRAPV (R211). -/
def selBits : Sel → BitVec 10
  | .reg n => n.setWidth 10
  | .latch slot depth => 0x100#10 ||| (BitVec.ofNat 10 (slot.val * 64)) ||| ((depth.setWidth 10) <<< 4)
  | .queue q => if q then 0x201#10 else 0x200#10
  | .const c => 0x300#10 ||| c.setWidth 10

/-- The trap that reading one source takes: a faulted or poisoned entry (R175), an empty latch outside a replay (R94) and a
poisoned register (R220).  None is a value check of R444's list, so a false guard excuses none of them (log entry 8). -/
def Ctx.srcTrap (c : Ctx) (cur : Cur) (part : Nat) (k : SKind) (x : Sel) : Option Trap :=
  match x with
  | .reg n =>
    match c.poisoned k n.toNat with
    | v :: _ => some ⟨part, 0x0C, 0x01, v⟩
    | [] => none
  | .latch slot depth =>
    if !c.replay && (c.latchAt slot.val depth.toNat).isNone then
      some ⟨part, 0x04, 0, (selBits x).setWidth 64⟩
    else none
  | .queue q =>
    match cur.head q with
    | some e =>
      match e.stat with
      | .faulted t => some { t with part := part }
      | _ => none
    | none => none
  | .const _ => none

/-- Orders the traps of a part: the lowest cause code wins (R212), and of two poison traps the lower kind and number (R220). -/
def Trap.key (t : Trap) : Nat :=
  t.cause * 2 ^ 16 + if t.cause = 0x0C then t.val.toNat % 16 * 2 ^ 8 + bitsOf t.val.toNat 15 8 else 0

def lowerTrap (a b : Option Trap) : Option Trap :=
  match a, b with
  | none, b => b
  | a, none => a
  | some x, some y => if y.key < x.key then some y else some x

def Ctx.srcTraps (c : Ctx) (cur : Cur) (part : Nat) (l : List (SKind × Sel)) : Option Trap :=
  l.foldl (fun acc x => lowerTrap acc (c.srcTrap cur part x.1 x.2)) none

/-- The lowest poisoned operand among the sources, as TRAPV names it (R220). -/
def Ctx.lowestPoison (c : Ctx) (cur : Cur) (l : List (SKind × Sel)) : Option Word :=
  (l.foldl (fun acc x => lowerTrap acc ((c.srcTrap cur 0 x.1 x.2).filter fun t => t.cause == 0x0C)) none).map Trap.val

/-- Whether one of the sources holds no value to check: an empty latch, or a faulted or poisoned entry. -/
def Ctx.missing (c : Ctx) (cur : Cur) (l : List Sel) : Bool :=
  l.any fun x => match x with
    | .reg _ => false
    | _ => (c.srcTrap cur 0 .s x).isSome

/-- The trap of an operation: the lowest cause of its part (R212).  `own` is its value check; where a source holds no value, only
`free`, the part of the check that does not look at that source, stands beside the source's trap. -/
def partTrap (src own free : Option Trap) : Option Trap :=
  match src with
  | none => own
  | some t => if t.cause = 0x0C ∧ t.sub = 0x01 then lowerTrap src own else lowerTrap src free

/-- The poison that a trap of a lower cause leaves unreported in its part stays noted for the bundle (R220). -/
def State.notePoison (s : State) (l : List (SKind × Sel)) : State :=
  match s.ctx.lowestPoison s.cur l with
  | none => s
  | some v => s.updCur fun c => { c with poisonV := some v }

/-- Reads the sources: takes the lowest of their traps and of the operation's own value check, or goes on. -/
def State.sources (s : State) (part : Nat) (l : List (SKind × Sel)) (own : Option Trap)
    (k : Ctx → State) (free : Option Trap := none) : Out :=
  let c := s.ctx
  match partTrap (c.srcTraps s.cur part l) own free with
  | some t => .next ((if t.cause = 0x0C then s else s.notePoison l).takeTrap t 0)
  | none => .next (k c)

/-- Places a scalar result: the register unless NW or the guard is 0, the latch entry with zero where the guard is 0
(R55, R93, R109). -/
def State.putS (s : State) (part lat : Nat) (g nw : Bool) (dst : Nat) (x : Word) (fl : Flags) : State :=
  s.post (part - 1) lat (if g && !nw && dst != 0 then [.s dst x] else [])
    (if part ≤ 3 then some (.scalar (if g then x else 0)) else none) (if g then fl else 0) false

/-- Lanes outside the mask are zero: a latch entry's suppressed part (R93). -/
def maskVec (m : Word) (x : Vec) : Vec := mergeLanes m 0 x

/-- Places a vector result by lane predicates (R140).  DESIGN CHOICE (log entry 193): every lane that is not written is zero in the latch
entry. -/
def State.putV (s : State) (part lat : Nat) (m : Word) (nw : Bool) (dst : Nat) (x : Vec) (fl : Flags) : State :=
  s.post (part - 1) lat (if nw then [] else [.v (s.ctx.vPhys dst) m x])
    (if part ≤ 3 then some (.vector (maskVec m x)) else none) fl false

/-- Places a predicate result; no latch entry (R93). -/
def State.putP (s : State) (part lat : Nat) (m : Word) (nw : Bool) (dst : Nat) (x : Word) : State :=
  s.post (part - 1) lat (if nw || dst == 0 then [] else [.p (s.ctx.pPhys dst) m x]) none 0 false

/-- Places a directional pair under R38's guard; no latch entry (R44). -/
def State.putPair (s : State) (part lat : Nat) (g : Bool) (dst : Nat) (q : Vec) (n : BitVec 32) (fl : Flags) : State :=
  if g then s.post (part - 1) lat [.pair dst q n] none fl false else s

end Sys2Proof.Machine
end

