-- ==== Sys2Proof/Machine/Translate.lean ====
section
/-! DEFINITION. Physical memory (R346 to R351), page-table walks and translation (R322 to R329, R374, R386). -/

namespace Sys2Proof.Machine

/-! The package map (R346). -/

/-- What a physical address names. -/
inductive PLoc where
  | dram (die : Nat)
  | dscr (die off : Nat)
  | crucible (off : Nat)
  | ctl (die off : Nat)
  | pkgCtl (off : Nat)
  | aperture (i : Nat)
  | none
  deriving DecidableEq, Repr

def dramBase (d : Nat) : Nat := 0x10_0000_0000 * d
def dscrBase (d : Nat) : Nat := 0x3E_0000_0000 + 0x200_0000 * d
def crucibleBase : Nat := 0x3E_1000_0000
def ctlBase (d : Nat) : Nat := 0x3F_0000_0000 + 0x1_0000 * d

def plocOf (a : Nat) : PLoc :=
  if a < 0x40_0000_0000 then
    if a < 0x3E_0000_0000 then
      (if a % 0x10_0000_0000 < 0xC_0000_0000 then .dram (a / 0x10_0000_0000) else .none)
    else if a < 0x3E_0800_0000 then .dscr ((a - 0x3E_0000_0000) / 0x200_0000) ((a - 0x3E_0000_0000) % 0x200_0000)
    else if 0x3E_1000_0000 ≤ a ∧ a < 0x3E_1080_0000 then .crucible (a - 0x3E_1000_0000)
    else if 0x3F_0000_0000 ≤ a ∧ a < 0x3F_0004_0000 then .ctl ((a - 0x3F_0000_0000) / 0x1_0000) (a % 0x1_0000)
    else if 0x3F_0010_0000 ≤ a ∧ a < 0x3F_0011_0000 then .pkgCtl (a % 0x1_0000)
    else .none
  else if 0x100_0000_0000 ≤ a ∧ a < 0x4000_0000_0000 then .aperture (a / 2 ^ 40)
  else if 2 ^ 60 ≤ a then .aperture (64 + (a - 2 ^ 60) / 2 ^ 38)
  else .none

/-- The die whose DRAM or scratchpad an address lies in. -/
def dieOfPA (a : Nat) : Option Nat :=
  match plocOf a with
  | .dram d => some d
  | .dscr d _ => some d
  | _ => Option.none

/-- A leaf's range lies within one store of the map. -/
def rangeMapped (a n : Nat) : Bool :=
  match plocOf a, plocOf (a + n - 1) with
  | .dram d, .dram e => d == e
  | .dscr d _, .dscr e _ => d == e
  | .crucible _, .crucible _ => true
  | .ctl d _, .ctl e _ => d == e
  | .pkgCtl _, .pkgCtl _ => true
  | .aperture i, .aperture j => i == j
  | _, _ => false

/-- The top 64 MiB of each die's DRAM (R374). -/
def inReserved (a n : Nat) : Bool :=
  match plocOf a with
  | .dram d => decide (dramBase d + 0xB_FC00_0000 < a + n)
  | _ => false

/-- The checked region of a die scratchpad (R320). -/
def inChecked (a : Nat) : Bool :=
  match plocOf a with
  | .dscr _ off => decide (off < 0x40_0000)
  | _ => false

/-! Keys and the ciphertext boundary (R348 to R351). -/

/-- Key 0's material, of the device. -/
def State.key0 (s : State) : BitVec 512 := ((tfind s.keys 0).map KeyRec.mat).getD 0

/-- The 64 bytes of a line as a number. -/
def State.lineRaw (s : State) (line : Nat) : BitVec 512 := BitVec.ofNat 512 (memRead s.mem (line * 64) 64)

/-- A byte of DRAM read under key material: the stored ciphertext decrypted under it (R348). -/
def State.dramByte (s : State) (mat : BitVec 512) (a : Nat) : Byte :=
  let wr := tget s.key0 s.lineKey (a / 64)
  if wr = mat then memGet s.mem a
  else ((xtsMismatch wr mat (a / 64) (s.lineRaw (a / 64))) >>> (8 * (a % 64))).setWidth 8

/-- Whether an invalidation that a write of TLBINV asked for still waits (R326). -/
def State.tlbBusy (s : State) (a : Nat) : Bool :=
  match plocOf a with
  | .ctl d _ => s.agenda.any fun e => (e.ins == .tlbinvPage || e.ins == .tlbinvAsid || e.ins == .tlbinvAll) && e.arg.head? == some d
  | _ => false

/-- What a register of a control block reads as (R326, R361, R363, R382). RESOLVE has no read, so that its bits 8:0 are free; its reserved
bits, and those of FEATACC (R363), read zero (R5). -/
def State.ctlRead (s : State) (a : Nat) : Word :=
  match plocOf a with
  | .ctl _ off =>
    if off = 0 then (if s.tlbBusy a then 1 else 0)
    else if off = 0x58 then Config.freeBits 64 ((s.now * 2 ^ 64 + s.fresh) * 2 ^ 64 + a) &&& 0x1FF#64
    else tget 0 s.regs a
  | .pkgCtl off =>
    if off < 0x20 then (s.sn.offered >>> (8 * off)).setWidth 64
    else if off < 0x40 then (if off = 0x20 then tget 0 s.regs a &&& 0x7F#64 else 0)
    else if off = 0x40 then BitVec.ofNat 64 s.sn.featCtl
    else if off = 0x2000 then 0
    else if 0x2000 < off ∧ off < 0x2200 then tget 0 s.apt ((off - 0x2000) / 8)
    else if off = 0x2400 then s.nodecfg
    else if off = 0x2408 then s.domain
    else tget 0 s.regs a
  | _ => 0

/-- A byte at a physical or model address under a key; every store but DRAM ignores the key.  What another node holds behind an
aperture is free (R386). -/
def State.byteAt (s : State) (mat : BitVec 512) (a : Nat) : Byte :=
  match plocOf a with
  | .dram _ => s.dramByte mat a
  | .aperture _ => Config.freeBits 8 ((s.now * 2 ^ 64 + s.fresh) * 2 ^ 64 + a)
  | .ctl _ _ | .pkgCtl _ => ((s.ctlRead (a / 8 * 8)) >>> (8 * (a % 8))).setWidth 8
  | _ => memGet s.mem a

def State.bytesAt (s : State) (mat : BitVec 512) (a : Nat) : Nat → List Byte
  | 0 => []
  | n + 1 => s.byteAt mat a :: State.bytesAt s mat (a + 1) n

/-- The 8-byte units that a run of bytes covers whole; a write of the whole word clears its poison (R220). -/
def clearUnits (poison : List Nat) (a n : Nat) : List Nat :=
  poison.filter fun u => !(decide (a ≤ u * 8) && decide (u * 8 + 8 ≤ a + n))

/-- Writes bytes at a place that no key protects. -/
def State.putBytes (s : State) (a : Nat) (bs : List Byte) : State :=
  { s with mem := memPut s.mem a bs, poison := clearUnits s.poison a bs.length }

/-- Re-encrypts a line under new key material before a part of it is written (R348). -/
def State.rekeyLine (s : State) (mat : BitVec 512) (line : Nat) : State :=
  let wr := tget s.key0 s.lineKey line
  if wr = mat then s
  else
    let x := xtsMismatch wr mat line (s.lineRaw line)
    { s with mem := memWrite s.mem (line * 64) 64 x.toNat, lineKey := tset s.lineKey line mat }

/-- The lines that a run touches. -/
def linesOf (a n : Nat) : List Nat := (List.range ((a + n + 63) / 64 - a / 64)).map fun i => a / 64 + i

/-- The port of dimension-order routing from this node toward another (R384); none for this node itself. -/
def routePort (nodecfg : Word) (dst : Nat) : Option Nat :=
  let c := nodecfg.toNat
  let axis (i : Nat) : Option Nat :=
    let a := bitsOf c (5 * i + 4) (5 * i)
    let b := bitsOf dst (5 * i + 4) (5 * i)
    let d := bitsOf c (5 * i + 19) (5 * i + 15) + 1
    let f := (b + d - a % d) % d
    if a = b then none else some (2 * i + if f ≤ d - f then 0 else 1)
  match axis 0, axis 1, axis 2 with
  | some p, _, _ => some p
  | none, some p, _ => some p
  | none, none, p => p

/-- A port that is present: its link is trained and its axis has more than one node (R380). -/
def State.present (s : State) (port : Nat) : Bool :=
  s.fab.links.getLsbD port && bitsOf s.nodecfg.toNat (5 * (port / 2) + 19) (5 * (port / 2) + 15) != 0

/-- The port by which a message leaves: its own, or that toward its node. -/
def NetMsg.port (nodecfg : Word) : NetMsg → Nat
  | .packet p _ | .request p _ _ | .aperture p _ _ | .response p _ _ | .marker p => p
  | .chunk n _ | .abort n _ _ _ => (routePort nodecfg n).getD 0

/-- A message leaves by its port, or waits while the port is not present (R380, R404). -/
def State.sendNet (s : State) (m : NetMsg) : State :=
  { s with fab := if s.present (m.port s.nodecfg) then { s.fab with net := s.fab.net ++ [m] } else { s.fab with held := s.fab.held ++ [m] } }

/-- The node that the aperture of a physical address names now (R386). -/
def State.aptNode (s : State) (a : Nat) : Nat := bitsOf (tget 0 s.apt (a / 2 ^ 40)).toNat 14 0

/-- What a leaf in an aperture translates to, a place of the model's own above the physical map: the node that the aperture named at the
walk, and the physical address there (R386). -/
def apPlace (node a : Nat) : Nat := 2 ^ 60 + node * 2 ^ 38 + a % 2 ^ 38
def apNode (p : Nat) : Nat := (p - 2 ^ 60) / 2 ^ 38
/-- What an access through an aperture carries (R386): KEYID of the local leaf and tenant of its job. -/
def apCred (key tenant : Nat) : Nat := key % 2 ^ 13 + tenant * 2 ^ 13

/-- An access through an aperture leaves for the node that it names (R386). -/
def State.sendAp (s : State) (cred p : Nat) (op : ApOp) : State :=
  s.sendNet (.aperture ((routePort s.nodecfg (apNode p)).getD 0) (apNode p) ⟨cred % 2 ^ 13, cred / 2 ^ 13, p % 2 ^ 38, op⟩)

/-- The event that a write of a control-block register is (R326, R361, R363), with its arguments. -/
def ctlEvent (a : Nat) (x : Word) : Instr × List Nat :=
  match plocOf a with
  | .ctl d off =>
    if off = 0 then
      (match x.toNat % 4 with
        | 0 => (.tlbinvPage, [d, x.toNat])
        | 1 => (.tlbinvAsid, [d, x.toNat])
        | 2 => (.tlbinvAll, [d, x.toNat])
        | _ => (.registerWrite, [a, x.toNat, 0]))
    else if off = 0x58 then (if x.getLsbD 8 then (.resolveFail, [d, x.toNat % 256]) else (.resolveRetry, [d, x.toNat % 256]))
    else (.registerWrite, [a, x.toNat, 0])
  | .pkgCtl off => if off = 0x40 then (.featctlCommit, [x.toNat, 0]) else (.registerWrite, [a, x.toNat, 0])
  | _ => (.registerWrite, [a, x.toNat, 0])

/-- Writes to control blocks take place as the events of their registers. -/
def State.ctlStore (s : State) (a : Nat) (bs : List Byte) : State :=
  let regs := (List.range ((a + bs.length + 7) / 8 - a / 8)).map fun i => a / 8 * 8 + 8 * i
  let evs := regs.map fun r =>
    let x := ofBytes ((List.range 8).map fun j =>
      if a ≤ r + j ∧ r + j < a + bs.length then bs.getD (r + j - a) 0 else ((s.ctlRead r) >>> (8 * j)).setWidth 8)
    let e := ctlEvent r (BitVec.ofNat 64 x)
    (⟨e.1, 0, 0, 0, e.2, []⟩ : Ev)
  { s with agenda := s.agenda ++ evs }

/-- Writes bytes under key material; DRAM lines are taken over by the key (R348).  What lies behind an aperture is another node's
(`State.storeAt`). -/
def State.storeBytes (s : State) (mat : BitVec 512) (a : Nat) (bs : List Byte) : State :=
  if bs.isEmpty then s
  else
    match plocOf a with
    | .dram _ => ((linesOf a bs.length).foldl (fun s l => s.rekeyLine mat l) s).putBytes a bs
    | .aperture _ => s
    | .ctl _ _ | .pkgCtl _ => s.ctlStore a bs
    | _ => s.putBytes a bs

/-- The material of a key, if it is LOADED (R349). -/
def State.keyMat (s : State) (k : Nat) : Option (BitVec 512) := (tfind s.keys k).map KeyRec.mat

/-- Writes bytes at a translated place, with what its page carries: its key, or through an aperture its credentials. -/
def State.storeAt (s : State) (key a : Nat) (bs : List Byte) : State :=
  match plocOf a with
  | .aperture _ => s.sendAp key a (.store (bs.map fun b => (b, 0xFF#8)))
  | _ => s.storeBytes ((s.keyMat key).getD 0) a bs

/-- Whether an access to DRAM goes under an EMPTY key (R351); key 0 is never EMPTY. -/
def State.keyDead (s : State) (k pa : Nat) : Bool :=
  match plocOf pa with
  | .dram _ => k != 0 && (s.keyMat k).isNone
  | _ => false

/-- Adds 8-byte units to the poison marks. -/
def State.poisonRange (s : State) (a n : Nat) : State :=
  let units := (List.range ((a + n + 7) / 8 - a / 8)).map fun i => a / 8 + i
  { s with poison := units.foldl (fun l u => if l.contains u then l else l ++ [u]) s.poison }

/-- The poison bits of every 64-byte line that a range touches: a store or an engine write that carries poison sets them (R220). -/
def State.poisonLines (s : State) (a n : Nat) : State := s.poisonRange (a / 64 * 64) ((a + n + 63) / 64 * 64 - a / 64 * 64)

/-- Adds to a counter of R340. -/
def State.count (s : State) (tenant die num n : Nat) : State :=
  let k := (tenant * 4 + die) * 16 + num
  { s with counters := tset s.counters k (tget 0 s.counters k + n) }

/-! Page-table entries (R323). -/

def pteKey (e : Nat) : Nat := bitsOf e 63 51
def pteFmt (e : Nat) : Nat := bitsOf e 50 47
def pteGeo (e : Nat) : Nat := bitsOf e 46 44
def ptePpn (e : Nat) : Nat := bitsOf e 43 10
def pteBit (e i : Nat) : Bool := bitsOf e i i == 1
def pteV (e : Nat) : Bool := pteBit e 0
def pteW (e : Nat) : Bool := pteBit e 1
def pteU (e : Nat) : Bool := pteBit e 2
def pteX (e : Nat) : Bool := pteBit e 3
def pteD (e : Nat) : Bool := pteBit e 4
def pteMlog (e : Nat) : Bool := pteBit e 5
def pteRchk (e : Nat) : Bool := pteBit e 6
def pteLeaf (e : Nat) : Bool := pteBit e 7
def pteCont (e : Nat) : Bool := pteBit e 8

/-- Bytes mapped by a leaf at a level (R322). -/
def leafSize (level : Nat) (cont : Bool) : Nat :=
  match level with
  | 0 => if cont then 2 ^ 16 else 2 ^ 12
  | 1 => 2 ^ 21
  | _ => 2 ^ 30

/-- FMT and GEO that R18 allows. -/
def fmtGeoOk (f g : Nat) : Bool := decide (f ≤ 9) && (g == 0 || (g == 1 && f == 6))

/-- The 64-bit entry at a physical address, under key 0 (R348). -/
def State.pteAt (s : State) (a : Nat) : Nat := ofBytes (s.bytesAt s.key0 a 8)

/-- A coordinate lies in the load-store domain (R383). -/
def inDomain (nodecfg domain : Word) (node : Nat) : Bool :=
  let d := domain.toNat
  let c := nodecfg.toNat
  let ax (hi lo sz ext : Nat) : Bool :=
    decide ((bitsOf node hi lo + sz - bitsOf d hi lo % sz) % sz < ext)
  bitsOf d 27 27 == 1 &&
  ax 4 0 (bitsOf c 19 15 + 1) (bitsOf d 18 15 + 1) &&
  ax 9 5 (bitsOf c 24 20 + 1) (bitsOf d 22 19 + 1) &&
  ax 14 10 (bitsOf c 29 25 + 1) (bitsOf d 26 23 + 1)

/-- The aperture conditions of R386. -/
def State.apertureOk (s : State) (a n : Nat) : Bool :=
  let e := (tget 0 s.apt (a / 2 ^ 40)).toNat
  let node := bitsOf e 14 0
  bitsOf e 15 15 == 1 && node != bitsOf s.nodecfg.toNat 14 0 && inDomain s.nodecfg s.domain node &&
  bitsOf a 39 38 == 0 && bitsOf (a + n - 1) 39 38 == 0

/-- A leaf's key (R350): for a user page a LOADED key of the job's tenant, or key 0 when the tenant is not
confidential; for a supervisor page any LOADED key. -/
def State.leafKeyOk (s : State) (tenant k : Nat) (user : Bool) : Bool :=
  match tfind s.keys k with
  | none => false
  | some r =>
    if !user then true
    else r.owner == tenant && k != 0 ||
      (k == 0 && !(((tfind s.tenants tenant).map Tenant.conf).getD false))

/-- Everything a leaf must satisfy besides V, W and U (R324, R320, R346, R350, R374, R386). -/
def State.leafOk (s : State) (tenant level e : Nat) : Bool :=
  let size := leafSize level (pteCont e)
  let a := ptePpn e * 4096
  let base := a / size * size
  let ploc := plocOf base
  !(pteBit e 9) && fmtGeoOk (pteFmt e) (pteGeo e) && (pteCont e || a % size == 0) &&
  rangeMapped base size && !(pteU e && inReserved base size) &&
  (pteRchk e == inChecked base) &&
  (match ploc with
    | .dscr d off => off + size ≤ 0x40_0000 || decide (0x40_0000 ≤ off) || d ≥ 4
    | _ => true) &&
  (match ploc with
    | .ctl _ _ | .pkgCtl _ => !(pteU e) && !(pteMlog e)
    | .crucible _ => !(pteMlog e)
    | .aperture _ => !(pteMlog e) && s.apertureOk base size
    | _ => true) &&
  s.leafKeyOk tenant (pteKey e) (pteU e)

/-- The 16 entries of a 64 KiB group agree in everything but PPN and form the aligned run (R324). -/
def State.contOk (s : State) (table idx : Nat) : Bool :=
  let first := s.pteAt (table + 8 * (idx / 16 * 16))
  let rest (e : Nat) : Nat := e - ptePpn e * 2 ^ 10
  ptePpn first % 16 == 0 &&
  (List.range 16).all fun j =>
    let e := s.pteAt (table + 8 * (idx / 16 * 16 + j))
    rest e == rest first && ptePpn e == ptePpn first + j

/-- A walk's result: the leaf entry, its own address and level, or a page-fault subcode. -/
inductive WalkRes where
  | leaf (entry : Nat) (addr : Nat) (level : Nat)
  | fault (sub : Nat)
  deriving DecidableEq, Repr

/-- A walk from a table at a level (R322, R324). -/
def State.walkFrom (s : State) (tenant va : Nat) : Nat → Nat → WalkRes
  | level, table =>
    let idx := va / 2 ^ (12 + 9 * level) % 512
    let a := table + 8 * idx
    let e := s.pteAt a
    if !pteV e then .fault 0x01
    else if pteLeaf e then
      if level = 3 ∨ (pteCont e ∧ level ≠ 0) then .fault 0x02
      else if pteCont e && !s.contOk table idx then .fault 0x02
      else if s.leafOk tenant level e then .leaf e a level
      else .fault 0x02
    else if e ≠ ptePpn e * 2 ^ 10 + 1 then .fault 0x02
    else
      match level with
      | 0 => .fault 0x02
      | l + 1 => State.walkFrom s tenant va l (ptePpn e * 4096)

/-- What an access wants of its page. -/
inductive XAcc where
  | read | write | fetch
  deriving DecidableEq, Repr

/-- A translated page (R323). -/
structure Page where
  pa : Nat
  fmt : Nat
  geo : Nat
  key : Nat
  mlog : Bool
  rchk : Bool
  deriving DecidableEq, Repr

inductive XRes where
  | ok (p : Page)
  | fault (cause sub : Nat)
  deriving DecidableEq, Repr

/-- Permission and privilege of a leaf for an access (R324). -/
def accessFault (x : XCtx) (acc : XAcc) (e : Nat) : Option (Nat × Nat) :=
  if acc = .fetch ∧ !pteX e then some (0x08, 0x02)
  else if acc = .write ∧ !pteW e then some (0x09, 0x01)
  else if !x.sup ∧ !pteU e then some (0x0A, 0x01)
  else none

/-- Physical address within a leaf. -/
def leafPA (e level va : Nat) : Nat :=
  let size := leafSize level (pteCont e)
  ptePpn e * 4096 / size * size + va % size

/-- The page of a leaf for a tenant; `node` is the node that a leaf in an aperture names (R386). -/
def pageOf (tenant node e level va : Nat) : Page :=
  let a := leafPA e level va
  match plocOf a with
  | .aperture _ => ⟨apPlace node a, pteFmt e, pteGeo e, apCred (pteKey e) tenant, pteMlog e, pteRchk e⟩
  | _ => ⟨a, pteFmt e, pteGeo e, pteKey e, pteMlog e, pteRchk e⟩

/-- Sets the D bit of a leaf at its home (R328), in all 16 entries of a CONT group, which must agree in it (R324; log entry 9). -/
def State.setD (s : State) (addr : Nat) : State :=
  let one (s : State) (a : Nat) : State :=
    let e := s.pteAt a
    if pteD e then s else s.storeBytes s.key0 a (toBytes (e + 16) 8)
  if pteCont (s.pteAt addr) then (List.range 16).foldl (fun s j => one s (addr / 128 * 128 + 8 * j)) s else one s addr

/-- A walk for an access: the page, with D set on a write (R325, R328). -/
def State.walk (s : State) (x : XCtx) (acc : XAcc) (va : Word) : State × XRes × Option TlbEnt :=
  if va.toNat ≥ 2 ^ 48 then (s, .fault 0x08 0x03, none)
  else
    match s.walkFrom x.tenant va.toNat 3 x.root with
    | .fault sub => (s, .fault 0x08 sub, none)
    | .leaf e a level =>
      match accessFault x acc e with
      | some (c, sub) => (s, .fault c sub, none)
      | none =>
        let s := if acc = .write then s.setD a else s
        let e' := s.pteAt a
        let size := leafSize level (pteCont e)
        let node := s.aptNode (leafPA e level va.toNat)
        (s, .ok (pageOf x.tenant node e level va.toNat), some ⟨x.asid, va.toNat / size * size, size, BitVec.ofNat 64 e', node⟩)

/-- The TLB entry that may serve an access: one with D = 0 does not serve a write (R328). -/
def tlbFind (tlb : List TlbEnt) (asid : Nat) (acc : XAcc) (va : Nat) : Option TlbEnt :=
  tlb.find? fun t => t.asid == asid && decide (t.va ≤ va) && decide (va < t.va + t.size) &&
    (acc != .write || pteD t.pte.toNat)

def tlbLevel (t : TlbEnt) : Nat := if t.size ≤ 2 ^ 16 then 0 else if t.size = 2 ^ 21 then 1 else 2

/-- At most 256 entries (R325); the oldest goes. -/
def tlbPut (tlb : List TlbEnt) (t : TlbEnt) : List TlbEnt :=
  (t :: tlb.filter fun u => !(u.asid == t.asid && u.va == t.va && u.size == t.size)).take 256

/-- Whether a core has had the walk of a page's last miss (R325). -/
def Core.walkedTo (k : Core) (asid va : Nat) : Bool := k.walked.contains (asid, va / 4096)

/-- Whether an access of a core misses in its TLB, with no walk ended for it. -/
def State.misses (s : State) (core : Nat) (x : XCtx) (acc : XAcc) (va : Word) : Bool :=
  let k := s.coreAt core
  decide (va.toNat < 2 ^ 48) && (tlbFind k.tlb x.asid acc va.toNat).isNone && !(k.walkedTo x.asid va.toNat)

/-- Translation by a core's TLB, walking on a miss (R325), which is counted unless its walk was asked for before. -/
def State.xlate (s : State) (core : Nat) (x : XCtx) (acc : XAcc) (va : Word) : State × XRes :=
  if va.toNat ≥ 2 ^ 48 then (s, .fault 0x08 0x03)
  else
    match tlbFind (s.coreAt core).tlb x.asid acc va.toNat with
    | some t =>
      match accessFault x acc t.pte.toNat with
      | some (c, sub) => (s, .fault c sub)
      | none => (s, .ok (pageOf x.tenant t.node t.pte.toNat (tlbLevel t) va.toNat))
    | none =>
      let s := if (s.coreAt core).walkedTo x.asid va.toNat then s else s.count x.tenant (core / 64) 0x0C 1
      let s := s.updCore core fun c => { c with walked := c.walked.erase (x.asid, va.toNat / 4096) }
      match s.walk x acc va with
      | (s', r, some t) => (s'.updCore core fun c => { c with tlb := tlbPut c.tlb t }, r)
      | (s', r, none) => (s', r)

/-- The 4 KiB bitmap bit of a DRAM or die-scratchpad unit (R329, R374). -/
def bitmapPlace (a : Nat) : Option (Nat × Nat) :=
  match plocOf a with
  | .dram d =>
    let u := (a - dramBase d) / 4096
    some (dramBase d + 0xB_FC00_0000 + u / 8, u % 8)
  | .dscr d off => let u := off / 4096; some (dramBase d + 0xB_FC18_0000 + u / 8, u % 8)
  | _ => none

/-- Marks the 4 KiB units that a write touches on a page with MLOG = 1 (R329), and counts them for the tenant of the page's key
(R340); without feature 1 MLOG is ignored (R363). -/
def State.logDirty (s : State) (p : Page) (n : Nat) : State :=
  if !p.mlog || !s.feat.getLsbD 1 then s
  else
    (List.range ((p.pa + n + 4095) / 4096 - p.pa / 4096)).foldl (fun s i =>
      match bitmapPlace ((p.pa / 4096 + i) * 4096) with
      | none => s
      | some (a, b) =>
        let old := s.byteAt s.key0 a
        if old.getLsbD b then s
        else
          let owner := ((tfind s.keys p.key).map KeyRec.owner).getD 0
          (s.count owner ((dieOfPA p.pa).getD 0) 0x0F 1).storeBytes s.key0 a [old ||| BitVec.ofNat 8 (2 ^ b)]) s

end Sys2Proof.Machine
end

