-- ==== Sys2Proof/Machine/Flags.lean ====
section
/-! DEFINITION. Which flags an element operation raises, and the draws of the stochastic generator (R22, R141). -/

namespace Sys2Proof.Machine

/-- Runs an element operation over the elements of a destination, in ascending index (R11): `f i draw` gives the pattern
and the flags.  Only elements of active lanes are computed, raise flags and draw (R140, R141). -/
def elemLoop (w : Nat) (stoc : Bool) (m : Word) (f : Nat → Nat → Nat × Flags) :
    Nat → Nat → Word → Nat → Flags → Nat × Flags × Word
  | 0, _, gen, acc, fl => (acc, fl, gen)
  | fuel + 1, i, gen, acc, fl =>
    if m.getLsbD (i * w / 32) then
      let gen' := if stoc then lfsrStep gen else gen
      let (x, e) := f i (lfsrDraw gen')
      elemLoop w stoc m f fuel (i + 1) gen' (acc + x % 2 ^ w * 2 ^ (w * i)) (fl ||| e)
    else elemLoop w stoc m f fuel (i + 1) gen acc fl

/-- All elements of a 2,048-bit destination: the vector, the flags and the generator afterwards. -/
def elems (w : Nat) (stoc : Bool) (m : Word) (gen : Word) (f : Nat → Nat → Nat × Flags) : Vec × Flags × Word :=
  let (x, fl, g) := elemLoop w stoc m f (2048 / w) 0 gen 0 0
  (BitVec.ofNat 2048 x, fl, g)

/-- The generator of the context in focus (R22). -/
def State.setGen (s : State) (g : Word) : State :=
  s.updCtx fun c => { c with csr := { c.csr with rseed := g } }

/-- The six sticky bits of one slot's byte of FPSTAT (R88). -/
def fpByte (fpstat : BitVec 48) (slot : Nat) : Nat := bitsOf fpstat.toNat (8 * slot + 7) (8 * slot)

end Sys2Proof.Machine
end

