-- ==== Sys2Proof/Machine/Trans.lean ====
section
/-! DEFINITION. Correctly rounded irrational functions: enclosures by integers at a growing precision, rounded when
both ends of an enclosure round alike (R35, R40, R146). -/

namespace Sys2Proof.Machine

/-- An enclosure of a real: `lo / 2^w ≤ value ≤ hi / 2^w`. -/
structure Encl where
  lo : Int
  hi : Int
  w : Nat
  deriving DecidableEq, Repr

/-- Slack of every fixed-point approximation below at scale 2^w: each sum has at most w + 256 terms, each floored a few times,
so that its error stays below this many units in the last place at every w. -/
def slack (w : Nat) : Int := (2 ^ 20 + 64 * w : Nat)

def enclOf (a : Int) (w : Nat) : Encl := ⟨a - slack w, a + slack w, w⟩

/-- Σ of a geometric-like series: `acc + t0 + t1 + …`, with `t(k+1) = next k t(k)`, until the fuel ends. -/
def fxSum (next : Nat → Int → Int) : Nat → Nat → Int → Int → Int
  | 0, _, _, acc => acc
  | fuel + 1, k, t, acc => if t = 0 then acc else fxSum next fuel (k + 1) (next k t) (acc + t)

/-- `2^w · atanh(1/n)`, and `2^w · atan(1/n)`: Σ (±1)^k / ((2k+1) n^(2k+1)). -/
def fxAtInv (alt : Bool) (n w : Nat) : Int :=
  go w 0 ((2 ^ w / n : Nat) : Int) 0
where
  go : Nat → Nat → Int → Int → Int
    | 0, _, _, acc => acc
    | fuel + 1, k, t, acc =>
      if t = 0 then acc
      else
        let term := t / (2 * k + 1 : Nat)
        go fuel (k + 1) (t / ((n * n : Nat) : Int)) (if alt && k % 2 == 1 then acc - term else acc + term)

/-- `2^w · ln 2` = 2 atanh(1/3). -/
def fxLn2 (w : Nat) : Int := 2 * fxAtInv false 3 w
/-- `2^w · π` = 16 atan(1/5) − 4 atan(1/239). -/
def fxPi (w : Nat) : Int := 16 * fxAtInv true 5 w - 4 * fxAtInv true 239 w

/-- `2^w · exp(y/2^w)` for 0 ≤ y ≤ 2^w. -/
def fxExp (w : Nat) (y : Int) : Int :=
  fxSum (fun k t => t * y / (2 ^ w : Nat) / (k + 1 : Nat)) (w + 64) 0 (2 ^ w) 0

/-- `2^w · atanh(z/2^w)` for |z| ≤ 2^w/3. -/
def fxAtanh (w : Nat) (z : Int) : Int :=
  go (w + 8) 0 z 0
where
  go : Nat → Nat → Int → Int → Int
    | 0, _, _, acc => acc
    | fuel + 1, k, t, acc =>
      if t = 0 then acc
      else go fuel (k + 1) (t * z / (2 ^ w : Nat) * z / (2 ^ w : Nat)) (acc + t / (2 * k + 1 : Nat))

/-- `2^w · sin` and `2^w · cos` of y/2^w, 0 ≤ y ≤ 2·2^w. -/
def fxSinCos (w : Nat) (y : Int) : Int × Int :=
  let sq := y * y / (2 ^ w : Nat)
  let s := fxSum (fun k t => -(t * sq / (2 ^ w : Nat) / ((2 * k + 2) * (2 * k + 3) : Nat))) (w + 64) 0 y 0
  let c := fxSum (fun k t => -(t * sq / (2 ^ w : Nat) / ((2 * k + 1) * (2 * k + 2) : Nat))) (w + 64) 0 (2 ^ w) 0
  (s, c)

/-- A dyadic value `±m·2^e` at scale 2^w, floored. -/
def fxOf (w : Nat) (neg : Bool) (m : Nat) (e : Int) : Int :=
  let q := e + w
  let a : Int := (m * 2 ^ q.toNat / 2 ^ (-q).toNat : Nat)
  if neg then -a else a

/-- 2^x for x = y/2^w: the mantissa approximation at scale 2^w (in [1, 2]) and the exponent. -/
def fxExp2 (w : Nat) (y : Int) : Int × Int :=
  let n := y / (2 ^ w : Nat)
  let f := y - n * (2 ^ w : Nat)
  (fxExp w (f * fxLn2 w / (2 ^ w : Nat)), n)

/-- An approximation `a` at scale 2^w, times 2^n, as an enclosure. -/
def enclShift (a : Int) (w : Nat) (n : Int) : Encl :=
  let lo := a - slack w
  let hi := a + slack w
  if n ≥ 0 then ⟨lo * 2 ^ n.toNat, hi * 2 ^ n.toNat, w⟩ else ⟨lo, hi, w + (-n).toNat⟩

/-- `2^w · ln(n/d)` for n, d > 0: k·ln 2 + 2·atanh((y−1)/(y+1)), y in [1, 2). -/
def fxLn (w n d : Nat) : Int :=
  let k := floorLog2 n d
  let y : Int := (n * 2 ^ (w + (-k).toNat) / (d * 2 ^ k.toNat) : Nat)
  let one : Int := (2 ^ w : Nat)
  let z := (y - one) * one / (y + one)
  k * fxLn2 w + 2 * fxAtanh w z

/-- `2^w · log2(n/d)`, with n/d normalised so that only the fraction is divided. -/
def fxLog2 (w n d : Nat) : Int :=
  let k := floorLog2 n d
  let y : Int := (n * 2 ^ (w + (-k).toNat) / (d * 2 ^ k.toNat) : Nat)
  let one : Int := (2 ^ w : Nat)
  let z := (y - one) * one / (y + one)
  k * one + 2 * fxAtanh w z * one / fxLn2 w

/-- The rounding of one end of an enclosure. -/
def encEnd (f : Fmt) (mode : RMode) (r : Nat) (a : Int) (w : Nat) : Nat × Flags :=
  encodeFmt f mode .none r (.fin (decide (a < 0)) a.natAbs (-(w : Int)))

/-- Rounds an irrational value given by enclosures at growing precision, until both ends round alike; NX always, as it is
never representable.  The precision doubles up to 96·2^64 bits.  For `q·2^(n/2^24)` (R40) that is no bound: its 2^24-th power is
rational with a numerator and denominator of fewer than 2^34 bits, so that it lies at least 2^(−2^35) from every rounding
boundary, and fewer than 30 doublings decide. -/
def roundEncl (f : Fmt) (mode : RMode) (r : Nat) (g : Nat → Encl) : Nat × Flags :=
  go 64 96
where
  go : Nat → Nat → Nat × Flags
    | 0, p => let e := g p; let x := encEnd f mode r e.lo e.w; (x.1, x.2 ||| fNX)
    | fuel + 1, p =>
      let e := g p
      let x := encEnd f mode r e.lo e.w
      let y := encEnd f mode r e.hi e.w
      if x.1 = y.1 ∧ x.2 ||| fNX = y.2 ||| fNX ∧ (decide (e.lo < 0) == decide (e.hi < 0)) then (x.1, x.2 ||| fNX)
      else go fuel (2 * p)

/-- The VSF functions (R70, R146). -/
inductive SpecFn where
  | exp2 | log2 | rcp | rsqrt | sin | cos | tanh | sigmoid | erf
  deriving DecidableEq, Repr

def specFnOf (c : Nat) : Option SpecFn :=
  match c with
  | 0 => some .exp2 | 1 => some .log2 | 2 => some .rcp | 3 => some .rsqrt | 4 => some .sin | 5 => some .cos
  | 6 => some .tanh | 7 => some .sigmoid | 8 => some .erf | _ => none

/-- Whether the magnitude m·2^e is at least the integer b. -/
def magGe (m : Nat) (e : Int) (b : Nat) : Bool := decide (dyNum m e ≥ b * dyDen e)

/-- exp(−y) for y = |x| clipped at `cap`, an approximation at scale 2^w times 2^n. -/
def fxExpNeg (w : Nat) (m : Nat) (e : Int) (cap : Nat) : Int × Int :=
  let y : Int := if magGe m e cap then (cap * 2 ^ w : Nat) else fxOf w false m e
  fxExp2 w (-(y * (2 ^ w : Nat) / fxLn2 w))

/-- Enclosures of the irrational values of R146, for a nonzero finite argument ±m·2^e. -/
def specEncl (fn : SpecFn) (neg : Bool) (m : Nat) (e : Int) (p : Nat) : Encl :=
  let w := p + 64
  let one : Int := (2 ^ w : Nat)
  let sg (x : Encl) : Encl := if neg then ⟨-x.hi, -x.lo, x.w⟩ else x
  match fn with
  | .exp2 =>
    -- beyond ±2^12 the result overflows or rounds to zero whatever the argument
    let y := if magGe m e 4096 then (if neg then -(4096 * one) else 4096 * one) else fxOf w neg m e
    let (a, n) := fxExp2 w y
    enclShift a w n
  | .log2 => enclOf (fxLog2 w (dyNum m e) (dyDen e)) w
  | .rcp => let a : Int := (2 ^ w * dyDen e / dyNum m e : Nat); sg ⟨a, a + 1, w⟩
  | .rsqrt =>
    -- floor of 2^w / sqrt(n/d), with w enlarged by the argument's own size
    let w' := w + e.natAbs + Nat.log2 m
    let a : Int := (Nat.sqrt (2 ^ (2 * w') * dyDen e / dyNum m e) : Nat)
    ⟨a, a + 1, w'⟩
  | .sin | .cos =>
    let wide := w + 64 + e.natAbs + Nat.log2 m
    let y := fxOf wide false m e
    let half := fxPi wide / 2
    let k := y / half
    let rr := (y - k * half) / (2 ^ (wide - w) : Nat)
    let (s, c) := fxSinCos w rr
    let q := (k % 4).toNat
    let v := if fn = .sin then
        (match q with | 0 => s | 1 => c | 2 => -s | _ => -c)
      else (match q with | 0 => c | 1 => -s | 2 => -c | _ => s)
    if fn = .sin then sg (enclOf v w) else enclOf v w
  | .tanh =>
    -- (1 − t)/(1 + t), t = exp(−2|x|); beyond 2|x| = 2^10 the result is the same
    let (a, n) := fxExpNeg w m (e + 1) 1024
    let t := a * 2 ^ n.toNat / (2 ^ (-n).toNat : Nat)
    sg (enclOf ((one - t) * one / (one + t)) w)
  | .sigmoid =>
    let (a, n) := fxExpNeg w m e 1024
    let t := a * 2 ^ n.toNat / (2 ^ (-n).toNat : Nat)
    if neg then
      -- t/(1 + t), kept relative to t's own exponent
      enclShift (a * one / (one + t)) w n
    else enclOf (one * one / (one + t)) w
  | .erf =>
    -- 2/√π Σ (−1)^k x^(2k+1) / (k! (2k+1)), 96 guard bits for |x| ≤ 6; beyond 6 the result is the same
    let w2 := w + 96
    let one2 : Int := (2 ^ w2 : Nat)
    let x := if magGe m e 6 then 6 * one2 else fxOf w2 false m e
    let sq := x * x / one2
    let rec go : Nat → Nat → Int → Int → Int
      | 0, _, _, acc => acc
      | fuel + 1, k, t, acc =>
        if t = 0 then acc else go fuel (k + 1) (-(t * sq / one2 / (k + 1 : Nat))) (acc + t / (2 * k + 1 : Nat))
    let s := go (w2 + 256) 0 x 0
    let rt : Int := (Nat.sqrt ((fxPi w2).toNat * 2 ^ w2) : Nat)
    let v := 2 * s * one2 / rt
    sg (enclOf (v / (2 ^ 96 : Nat)) w)

/-- Whether `m·2^e` is a power of two. -/
def isPow2 (m : Nat) : Bool := decide (m = 2 ^ Nat.log2 m)

/-- One VSF element (R146): the exact function value rounded to nearest even, with the special cases of its table. -/
def specFn (fn : SpecFn) (f : Fmt) (v : XVal) : Nat × Flags :=
  let nan : Nat := f.canonNaN
  let put (v : XVal) : Nat := (encodeFmt f .rne .none 0 v).1
  let one : XVal := .fin false 1 0
  match v with
  | .nan => (nan, 0)
  | .inf s =>
    match fn with
    | .exp2 => (if s then put XVal.zero else packInf f false, 0)
    | .log2 => if s then (nan, fIV) else (packInf f false, 0)
    | .rcp => (put (.fin s 0 0), 0)
    | .rsqrt => if s then (nan, fIV) else (put XVal.zero, 0)
    | .sin | .cos => (nan, fIV)
    | .tanh | .erf => (put (.fin s 1 0), 0)
    | .sigmoid => (if s then put XVal.zero else put one, 0)
  | .fin s m e =>
    if m = 0 then
      match fn with
      | .exp2 | .cos => (put one, 0)
      | .log2 => (packInf f true, fZD)
      | .rcp | .rsqrt => (packInf f s, fZD)
      | .sin | .tanh | .erf => (put (.fin s 0 0), 0)
      | .sigmoid => (put (.fin false 1 (-1)), 0)
    else
      match fn with
      | .exp2 =>
        -- exact for an integer argument
        if dyNum m e % dyDen e = 0 ∧ !magGe m e 4096 then
          let n : Int := (dyNum m e / dyDen e : Nat)
          encodeFmt f .rne .none 0 (.fin false 1 (if s then -n else n))
        else roundEncl f .rne 0 (specEncl fn s m e)
      | .log2 =>
        if s then (nan, fIV)
        else if isPow2 m then encodeFmt f .rne .none 0 (XVal.ofInt ((Nat.log2 m : Int) + e))
        else roundEncl f .rne 0 (specEncl fn s m e)
      | .rcp => encodeFloatRat f s (dyDen e) (dyNum m e)
      | .rsqrt =>
        if s then (nan, fIV)
        else
          let k : Int := (Nat.log2 m : Int) + e
          if isPow2 m ∧ k % 2 = 0 then encodeFmt f .rne .none 0 (.fin false 1 (-(k / 2)))
          else roundEncl f .rne 0 (specEncl fn s m e)
      | _ => roundEncl f .rne 0 (specEncl fn s m e)
where
  /-- A rational magnitude, rounded to nearest even. -/
  encodeFloatRat (f : Fmt) (s : Bool) (n d : Nat) : Nat × Flags := encFloat f .rne .none 0 s n d

end Sys2Proof.Machine
end

