-- ==== Sys2Proof/Machine/Vector.lean ====
section
/-! DEFINITION. Vector arithmetic, special functions, logic, shifts, compare, select, move, element and lane-slice access,
pair dot product and the scalar-on-lane forms of the A and B slots (R139 to R146, R151 to R153, R159 to R163). -/

namespace Sys2Proof.Machine

/-- The resolved type code: TYPE 0x0 selects SHAPE.ETYPE (R139). -/
def Ctx.typ (c : Ctx) (t : Nat) : Nat := if t = 0 then bitsOf c.csr.shape.toNat 13 10 else t
/-- The format of a resolved code. -/
def fmtN (c : Nat) : Fmt := (fmtOfCode c).getD .raw

/-- ILL with reason 0x05 at a part (R73, R139). -/
def illTrap (s : State) (part reason : Nat) : Trap :=
  ⟨part, 0x01, reason, BitVec.ofNat 64 (s.cur.addr.toNat / 64 * 64 + part)⟩

/-- ILL when a resolved type is not accepted (R139), whatever the guard (log entry 10). -/
def illUnless (s : State) (part : Nat) (ok : Bool) : Option Trap := if ok then none else some (illTrap s part 0x05)

/-- The effective mode of R143: RM when ER is set, else RMODE. -/
def Ctx.effMode (c : Ctx) (md : BitVec 10) : RMode :=
  rmodeOf (if md.getLsbD 8 then bitsOf md.toNat 7 5 else c.csr.rmode.toNat)

/-- Sources of the vector role, from the selectors an operation uses. -/
def vsrcs (l : List Sel) : List (SKind × Sel) := l.map fun x => (.v, x)

/-- The integer result of R145: wrapped, or saturated with OF. -/
def intResult (w : Nat) (sat : Bool) (v : Int) : Nat × Flags :=
  let lo : Int := -(2 ^ (w - 1))
  let hi : Int := 2 ^ (w - 1) - 1
  if sat then
    let y := Max.max lo (Min.min hi v)
    (toTwos w y, if y ≠ v then fOF else 0)
  else (toTwos w v, 0)

/-- The shared form of R143 to R145: the sources used, the exact floating-point value, the exact integer. -/
def vArith (u : VUnit) (op : ROp) (s : State) (arity : Nat)
    (f : Bool → XVal → XVal → XVal → XVal × Flags) (g : Int → Int → Int → Int) : Out :=
  let part := partOf u
  let c := s.ctx
  let m := c.lanes op.pred op.pn
  let active := m != 0
  let ty := c.typ (bitsOf op.md.toNat 3 0)
  let fm := fmtN ty
  let w := fm.width
  let isInt := ty == 7 || ty == 8
  let okType := ty == 1 || ty == 2 || ty == 3 || isInt
  let okMod := if isInt then !(op.md.getLsbD 8) else !(op.md.getLsbD 9)
  s.sources part (vsrcs ([op.xa, op.xb, op.xc].take arity)) (illUnless s part (okType && okMod)) fun c =>
    let a := c.srcE s.cur fm op.xa
    let b := c.srcE s.cur fm op.xb
    let d := c.srcE s.cur fm op.xc
    if isInt then
      let (x, fl, _) := elems w false m c.csr.rseed fun i _ =>
        intResult w (op.md.getLsbD 9) (g (sextN w (velem w a i)) (sextN w (velem w b i)) (sextN w (velem w d i)))
      s.putV part 2 m op.nw op.dst.toNat x fl
    else
      let mode := c.effMode op.md
      let (x, fl, gen) := elems w (decide (mode = .stoc)) m c.csr.rseed fun i r =>
        let (v, e) := f (decide (mode = .rdn)) (decodeFmt fm (velem w a i)).1 (decodeFmt fm (velem w b i)).1
          (decodeFmt fm (velem w d i)).1
        let (y, e2) := encodeFmt fm mode .none r v
        (y, e ||| e2)
      (s.setGen gen).putV part 4 m op.nw op.dst.toNat x fl

/-- a × b + c with the flags of both steps (R144). -/
def fma (rdn : Bool) (a b c : XVal) : XVal × Flags :=
  let (p, e) := a.mul b
  let (v, e2) := p.add rdn c
  (v, e ||| e2)

def execVadd (u : VUnit) (op : ROp) (s : State) : Out :=
  vArith u op s 2 (fun rdn a b _ => a.add rdn b) (fun a b _ => a + b)
def execVsub (u : VUnit) (op : ROp) (s : State) : Out :=
  vArith u op s 2 (fun rdn a b _ => a.add rdn b.neg) (fun a b _ => a - b)
def execVmul (u : VUnit) (op : ROp) (s : State) : Out :=
  vArith u op s 2 (fun _ a b _ => a.mul b) (fun a b _ => a * b)
def execVfma (u : VUnit) (op : ROp) (s : State) : Out :=
  vArith u op s 3 (fun rdn a b c => fma rdn a b c) (fun a b c => a * b + c)
def execVfms (u : VUnit) (op : ROp) (s : State) : Out :=
  vArith u op s 3 (fun rdn a b c => fma rdn a b c.neg) (fun a b c => a * b - c)
def execVnfma (u : VUnit) (op : ROp) (s : State) : Out :=
  vArith u op s 3 (fun rdn a b c => fma rdn a.neg b c) (fun a b c => c - a * b)
def execVmin (u : VUnit) (op : ROp) (s : State) : Out :=
  vArith u op s 2 (fun _ a b _ => (a.min b, 0)) (fun a b _ => Min.min a b)
def execVmax (u : VUnit) (op : ROp) (s : State) : Out :=
  vArith u op s 2 (fun _ a b _ => (a.max b, 0)) (fun a b _ => Max.max a b)
def execVabs (u : VUnit) (op : ROp) (s : State) : Out :=
  vArith u op s 1 (fun _ a _ _ => (a.abs, 0)) (fun a _ _ => (a.natAbs : Int))
def execVneg (u : VUnit) (op : ROp) (s : State) : Out :=
  vArith u op s 1 (fun _ a _ _ => (a.neg, 0)) (fun a _ _ => -a)

/-- VSF (R146): latency 8, RMODE ignored. -/
def execVsf (u : VUnit) (op : ROp) (s : State) : Out :=
  let part := partOf u
  let c := s.ctx
  let m := c.lanes op.pred op.pn
  let ty := c.typ (bitsOf op.md.toNat 7 4)
  let fm := fmtN ty
  let fn := (specFnOf (bitsOf op.md.toNat 3 0)).getD .exp2
  s.sources part (vsrcs [op.xa]) (illUnless s part (ty == 1 || ty == 2 || ty == 3)) fun c =>
    let a := c.srcE s.cur fm op.xa
    let (x, fl, _) := elems fm.width false m 0 fun i _ => specFn fn fm (decodeFmt fm (velem fm.width a i)).1
    s.putV part 8 m op.nw op.dst.toNat x fl

/-! Logic and shifts (R151). -/

def vLogic (u : VUnit) (op : ROp) (s : State) (two : Bool) (f : Vec → Vec → Vec) : Out :=
  let part := partOf u
  let m := s.ctx.lanes op.pred op.pn
  s.sources part (vsrcs (if two then [op.xa, op.xb] else [op.xa])) none fun c =>
    s.putV part 2 m op.nw op.dst.toNat (f (c.srcV s.cur op.xa) (c.srcV s.cur op.xb)) 0

def execVand (u : VUnit) (op : ROp) (s : State) : Out := vLogic u op s true fun a b => a &&& b
def execVor (u : VUnit) (op : ROp) (s : State) : Out := vLogic u op s true fun a b => a ||| b
def execVxor (u : VUnit) (op : ROp) (s : State) : Out := vLogic u op s true fun a b => a ^^^ b
def execVnot (u : VUnit) (op : ROp) (s : State) : Out := vLogic u op s false fun a _ => ~~~ a

/-- The shifts of R151: `f w x n` shifts a pattern of width w by n. -/
def vShift (u : VUnit) (op : ROp) (s : State) (f : Nat → Nat → Nat → Nat) : Out :=
  let part := partOf u
  let c := s.ctx
  let m := c.lanes op.pred op.pn
  let ty := c.typ (bitsOf op.md.toNat 3 0)
  let fm := fmtN ty
  let w := fm.width
  s.sources part (vsrcs [op.xa, op.xb]) (illUnless s part (ty == 7 || ty == 8)) fun c =>
    let a := c.srcE s.cur fm op.xa
    let b := c.srcE s.cur fm op.xb
    s.putV part 2 m op.nw op.dst.toNat (vbuild w fun i => f w (velem w a i) (velem w b i % w)) 0

def execVshl (u : VUnit) (op : ROp) (s : State) : Out := vShift u op s fun _ x n => x * 2 ^ n
def execVshr (u : VUnit) (op : ROp) (s : State) : Out := vShift u op s fun _ x n => x / 2 ^ n
def execVsra (u : VUnit) (op : ROp) (s : State) : Out := vShift u op s fun w x n => toTwos w (sextN w x / 2 ^ n)

/-! Compare, select and move (R152, R153). -/

/-- The conditions of R152. -/
def condV (fm : Fmt) (cc : Nat) (a b : Nat) : Bool :=
  if fm.isInt then
    let x := sextN fm.width a
    let y := sextN fm.width b
    match cc with
    | 0 => x == y
    | 1 => x != y
    | 2 => decide (x < y)
    | 3 => decide (x ≤ y)
    | 4 => decide (a < b)
    | _ => decide (a ≤ b)
  else
    match XVal.cmp (decodeFmt fm a).1 (decodeFmt fm b).1, cc with
    | none, 0 => false
    | none, 1 => true
    | none, 2 => false
    | none, 3 => false
    | none, _ => true
    | some o, 0 => o == .eq
    | some o, 1 => o != .eq
    | some o, 2 => o == .lt
    | some o, 3 => o != .gt
    | some o, 4 => o == .lt
    | some o, _ => o != .gt

/-- A 64-bit mask from a predicate on lanes. -/
def laneMask (f : Nat → Bool) : Word := BitVec.ofNat 64 (packElems 1 (fun k => if f k then 1 else 0) 64)

/-- VCMP (R152). -/
def execVcmp (u : VUnit) (op : ROp) (s : State) : Out :=
  let part := partOf u
  let c := s.ctx
  let m := c.lanes op.pred op.pn
  let ty := c.typ (bitsOf op.md.toNat 9 6)
  let fm := fmtN ty
  let w := fm.width
  let e := bitsOf op.md.toNat 5 4
  let ok := ty != 6 && ty != 9 && decide (e < 32 / w)
  s.sources part (vsrcs [op.xa, op.xb]) (illUnless s part ok) fun c =>
    let a := c.srcE s.cur fm op.xa
    let b := c.srcE s.cur fm op.xb
    s.putP part 2 m op.nw op.dst.toNat (laneMask fun k =>
      condV fm (bitsOf op.md.toNat 2 0) (velem w a (k * (32 / w) + e)) (velem w b (k * (32 / w) + e)))

/-- VSEL (R153). -/
def execVsel (u : VUnit) (op : ROp) (s : State) : Out :=
  let part := partOf u
  let m := s.ctx.lanes op.pred op.pn
  s.sources part (vsrcs [op.xa, op.xb] ++ [(.p, op.xc)]) none fun c =>
    s.putV part 2 m op.nw op.dst.toNat
      (mergeLanes (c.pGet (selNum op.xc)) (c.srcV s.cur op.xb) (c.srcV s.cur op.xa)) 0

/-- VMOV (R153). -/
def execVmov (u : VUnit) (op : ROp) (s : State) : Out := vLogic u op s false fun a _ => a

/-- VBCAST (R153). -/
def execVbcast (u : VUnit) (op : ROp) (s : State) : Out :=
  let part := partOf u
  let c := s.ctx
  let m := c.lanes op.pred op.pn
  let w := (fmtN (c.typ (bitsOf op.md.toNat 3 0))).width
  s.sources part [(.s, op.xa)] none fun c =>
    let a := (c.srcS s.cur op.xa).toNat
    s.putV part 2 m op.nw op.dst.toNat (vbuild w fun _ => a) 0

/-- VIOTA (R153). -/
def execViota (u : VUnit) (op : ROp) (s : State) : Out :=
  let part := partOf u
  let c := s.ctx
  let m := c.lanes op.pred op.pn
  let ty := c.typ (bitsOf op.md.toNat 3 0)
  let w := (fmtN ty).width
  s.sources part [(.s, op.xa)] (illUnless s part (ty == 7 || ty == 8)) fun c =>
    let a := (c.srcS s.cur op.xa).toNat
    s.putV part 2 m op.nw op.dst.toNat (vbuild w fun i => a + i) 0

/-- VDOT2 (R159): c + a0·b0 + a1·b1 with one rounding; special values as R28.  DESIGN CHOICE (log entry 192): the sign of an exact zero sum. -/
def dot2 (rdn : Bool) (a0 b0 a1 b1 c : XVal) : XVal × Flags :=
  let (p, e1) := a0.mul b0
  let (q, e2) := a1.mul b1
  let (t, e3) := p.add rdn q
  let (v, e4) := c.add rdn t
  -- opposite infinities set IV even where a NaN also enters
  let infs := [p, q, c].filter fun x => match x with | .inf _ => true | _ => false
  let clash := infs.any (fun x => x.isNeg) && infs.any (fun x => !x.isNeg)
  (v, e1 ||| e2 ||| e3 ||| e4 ||| (if clash then fIV else 0))

def execVdot2 (u : VUnit) (op : ROp) (s : State) : Out :=
  let part := partOf u
  let m := s.ctx.lanes op.pred op.pn
  s.sources part (vsrcs [op.xa, op.xb, op.xc]) none fun c =>
    let a := c.srcE s.cur .bf16 op.xa
    let b := c.srcE s.cur .bf16 op.xb
    let d := c.srcE s.cur .f32 op.xc
    let mode := c.effMode op.md
    let bf (x : Vec) (i : Nat) : XVal := (decodeFmt .bf16 (velem 16 x i)).1
    let (x, fl, gen) := elems 32 (decide (mode = .stoc)) m c.csr.rseed fun k r =>
      let (v, e) := dot2 (decide (mode = .rdn)) (bf a (2 * k)) (bf b (2 * k)) (bf a (2 * k + 1)) (bf b (2 * k + 1))
        (decodeFmt .f32 (vlane d k)).1
      let (y, e2) := encodeFmt .f32 mode .none r v
      (y, e ||| e2)
    (s.setGen gen).putV part 4 m op.nw op.dst.toNat x fl

/-! Element and lane-slice access (R160 to R162). -/

/-- VEXT (R160): the source in an element role of TYPE (R59); reading the reserved INT4 code gives 0 with RC (R16). -/
def execVext (u : VUnit) (op : ROp) (s : State) : Out :=
  let part := partOf u
  let c := s.ctx
  let g := c.guard op.pred op.pn
  let fm := fmtN (c.typ (bitsOf op.md.toNat 3 0))
  let w := fm.width
  s.sources part [(.v, op.xa), (.s, op.xb)] none fun c =>
    let i := (c.srcS s.cur op.xb).toNat
    let e := velem w (c.srcE s.cur fm op.xa) i
    let rsvd := fm == .i4 && e == 8 && decide (i < 2048 / w)
    let x : Word :=
      if i ≥ 2048 / w || rsvd then 0 else if fm.isInt then BitVec.ofInt 64 (sextN w e) else BitVec.ofNat 64 e
    s.putS part 2 g op.nw op.dst.toNat x (if rsvd then fRC else 0)

/-- VINS (R160): the vector source in an element role of TYPE (R59). -/
def execVins (u : VUnit) (op : ROp) (s : State) : Out :=
  let part := partOf u
  let c := s.ctx
  let m := c.lanes op.pred op.pn
  let fm := fmtN (c.typ (bitsOf op.md.toNat 3 0))
  let w := fm.width
  s.sources part [(.v, op.xa), (.s, op.xb), (.s, op.xc)] none fun c =>
    let a := c.srcE s.cur fm op.xa
    let i := (c.srcS s.cur op.xc).toNat
    let b := (c.srcS s.cur op.xb).toNat
    s.putV part 2 m op.nw op.dst.toNat (vbuild w fun j => if j = i then b else velem w a j) 0

/-- A lane's slice access: the address, and the bounds subcode when it fails (R161). -/
def sliceAddr (x y : Vec) (k : Nat) : Nat := (vlane x k + vlane y k) % 2 ^ 32
def sliceFault (a n : Nat) : Option Nat :=
  if a + n > 0x400 then some 0x03 else if a % n ≠ 0 then some 0x02 else none

/-- The trap of the lowest active lane that fails (R161). -/
def sliceTrap (part : Nat) (m : Word) (x y : Vec) (n : Nat) : Option Trap :=
  (List.range 64).findSome? fun k =>
    if m.getLsbD k then
      (sliceFault (sliceAddr x y k) n).map fun sub =>
        (⟨part, 0x07, sub, BitVec.ofNat 64 (sliceAddr x y k)⟩ : Trap)
    else none

/-- Bytes of SZ: 1, 2 or 4 (R161). -/
def szBytes (sz : Nat) : Nat := 2 ^ sz

/-- Whether any 8-byte unit of a range is poisoned (R220). -/
def State.isPoisoned (s : State) (a n : Nat) : Bool := s.poison.any fun u => decide (u * 8 < a + n) && decide (a < u * 8 + 8)

/-- VLDS (R161): reads the slice as it stands before the bundle (R162); latency 2. -/
def execVlds (u : VUnit) (op : ROp) (s : State) : Out :=
  let part := partOf u
  let c := s.ctx
  let m := c.lanes op.pred op.pn
  let n := szBytes (bitsOf op.md.toNat 1 0)
  let x := c.srcV s.cur op.xa
  let y := c.srcV s.cur op.xb
  s.sources part (vsrcs [op.xa, op.xb]) (sliceTrap part m x y n) fun c =>
    let place (k : Nat) : Nat := lsBase s.cur.core k + sliceAddr x y k
    let v := vbuild 32 fun k =>
      let b := memRead s.mem (place k) n
      if m.getLsbD k then (if op.md.getLsbD 2 then toTwos 32 (sextN (8 * n) b) else b) else 0
    let bad := (List.range 64).any fun k => m.getLsbD k && s.isPoisoned (place k) n
    s.post (part - 1) 2 (if op.nw then [] else [.v (c.vPhys op.dst.toNat) m v]) (some (.vector (maskVec m v))) 0 bad

/-- VSTS (R161): the bytes are written when the bundle has issued, B's after A's (R162). -/
def execVsts (u : VUnit) (op : ROp) (s : State) : Out :=
  let part := partOf u
  let c := s.ctx
  let m := c.lanes op.pred op.pn
  let n := szBytes (bitsOf op.md.toNat 1 0)
  let x := c.srcV s.cur op.xb
  let y := c.srcV s.cur op.xc
  let own := sliceTrap part m x y n
  s.sources (free := if c.missing s.cur [op.xb, op.xc] then none else own) part (vsrcs [op.xa, op.xb, op.xc]) own fun c =>
    let a := c.srcV s.cur op.xa
    let bytes := (List.range 64).flatMap fun k =>
      if m.getLsbD k then
        (toBytes (vlane a k) n).zipIdx.map fun (b, j) => (lsBase s.cur.core k + sliceAddr x y k + j, b)
      else []
    s.updCur fun c => { c with lsW := c.lsW ++ bytes }

/-! Scalar-on-lane forms (R163): latency 2, no flag. -/

def laneScalar (u : VUnit) (op : ROp) (s : State) (f : Word → Word → Word) : Out :=
  let part := partOf u
  let g := s.ctx.guard op.pred op.pn
  s.sources part [(.s, op.xa), (.s, op.xb)] none fun c =>
    s.putS part 2 g op.nw op.dst.toNat (f (c.srcS s.cur op.xa) (c.srcS s.cur op.xb)) 0

def execSadd (u : VUnit) (op : ROp) (s : State) : Out := laneScalar u op s fun a b => a + b
def execSsub (u : VUnit) (op : ROp) (s : State) : Out := laneScalar u op s fun a b => a - b
def execSmul (u : VUnit) (op : ROp) (s : State) : Out := laneScalar u op s fun a b => a * b
def execSmin (u : VUnit) (op : ROp) (s : State) : Out :=
  laneScalar u op s fun a b => if b.slt a then b else a
def execSmax (u : VUnit) (op : ROp) (s : State) : Out :=
  laneScalar u op s fun a b => if a.slt b then b else a
def execSand (u : VUnit) (op : ROp) (s : State) : Out := laneScalar u op s fun a b => a &&& b
def execSor (u : VUnit) (op : ROp) (s : State) : Out := laneScalar u op s fun a b => a ||| b
def execSxor (u : VUnit) (op : ROp) (s : State) : Out := laneScalar u op s fun a b => a ^^^ b

end Sys2Proof.Machine
end

