-- ==== Sys2Proof/Machine/Access.lean ====
section
/-! DEFINITION. Where an L, T or M access lies (R170 to R172, R206 to R208, R233, R319), its watchpoints (R343), its race
check (R243, R244, R320), and the bytes it moves (R19, R20, R171, R300). -/

namespace Sys2Proof.Machine

/-! Places. -/

/-- Global cluster and die of a core, numbered as CTXID does (R87). -/
def clusterOf (core : Nat) : Nat := core / 8
def dieOf (core : Nat) : Nat := core / 64

/-- The task of a context. -/
def Ctx.tk (c : Ctx) : Task := c.task.getD Task.zero

/-- A device register (R326, R361). -/
def State.reg (s : State) (a : Nat) : Word := tget 0 s.regs a
def State.setReg (s : State) (a : Nat) (x : Word) : State := { s with regs := tset s.regs a x }

/-- The debug block of a core in its die's control block (R326, R342). -/
def dbgBase (core : Nat) : Nat := ctlBase (dieOf core) + 0x1000 + 0x100 * (core % 64)

/-- Who translates for a context: ASID 0 and the supervisor's table in supervisor mode (R217, R322). -/
def State.xctxOf (s : State) (c : Ctx) : XCtx :=
  if c.csr.sup then ⟨0, true, 0, s.supRoot⟩
  else ⟨c.tk.asid, false, c.tk.tenant, ((tfind s.jobs c.tk.job).map Job.root).getD 0⟩

/-- PERM of a context's job; supervisor mode has every bit (R359). -/
def State.permBit (s : State) (c : Ctx) (i : Nat) : Bool :=
  c.csr.sup || (((tfind s.jobs c.tk.job).map Job.perm).getD 0).getLsbD i

/-- Base and size of a window (R206, R233, R319); the supervisor sees the whole store. -/
def State.window (s : State) (core : Nat) (c : Ctx) : Space → Nat × Nat
  | .sp => (spBase core + (if c.csr.sup then 0 else c.tk.spBase), 0x60000)
  | .cl => if c.csr.sup then (clBase (clusterOf core), 2 ^ 22) else (clBase (clusterOf core) + c.tk.clBase, c.tk.clSize)
  | .ds =>
    if c.csr.sup then (dscrBase (dieOf core), 2 ^ 25)
    else
      let w := (((tfind s.jobs c.tk.job).map Job.dsw).getD []).getD (dieOf core) (0, 0)
      (dscrBase (dieOf core) + w.1 * 2 ^ 16, w.2 * 2 ^ 16)
  | .g => (0, 2 ^ 48)

/-- R208's conditions. -/
def spInBounds (lo hi : Nat) (a n : Nat) : Bool :=
  decide (lo ≤ a) && decide (a + n - 1 ≤ hi) && decide (a + n - 1 ≤ 0x5FFFF) && decide (a < 2 ^ 19)

/-- Bounds of a space that is not translated (R208, R233, R319). -/
def State.inBounds (s : State) (core : Nat) (c : Ctx) (sp : Space) (a n : Nat) : Bool :=
  match sp with
  | .sp => spInBounds c.csr.bndlo.toNat c.csr.bndhi.toNat a n
  | .g => true
  | _ => decide (a + n ≤ (s.window core c sp).2)

/-! Extents. -/

/-- Bytes that one lane of a vector access occupies in memory, in bits, for a register width and a memory width (R171). -/
def laneBits (wT wM : Nat) : Nat := 32 / wT * wM

/-- Joins byte ranges (offset, length) that touch. -/
def joinSpan (acc : List (Nat × Nat)) (x : Nat × Nat) : List (Nat × Nat) :=
  match acc with
  | [] => [x]
  | (a, n) :: t => if x.1 ≤ a + n then (a, x.1 + x.2 - a) :: t else x :: (a, n) :: t

/-- The byte ranges of the active lanes of a vector access, ascending (R172). -/
def vecSpans (mask : Word) (lb : Nat) : List (Nat × Nat) :=
  ((List.range 64).foldl (fun acc k =>
    if mask.getLsbD k then
      let a := k * lb / 8
      joinSpan acc (a, ((k + 1) * lb + 7) / 8 - a)
    else acc) []).reverse

/-- Whether a request makes an access at all. -/
def MemReq.active (q : MemReq) : Bool :=
  match q.shape with
  | .scalar _ _ => q.mask.getLsbD 0
  | .vector _ _ => q.mask != 0
  | .lanes _ _ => !q.lanes.isEmpty

/-- Register width of a vector access (R171): a raw access moves 32-bit lanes. -/
def regWidth (ty : Nat) : Nat := if ty = 0 then 32 else typeWidth ty
/-- Memory width: raw bits, and a RAW page, keep the register's width (R20, R171). -/
def memWidth (ty fmt : Nat) : Nat := if fmt = 0 then regWidth ty else typeWidth fmt

/-- The ranges of a request: offset or lane, program address, length. -/
def MemReq.spans (q : MemReq) : List (Nat × Word × Nat) :=
  match q.shape with
  | .scalar n _ => [(0, q.addr, n)]
  | .vector ty _ => (vecSpans q.mask (laneBits (regWidth ty) (memWidth ty q.fmt))).map fun x =>
      (x.1, q.addr + BitVec.ofNat 64 x.1, x.2)
  | .lanes n _ => q.lanes.map fun x => (x.1, x.2, n)

/-- The bytes that a vector access touches whatever format its page has: those of a 4-bit format. -/
def MemReq.leastSpans (q : MemReq) : List (Nat × Word × Nat) :=
  match q.shape with
  | .vector ty _ => (vecSpans q.mask (laneBits (regWidth ty) 4)).map fun x => (x.1, q.addr + BitVec.ofNat 64 x.1, x.2)
  | _ => q.spans

/-- The first misaligned address (R172): scalars to their size, vectors to min(bytes, 64), lanes to SZ. -/
def MemReq.misaligned (q : MemReq) : Option Word :=
  match q.shape with
  | .scalar n _ => if q.addr.toNat % n = 0 then none else some q.addr
  | .vector ty _ =>
    let n := 8 * laneBits (regWidth ty) (memWidth ty q.fmt)
    if q.addr.toNat % Min.min n 64 = 0 then none else some q.addr
  | .lanes n _ => (q.lanes.find? fun x => x.2.toNat % n ≠ 0).map Prod.snd

/-- A base that is misaligned whatever format its page proves to have (R171, R172): under MFMT 0xF the access moves at least the bytes
of a 4-bit format. -/
def MemReq.coarse (q : MemReq) : Bool :=
  match q.shape with
  | .vector ty 0xF => decide (q.addr.toNat % Min.min (8 * laneBits (regWidth ty) 4) 64 ≠ 0)
  | _ => false

/-! Watchpoints (R342, R343). -/

/-- Code of a space in MOD (R170). -/
def spaceCode : Space → Nat
  | .sp => 0 | .cl => 1 | .ds => 2 | .g => 3

def spaceOf (x : Nat) : Space := match x with | 0 => .sp | 1 => .cl | 2 => .ds | _ => .g

/-- The address at which one range meets watchpoint k, if it does. -/
def State.watchHit (s : State) (core ctx : Nat) (sp : Space) (rd wr : Bool) (a n : Nat) (k : Nat) : Option Nat :=
  let wa := (s.reg (dbgBase core + 0x28 + 8 * k)).toNat
  let wc := (s.reg (dbgBase core + 0x48 + 8 * k)).toNat
  let sz := bitsOf wc 3 0
  let lo := wa / 2 ^ sz * 2 ^ sz
  if sz < 13 && ((pteBit wc 6 && rd) || (pteBit wc 7 && wr)) && bitsOf wc 5 4 == spaceCode sp && pteBit wc (8 + ctx) &&
      decide (a < lo + 2 ^ sz) && decide (lo < a + n)
  then some (Max.max a lo) else none

/-- The lowest address of an access that lies in a watchpoint's range. -/
def State.watch (s : State) (core ctx : Nat) (sp : Space) (rd wr : Bool) (spans : List (Nat × Word × Nat)) : Option Nat :=
  let hits := spans.flatMap fun x =>
    (List.range 4).filterMap fun k => s.watchHit core ctx sp rd wr x.2.1.toNat x.2.2 k
  match hits with
  | [] => none
  | h :: t => some (t.foldl Min.min h)

/-! Race detection. -/

/-- The die context slot under which a context's accesses are checked; the supervisor's are not (R243, R320). -/
def State.raceSlot (s : State) (core ctx : Nat) : Option Nat :=
  let base := 40 * (core / 8 % 8) + 5 * (core % 8)
  if (s.ctxAt core ctx).csr.sup then none
  else if ctx < 4 then some (base + ctx)
  else match (s.coreAt core).xrole with
    | .handler v => some (base + v)
    | _ => some (base + 4)

/-- Whether the line of a place is race-checked: cluster-shared memory and the checked regions. -/
def raceChecked (pa : Nat) : Bool := (decide (2 ^ 52 ≤ pa)) || inChecked pa

def RaceRec.zero : RaceRec := ⟨[], .none⟩

/-- R244's comparison for one line. -/
def RaceRec.conflict (r : RaceRec) (slot : Nat) (write : Bool) : Bool :=
  (match r.wr with
    | .none => false
    | .slot n => n != slot
    | .copy _ _ => true) ||
  (write && r.rd.any fun j => j != slot)

/-- R244's record afterwards. -/
def RaceRec.note (r : RaceRec) (slot : Nat) (write : Bool) : RaceRec :=
  if write then { r with wr := .slot slot }
  else { r with rd := if r.rd.contains slot then r.rd else slot :: r.rd }

/-- The race-checked lines of a run with the program address at which each is first touched. -/
def Run.raceLines (r : Run) : List (Nat × Word) :=
  if raceChecked r.pa then
    (linesOf r.pa r.n).map fun l => (l, r.va + BitVec.ofNat 64 (l * 64 - r.pa))
  else []

/-- The first conflicting address of an access (R244). -/
def State.raceHit (s : State) (slot : Nat) (write : Bool) (runs : List Run) : Option Word :=
  (runs.flatMap Run.raceLines).findSome? fun x =>
    if (tget RaceRec.zero s.races x.1).conflict slot write then some x.2 else none

def State.raceNote (s : State) (slot : Nat) (write : Bool) (runs : List Run) : State :=
  (runs.flatMap Run.raceLines).foldl (fun s x =>
    { s with races := tset s.races x.1 ((tget RaceRec.zero s.races x.1).note slot write) }) s

/-- The end of a context's race-detection region (R245): a record that says nothing is dropped. -/
def State.endRegion (s : State) (core ctx : Nat) : State :=
  match s.raceSlot core ctx with
  | none => s
  | some k =>
    let mine (l : Nat) : Bool := l * 64 / 2 ^ 22 == clBase (clusterOf core) / 2 ^ 22 || dieOfPA (l * 64) == some (dieOf core)
    { s with races := (s.races.map fun x =>
        if mine x.1 then
          (x.1, ({ rd := x.2.rd.filter fun j => j != k, wr := if x.2.wr = .slot k then .none else x.2.wr } : RaceRec))
        else x).filter fun x => x.2 != RaceRec.zero }

/-! Resolution. -/

/-- What an access comes to. -/
inductive Acc where
  /-- no lane is active: nothing is translated or accessed -/
  | idle
  /-- a trap precise at the bundle -/
  | trap (t : Trap)
  /-- a fault known only after translation (R175) -/
  | fault (t : Trap)
  | ok (q : MemReq)
  deriving DecidableEq, Repr

/-- The pages of a range. -/
def pageParts (fuel : Nat) (off : Nat) (va : Word) (n : Nat) : List (Nat × Word × Nat) :=
  match fuel with
  | 0 => []
  | f + 1 =>
    let k := Min.min n (4096 - va.toNat % 4096)
    if n = 0 then [] else (off, va, k) :: pageParts f (off + k) (va + BitVec.ofNat 64 k) (n - k)

/-- What is wrong with a translated page of an access: every page must carry the first one's FMT and GEO (R172), a checked region is
reached from its own die only (R320), and the Crucible by permission. -/
def pageWhy (core : Nat) (perm10 lane : Bool) (fg : Option (Nat × Nat)) (p : Page) : Option (Nat × Nat) :=
  if !lane && fg.any (fun y => y != (p.fmt, p.geo)) then some (0x08, 0x02)
  else if p.rchk && dieOfPA p.pa != some (dieOf core) then some (0x08, 0x02)
  else if (match plocOf p.pa with | .crucible _ => !perm10 | _ => false) then some (0x09, 0x04)
  else none

/-- Translates ranges in order: the runs, and the fault of the lowest cause, the first of them in address order (R212).  A per-lane load's
lanes fault independently, and its entry takes the fault of the lowest lane that has one (R177; DEDUCED, log entry 182: with that lane's
own cause). -/
def State.resolveG (s : State) (core : Nat) (x : XCtx) (acc : XAcc) (perm10 lane : Bool) :
    Option (Nat × Nat) → Option (Nat × Nat × Word) → List (Nat × Word × Nat) → State × (List Run ⊕ (Nat × Nat × Word))
  | _, none, [] => (s, .inl [])
  | _, some f, [] => (s, .inr f)
  | fg, bad, (off, va, n) :: t =>
    let worse (c sub : Nat) : Option (Nat × Nat × Word) :=
      match bad with
      | some f => if c < f.1 && !(lane && acc == .read) then some (c, sub, va) else bad
      | none => some (c, sub, va)
    match s.xlate core x acc va with
    | (s, .fault c sub) => s.resolveG core x acc perm10 lane fg (worse c sub) t
    | (s, .ok p) =>
      match pageWhy core perm10 lane fg p with
      | some (c, sub) => s.resolveG core x acc perm10 lane fg (worse c sub) t
      | none =>
        match s.resolveG core x acc perm10 lane (fg.orElse fun _ => some (p.fmt, p.geo)) bad t with
        | (s, .inr f) => (s, .inr f)
        | (s, .inl l) => (s, .inl (⟨off, va, p.pa, n, p.key, p.mlog⟩ :: l))

/-- Format and geometry for MFMT 0xF: those of the page that holds the base (R171). -/
def State.pageFormat (s : State) (core : Nat) (x : XCtx) (acc : XAcc) (q : MemReq) : State × (MemReq ⊕ (Nat × Nat × Word)) :=
  match q.shape with
  | .vector _ 0xF =>
    match s.xlate core x acc q.addr with
    | (s, .fault c sub) => (s, .inr (c, sub, q.addr))
    | (s, .ok p) => (s, .inl { q with fmt := p.fmt, geo := p.geo == 1 })
  | .vector _ mf => (s, .inl { q with fmt := mf, geo := false })
  | _ => (s, .inl q)

/-- R19: unit offsets 0xC00 to 0xFFF, and a partial block of a store. -/
def formatFault (q : MemReq) (write : Bool) (runs : List Run) : Bool :=
  q.geo &&
  (runs.any (fun r => decide (r.pa % 4096 + r.n > 0xC00)) ||
    (write && (match q.shape with
      | .vector ty _ =>
        let per := 8 * regWidth ty / 32
        (List.range 64).any fun k => q.mask.getLsbD k != q.mask.getLsbD (k - k % per)
      | _ => false)))

/-- The first place that the bounds trap names, with its subcode: misaligned, or else out of bounds; a per-lane access is searched lane
by lane (R172, R208). -/
def State.badPlace (s : State) (core : Nat) (c : Ctx) (q : MemReq) (spans : List (Nat × Word × Nat)) : Option (Nat × Word) :=
  match q.shape with
  | .lanes n _ =>
    (q.lanes.find? fun x => x.2.toNat % n ≠ 0 || !s.inBounds core c q.space x.2.toNat n).map fun x =>
      (if x.2.toNat % n ≠ 0 then 0x02 else 0x01, x.2)
  | _ =>
    match q.misaligned with
    | some a => some (0x02, a)
    | none => (spans.find? fun y => !s.inBounds core c q.space y.2.1.toNat y.2.2).map fun y => (0x01, y.2.1)

/-- Where an access lies: its alignment, watchpoints, bounds, translation and page format (R171, R172, R208, R343). -/
def State.locate (s : State) (part : Nat) (q : MemReq) (rd wr : Bool) : State × Acc :=
  let core := s.cur.core
  let ctx := s.cur.ctx
  let c := s.ctx
  if !q.active then (s, .idle)
  else
    let x := s.xctxOf c
    let acc := if wr then XAcc.write else XAcc.read
    let mk (cause sub : Nat) (v : Word) : Trap := ⟨part, cause, sub, v⟩
    if q.space = .g && q.coarse then (s, .trap (mk 0x07 0x02 q.addr))
    else
    match (if q.space = .g then s.pageFormat core x acc q
        else (s, .inl (match q.shape with | .vector _ mf => { q with fmt := mf } | _ => q))) with
    | (s, .inr (cs, sub, va)) =>
      match (if c.skips then none else s.watch core ctx q.space rd wr q.leastSpans) with
      | some a => (s, .trap (mk 0x03 0x03 (BitVec.ofNat 64 a)))
      | none => (s, .fault (mk cs sub va))
    | (s, .inl q) =>
      let spans := q.spans
      match (if c.skips then none else s.watch core ctx q.space rd wr spans) with
      | some a => (s, .trap (mk 0x03 0x03 (BitVec.ofNat 64 a)))
      | none =>
        match s.badPlace core c q spans with
        | some (sub, a) => (s, .trap (mk 0x07 sub a))
        | none =>
            let found : State × (List Run ⊕ (Nat × Nat × Word)) :=
              if q.space = .g then
                let lane := match q.shape with | .lanes _ _ => true | _ => false
                s.resolveG core x acc (s.permBit c 10) lane
                  (match q.shape with | .vector _ 0xF => some (q.fmt, if q.geo then 1 else 0) | _ => none) none
                  (spans.flatMap fun y => pageParts 2 y.1 y.2.1 y.2.2)
              else
                (s, .inl (spans.map fun y => ⟨y.1, y.2.1, (s.window core c q.space).1 + y.2.1.toNat, y.2.2, 0, false⟩))
            match found with
            | (s, .inr (cs, sub, va)) => (s, .fault (mk cs sub va))
            | (s, .inl runs) =>
              if formatFault q wr runs then (s, .fault (mk 0x07 0x04 q.addr)) else (s, .ok { q with runs := runs })

/-- An access at issue: where it lies, and its race check (R243, R244); an atomic, which reads and writes, leaves the record of a
write. -/
def State.access (s : State) (part : Nat) (q : MemReq) (rd wr : Bool) : State × Acc :=
  match s.locate part q rd wr with
  | (s, .ok r) =>
    match (if r.space = .sp then none else s.raceSlot s.cur.core s.cur.ctx) with
    | none => (s, .ok r)
    | some k =>
      match s.raceHit k wr r.runs with
      | some a => (s, .trap ⟨part, 0x0B, if wr then 0x02 else 0x01, a⟩)
      | none =>
        let s := if rd && !wr then s.raceNote k false r.runs else s
        let s := if wr then s.raceNote k true r.runs else s
        (s, .ok r)
  | r => r

/-! Translation waits (R325). -/

/-- The pages of an access in `g` that miss; under MFMT 0xF the base's page comes first, since it gives the span. -/
def State.pagesOut (s : State) (q : MemReq) (wr : Bool) : List Word :=
  let core := s.cur.core
  let x := s.xctxOf s.ctx
  let acc := if wr then XAcc.write else XAcc.read
  let out (q : MemReq) : List Word :=
    ((q.spans.flatMap fun y => pageParts 2 y.1 y.2.1 y.2.2).map fun y => y.2.1).filter fun a => s.misses core x acc a
  if q.space != .g || !q.active || q.coarse then []
  else
    match q.shape with
    | .vector _ 0xF =>
      if s.misses core x acc q.addr then [q.addr]
      else match (s.pageFormat core x acc q).2 with
        | .inl r => out r
        | .inr _ => []
    | _ => out q

/-- The die whose walkers serve a core (R325). -/
def State.walksOf (s : State) (die : Nat) : List Walk := (tget Die.reset s.dies die).walks
def State.setWalks (s : State) (die : Nat) (l : List Walk) : State := { s with dies := tset s.dies die { tget Die.reset s.dies die with walks := l } }

/-- Asks for the walk of a missing page: it joins one to the same page, or takes one of the 512 places, and is counted as a miss; with
none free it waits. -/
def State.askWalk (s : State) (wr : Bool) (va : Word) : State :=
  let core := s.cur.core
  let me := (core, s.cur.ctx)
  let x := s.xctxOf s.ctx
  let l := s.walksOf (dieOf core)
  let page := va.toNat / 4096 * 4096
  let same (w : Walk) : Bool := w.asid == x.asid && w.va == page
  if l.any same then
    s.setWalks (dieOf core) (l.map fun w => if same w then { w with who := if w.who.contains me then w.who else w.who ++ [me], wr := w.wr || wr } else w)
  else if l.length < 512 then (s.setWalks (dieOf core) (l ++ [⟨[me], x.asid, page, wr⟩])).count x.tenant (dieOf core) 0x0C 1
  else s

def State.askWalks (s : State) (wr : Bool) (l : List Word) : State := l.foldl (fun s a => s.askWalk wr a) s

/-! The bytes of an access. -/

/-- Material under which a key reads or writes; a key that is no longer LOADED opens nothing of its own. -/
def State.matOf (s : State) (k : Nat) : BitVec 512 := (s.keyMat k).getD 0

/-- Bytes of a place under a key. -/
def State.placeBytes (s : State) (key pa n : Nat) : List Byte := s.bytesAt (s.matOf key) pa n

/-- Bytes of the scratchpad as a load of the bundle sees them: each 8-byte unit as it stands before or after the bundle's
store, which the spec leaves unordered (R173, R303). -/
def State.spBytes (s : State) (pa : Nat) : Nat → List Byte
  | 0 => []
  | n + 1 =>
    (match s.cur.before with
      | some m => if Config.freeBool (s.fresh * 2 ^ 64 + pa / 8) then memGet m pa else memGet s.mem pa
      | none => memGet s.mem pa) :: s.spBytes (pa + 1) n

/-- The image of a vector access from the bytes of its runs. -/
def imageOf (rs : List (Run × List Byte)) : Nat :=
  (rs.map fun x => ofBytes x.2 * 2 ^ (8 * x.1.off)).sum

/-- Code image bit e of a vector load: element i of width w. -/
def imgElem (img w i : Nat) : Nat := img / 2 ^ (w * i) % 2 ^ w

/-- The result of a vector load (R20, R171) from its image and, for GEO 001, the scale byte of each block. -/
def loadVec (q : MemReq) (ty : Nat) (img : Nat) (scale : Nat → Nat) : Vec × Flags :=
  if q.fmt = 0 then (maskVec q.mask (BitVec.ofNat 2048 img), 0)
  else
    let ft := fmtN ty
    let fm := fmtN q.fmt
    let (x, fl, _) := elems ft.width false q.mask 0 fun i _ =>
      let e := imgElem img fm.width i
      if q.geo then
        let (v, f) := decodeFmt fm e
        let (m, k) := blockScale (scale (i / 8))
        let (y, f2) := encodeFmt ft .rne .max 0 (v.mul (.fin false m k)).1
        (y, f ||| f2)
      else convert fm ft .rne .max 0 e
    (x, fl)

/-- The scale byte's place of the block that holds byte `off` of a GEO 001 access (R19). -/
def scalePlace (runs : List Run) (off : Nat) : Option (Nat × Nat) :=
  (runs.find? fun r => decide (r.off ≤ off) && decide (off < r.off + r.n)).map fun r =>
    let a := r.pa + (off - r.off)
    (a / 4096 * 4096 + 0xC00 + a % 4096 / 4, r.key)

/-- The value a load returns from the bytes read: a scalar in the low 64 bits, or a vector; and its flags. -/
def MemReq.value (q : MemReq) (rs : List (Run × List Byte)) (scale : Nat → Nat) : Vec × Flags :=
  match q.shape with
  | .scalar n sx =>
    let b := imageOf rs
    ((if sx then BitVec.ofInt 64 (sextN (8 * n) b) else BitVec.ofNat 64 b).setWidth 2048, 0)
  | .vector ty _ => loadVec q ty (imageOf rs) scale
  | .lanes n sx =>
    (vbuild 32 fun k =>
      match rs.find? (fun x => x.1.off == k) with
      | none => 0
      | some x => if sx then toTwos 32 (sextN (8 * n) (ofBytes x.2)) else ofBytes x.2, 0)

/-- The bytes that a store writes: a pattern and its mask for each byte of the access, by offset (R171, R184), with the
flags and, for GEO 001, the scale byte of each block. -/
def storeVec (q : MemReq) (ty : Nat) (x : Vec) : Nat × Nat × Flags × List Nat :=
  if q.fmt = 0 then
    (x.toNat, (mergeLanes q.mask 0 (BitVec.allOnes 2048)).toNat, 0, [])
  else
    let ft := fmtN ty
    let fm := fmtN q.fmt
    let wT := ft.width
    let wM := fm.width
    let n := 2048 / wT
    let on (i : Nat) : Bool := q.mask.getLsbD (i * wT / 32)
    let mask := packElems wM (fun i => if on i then 2 ^ wM - 1 else 0) n
    if q.geo then
      let blk (j : Nat) : Nat × List Nat × Flags :=
        if on (8 * j) then
          let xs := (List.range 8).map fun i => decodeFmt ft (velem wT x (8 * j + i))
          let (code, els, fl) := encBlock .rne .none (.fin false 1 0) (List.replicate 8 0) (xs.map Prod.fst)
          (code, els, xs.foldl (fun f y => f ||| y.2) fl)
        else (0, List.replicate 8 0, 0)
      let bs := (List.range (n / 8)).map blk
      (packElems 4 (fun i => ((bs.getD (i / 8) (0, [], 0)).2.1).getD (i % 8) 0) n, mask,
        bs.foldl (fun f b => f ||| b.2.2) 0, bs.map Prod.fst)
    else
      let es := (List.range n).map fun i => if on i then convert ft fm .rne .max 0 (velem wT x i) else (0, 0)
      (packElems wM (fun i => (es.getD i (0, 0)).1) n, mask, es.foldl (fun f e => f ||| e.2) 0, [])

/-- Splits a run of byte patterns and masks at 8-byte boundaries (R301). -/
def unitsOf (key : Nat) (mlog : Bool) : Nat → List (Byte × Byte) → List SUnit
  | _, [] => []
  | pa, b :: t =>
    match unitsOf key mlog (pa + 1) t with
    | u :: us => if pa % 8 = 7 then ⟨pa, [b], key, mlog⟩ :: u :: us else ⟨pa, b :: u.bytes, key, mlog⟩ :: us
    | [] => [⟨pa, [b], key, mlog⟩]

/-- Byte i of a pattern and of its mask. -/
def maskedByte (img mask i : Nat) : Byte × Byte := (BitVec.ofNat 8 (img / 2 ^ (8 * i)), BitVec.ofNat 8 (mask / 2 ^ (8 * i)))

/-- One access for the aligned 8-byte unit that two of its parts lie in (R301): the later part's bits stand. -/
def SUnit.join (a b : SUnit) : SUnit :=
  let lo := Min.min a.pa b.pa
  let hi := Max.max (a.pa + a.bytes.length) (b.pa + b.bytes.length)
  let at1 (u : SUnit) (p : Nat) : Byte × Byte := if p < u.pa then (0, 0) else u.bytes.getD (p - u.pa) (0, 0)
  { a with pa := lo, bytes := (List.range (hi - lo)).map fun i =>
      let x := at1 a (lo + i)
      let y := at1 b (lo + i)
      ((x.1 &&& ~~~ y.2) ||| (y.1 &&& y.2), x.2 ||| y.2) }

/-- Adds a part to the units of an access. -/
def joinUnit (l : List SUnit) (u : SUnit) : List SUnit :=
  match l with
  | [] => [u]
  | v :: t => if v.pa / 8 = u.pa / 8 then v.join u :: t else v :: joinUnit t u

/-- The units of an access from its parts, in order. -/
def joinUnits (l : List SUnit) : List SUnit := l.foldl joinUnit []

/-- The units of a store from its image, its mask and its block scales. -/
def MemReq.units (q : MemReq) (img mask : Nat) (scales : List Nat) : List SUnit :=
  let data := q.runs.flatMap fun r => unitsOf r.key r.mlog r.pa ((List.range r.n).map fun i => maskedByte img mask (r.off + i))
  let sc := q.runs.flatMap fun r =>
    if q.geo then
      (List.range (r.n / 4)).map fun j =>
        let a := r.pa + 4 * j
        (⟨a / 4096 * 4096 + 0xC00 + a % 4096 / 4, [(BitVec.ofNat 8 (scales.getD ((r.off + 4 * j) / 4) 0), 0xFF#8)], r.key, r.mlog⟩ : SUnit)
    else []
  joinUnits (data ++ sc)

/-- The lanes of a per-lane store, ascending, so that the highest lane's data stands (R184). -/
def laneUnits (q : MemReq) (x : Vec) : List SUnit :=
  joinUnits (q.runs.flatMap fun r => unitsOf r.key r.mlog r.pa ((toBytes (vlane x r.off) r.n).map fun b => (b, 0xFF#8)))

/-- Performs one unit at its place (R301); MLOG marks come first (R329).  A unit that writes only some bits of its word clears no
poison (R220); one behind an aperture leaves with its mask. -/
def State.putUnit (s : State) (u : SUnit) : State :=
  match plocOf u.pa with
  | .aperture _ => s.sendAp u.key u.pa (.store u.bytes)
  | _ =>
    let s := s.logDirty ⟨u.pa, 0, 0, u.key, u.mlog, false⟩ u.bytes.length
    let mat := s.matOf u.key
    let old := s.bytesAt mat u.pa u.bytes.length
    let t := s.storeBytes mat u.pa (List.zipWith (fun o (b : Byte × Byte) => (o &&& ~~~ b.2) ||| (b.1 &&& b.2)) old u.bytes)
    if u.bytes.all fun b => b.2 == 0xFF#8 then t else { t with poison := s.poison }

end Sys2Proof.Machine
end

