-- ==== Sys2Proof/Machine/Load.lean ====
section
/-! DEFINITION. The L slot: queue loads (R174 to R179), direct scratchpad loads (R180) and walkers (R181 to R183). -/

namespace Sys2Proof.Machine

/-! Requests. -/

/-- A scalar memory MOD (R171): space, size and extension. -/
def mdSpace (md : BitVec 10) : Space := spaceOf (bitsOf md.toNat 9 8)
def mdBytes (md : BitVec 10) : Nat := 2 ^ bitsOf md.toNat 7 6
def mdSx (md : BitVec 10) : Bool := md.getLsbD 5

def scalarReq (md : BitVec 10) (addr : Word) (g : Bool) (scope : Nat) : MemReq :=
  ⟨mdSpace md, .scalar (mdBytes md) (mdSx md), addr, if g then 1 else 0, [], scope, [], 0, false⟩

/-- A vector memory MOD (R171); a raw access reads no type. -/
def Ctx.vectorReq (c : Ctx) (md : BitVec 10) (addr : Word) (mask : Word) (scope : Nat) : MemReq :=
  let mf := bitsOf md.toNat 3 0
  ⟨mdSpace md, .vector (if mf = 0 then 0 else c.typ (bitsOf md.toNat 7 4)) mf, addr, mask, [], scope, [], mf, false⟩

/-- The active lanes and their addresses (R177, R184). -/
def laneList (mask : Word) (f : Nat → Word) : List (Nat × Word) :=
  (List.range 64).filterMap fun k => if mask.getLsbD k then some (k, f k) else none

def laneReq (md : BitVec 10) (addr : Word) (mask : Word) (scope : Nat) (f : Nat → Word) : MemReq :=
  ⟨mdSpace md, .lanes (mdBytes md) (mdSx md), addr, mask, laneList mask f, scope, [], 0, false⟩

/-! Channels. -/

def Ctx.chan (c : Ctx) (q : Bool) : QChan := if q then c.q1 else c.q0
def Ctx.setChan (c : Ctx) (q : Bool) (x : QChan) : Ctx := if q then { c with q1 := x } else { c with q0 := x }
def chanNum (q : Bool) : Nat := if q then 1 else 0

/-- 32 entries occupy space (R95). -/
def QChan.full (x : QChan) : Bool := decide (32 ≤ x.ents.length)

/-- Whether an entry of the rewound run serves a push of the replay (R96); a faulted entry never does (R175). -/
def QEntry.serves (o e : QEntry) : Bool :=
  match o.stat, o.req, e.req with
  | .faulted _, _, _ => false
  | .atomic, _, _ => false
  | _, some a, some b => a.addr == b.addr && a.lanes == b.lanes
  | _, _, _ => false

/-- Whether two pushes make the same access, or both none. -/
def QEntry.sameAddr (o e : QEntry) : Bool :=
  match o.req, e.req with
  | some a, some b => a.addr == b.addr && a.lanes == b.lanes
  | none, none => true
  | _, _ => false

/-- A push (R174), matched with the rewound run's push of the same place in the segment (R96). -/
def QChan.push (x : QChan) (e : QEntry) : QChan :=
  match x.old with
  | [] => { x with ents := x.ents ++ [e], pushed := x.pushed + 1 }
  | o :: t =>
    if o.serves e then { x with ents := x.ents ++ [o], pushed := x.pushed + 1, old := t }
    else { x with ents := x.ents ++ [e], pushed := x.pushed + 1, old := if o.sameAddr e then t else [] }

def State.pushEntry (s : State) (q : Bool) (e : QEntry) : State :=
  s.updCtx fun c => c.setChan q ((c.chan q).push e)

/-- The bytes of every run as the L slot reads them in the scratchpad. -/
def State.spRuns (s : State) (q : MemReq) : List (Run × List Byte) := q.runs.map fun r => (r, s.spBytes r.pa r.n)

/-- A scratchpad load's value, flags and poison. -/
def State.spLoad (s : State) (q : MemReq) : Vec × Flags × Bool :=
  let (x, fl) := q.value (s.spRuns q) fun _ => 0
  (x, fl, q.runs.any fun r => s.isPoisoned r.pa r.n)

/-- Whether a request makes a vector entry. -/
def MemReq.isVec (q : MemReq) : Bool := match q.shape with | .scalar _ _ => false | _ => true

/-- The access of a queue load.  One in `g` whose pages miss is translated after it has pushed its entry (R325): its alignment,
watchpoints and race check come at issue, its runs and its faults when the walks have ended. -/
def State.loadAccess (s : State) (part : Nat) (q : MemReq) : State × Acc :=
  let out := s.pagesOut q false
  if out.isEmpty then s.access part q true false
  else
    match s.access part q true false with
    | (_, .trap t) => (s, .trap t)
    | (t, .ok _) => (State.askWalks { s with races := t.races } false out, .ok q)
    | _ => (s.askWalks false out, .ok q)

/-- A queue load (R174 to R176): pushes one entry whatever the guard.  A scratchpad load reads at once (R173); a load to
another space is performed later. -/
def State.queueLoad (s : State) (part : Nat) (ch : Bool) (q : MemReq) : State :=
  let x := s.ctx.chan ch
  if x.full then
    (if x.popped = x.ents.length then s.trap part 0x05 0x02 (BitVec.ofNat 64 (chanNum ch)) else s)
  else
    let entry (d : Vec) (st : QStat) (r : Option MemReq) (fl : Flags) : QEntry := ⟨q.isVec, d, st, r, fl, s.cur.addr⟩
    match s.loadAccess part q with
    | (s, .idle) => s.pushEntry ch (entry 0 .ready none 0)
    | (s, .trap t) => s.takeTrap t 0
    | (s, .fault t) => s.pushEntry ch (entry 0 (.faulted t) (some q) 0)
    | (s, .ok r) =>
      if r.space = .sp then
        let (d, fl, bad) := s.spLoad r
        let s := if s.cur.before.isSome then s.draw else s
        s.pushEntry ch (entry d (if bad then .faulted ⟨part, 0x0C, 0x02, poisonVal 4 (chanNum ch)⟩ else .ready) (some r) fl)
      else s.pushEntry ch (entry 0 .pending (some r) 0)

/-- The queue-misuse trap of a push, which looks at no source (R95, R212). -/
def State.pushTrap (s : State) (part : Nat) (ch : Bool) : Option Trap :=
  let x := s.ctx.chan ch
  if x.full && x.popped == x.ents.length then some ⟨part, 0x05, 0x02, BitVec.ofNat 64 (chanNum ch)⟩ else none

/-- The trap that a queue load takes of its own, for the choice of the lowest cause (R212). -/
def State.loadTrap (s : State) (part : Nat) (ch : Bool) (q : MemReq) : Option Trap :=
  let own := match (s.access part q true false).2 with
    | .trap t => some t
    | _ => none
  match s.pushTrap part ch with
  | some t => lowerTrap own (some t)
  | none => if (s.ctx.chan ch).full then none else own

/-- The address of an L or T operand: base plus offset (R170). -/
def Ctx.memAddr (c : Ctx) (cur : Cur) (xa xb : Sel) : Word := c.srcS cur xa + c.srcS cur xb

/-- LDA (R176). -/
def execLda (op : RIOp) (s : State) : Out :=
  let c := s.ctx
  let vec := op.dst.getLsbD 1
  let a := c.srcS s.cur op.xa + op.imm.signExtend 64
  let q := if vec then c.vectorReq op.md a (c.lanes op.pred op.pn) s.cur.scope
    else scalarReq op.md a (c.guard op.pred op.pn) s.cur.scope
  let ch := op.dst.getLsbD 0
  s.sources (free := s.pushTrap partL ch) partL [(.s, op.xa)] (s.loadTrap partL ch q) fun _ => s.queueLoad partL ch q

/-- LDX: lane k at a + k × b (R177). -/
def execLdx (op : ROp) (s : State) : Out :=
  let c := s.ctx
  let m := c.lanes op.pred op.pn
  let a := c.srcS s.cur op.xa
  let b := c.srcS s.cur op.xb
  let q := laneReq op.md a m s.cur.scope fun k => a + BitVec.ofNat 64 k * b
  let ch := op.dst.getLsbD 0
  s.sources (free := s.pushTrap partL ch) partL [(.s, op.xa), (.s, op.xb)] (s.loadTrap partL ch q) fun _ => s.queueLoad partL ch q

/-- LDG: lane k at a + sext(lane k of b) (R177). -/
def execLdg (op : ROp) (s : State) : Out :=
  let c := s.ctx
  let m := c.lanes op.pred op.pn
  let a := c.srcS s.cur op.xa
  let b := c.srcV s.cur op.xb
  let q := laneReq op.md a m s.cur.scope fun k => a + BitVec.ofInt 64 (sextN 32 (vlane b k))
  let ch := op.dst.getLsbD 0
  s.sources (free := s.pushTrap partL ch) partL [(.s, op.xa), (.v, op.xb)] (s.loadTrap partL ch q) fun _ => s.queueLoad partL ch q

/-! The L1 (R210). -/

/-- Puts the line that holds a place into the L1, whose 1,024 lines hold 64 KiB (R2, R210): beyond them one goes, freely chosen. -/
def State.l1Fill (s : State) (core key pa : Nat) : State :=
  match plocOf pa with
  | .dram _ | .dscr _ _ | .crucible _ =>
    s.updCore core fun c =>
      let l := if c.l1.length < 1024 || (tfind c.l1 (pa / 64)).isSome then c.l1
        else c.l1.eraseIdx (Config.freeBits 10 (s.fresh * 2 ^ 64 + pa)).toNat
      { c with l1 := tset l (pa / 64) (s.placeBytes key (pa / 64 * 64) 64) }
  | _ => s

/-- PFT (R178): a prefetch into the L1 takes the line as it stands; it never faults. -/
def execPft (op : ROp) (s : State) : Out :=
  let c := s.ctx
  let g := c.guard op.pred op.pn
  s.sources partL [(.s, op.xa), (.s, op.xb)] none fun c =>
    if g && bitsOf op.md.toNat 1 0 == 0 then
      match s.xlate s.cur.core (s.xctxOf c) .read (c.memAddr s.cur op.xa op.xb) with
      | (s', .ok p) => s'.l1Fill s.cur.core p.key p.pa
      | (_, .fault _ _) => s
    else s

/-- QDROP (R179): after the pop of its own bundle, which takes the entry at the head. -/
def execQdrop (op : ROp) (s : State) : Out :=
  let c := s.ctx
  let g := c.guard op.pred op.pn
  let ch := op.dst.getLsbD 0
  let n := bitsOf op.md.toNat 5 0
  let x := c.chan ch
  let own := if (s.cur.head ch).isSome && !(c.mask.getLsbD 8) then 1 else 0
  .next (
    if !g then s
    else if x.ents.length < x.popped + own + n then s.trap partL 0x05 0x03 (BitVec.ofNat 64 (chanNum ch))
    else s.setCtx (c.setChan ch { x with popped := x.popped + n }))

/-- LDS (R180). -/
def execLds (op : ROp) (s : State) : Out :=
  let c := s.ctx
  let g := c.guard op.pred op.pn
  let q := scalarReq op.md (c.memAddr s.cur op.xa op.xb) g s.cur.scope
  let own := match (s.access partL q true false).2 with | .trap t => some t | _ => none
  s.sources partL [(.s, op.xa), (.s, op.xb)] own fun _ =>
    match s.access partL q true false with
    | (s, .ok r) =>
      let (d, _, bad) := s.spLoad r
      let s := if s.cur.before.isSome then s.draw else s
      s.post (partL - 1) 4 (if op.nw || op.dst == 0 then [] else [.s op.dst.toNat (d.setWidth 64)]) none 0 bad
    | (s, _) => s

/-- LDV (R180): conversion flags with the result. -/
def execLdv (op : ROp) (s : State) : Out :=
  let c := s.ctx
  let m := c.lanes op.pred op.pn
  let q := c.vectorReq op.md (c.memAddr s.cur op.xa op.xb) m s.cur.scope
  let own := match (s.access partL q true false).2 with | .trap t => some t | _ => none
  s.sources partL [(.s, op.xa), (.s, op.xb)] own fun c =>
    match s.access partL q true false with
    | (s, .ok r) =>
      let (d, fl, bad) := s.spLoad r
      let s := if s.cur.before.isSome then s.draw else s
      s.post (partL - 1) 4 (if op.nw then [] else [.v (c.vPhys op.dst.toNat) m d]) none fl bad
    | (s, _) => s

/-! Walkers. -/

def Ctx.walker (c : Ctx) (k : Nat) : Walker := tget Walker.zero c.walkers k

/-- Template fields of a record (R181). -/
def Walker.vec (w : Walker) : Bool := bitsOf w.body.toNat 490 490 == 1
def Walker.lmod (w : Walker) : BitVec 10 := BitVec.ofNat 10 (bitsOf w.body.toNat 489 480)

/-- LDA's rules for MOD (R171): the vector form, then the scalar form. -/
def lmodOk (vec : Bool) (md : Nat) : Bool :=
  let sp := bitsOf md 9 8
  if vec then
    let ty := bitsOf md 7 4
    let mf := bitsOf md 3 0
    decide (ty ≤ 9) && (if mf = 0 then ty == 0 else if sp = 3 then mf == 0xF else decide (mf ≤ 9))
  else bitsOf md 4 0 == 0 && !(bitsOf md 7 6 == 3 && pteBit md 5)

/-- R181's malformed records. -/
def walkBad (b : BitVec 512) : Bool :=
  bitsOf b.toNat 511 491 != 0 || bitsOf b.toNat 479 400 != 0 ||
  (List.range 6).any (fun l => walkCnt b l == 0) ||
  !lmodOk (bitsOf b.toNat 490 490 == 1) (bitsOf b.toNat 489 480)

/-- The traps of LDW, STW and WADV on a walker's state (R183). -/
def Walker.trapOf (w : Walker) (part k : Nat) (access : Bool) : Option Trap :=
  if w.bad then some ⟨part, 0x05, 0x04, BitVec.ofNat 64 k⟩
  else if w.exh && access then some ⟨part, 0x05, 0x05, BitVec.ofNat 64 k⟩
  else none

/-- The request of a walker's current place, under LMOD. -/
def Ctx.walkReq (c : Ctx) (w : Walker) (pred : BitVec 4) (pn : Bool) (scope : Nat) : MemReq :=
  if w.vec then c.vectorReq w.lmod w.addr (c.lanes pred pn) scope else scalarReq w.lmod w.addr (c.guard pred pn) scope

/-- The step of a walker is seen by the next issued bundle (R183). -/
def State.stepWalker (s : State) (part k n : Nat) : State := s.post (part - 1) 1 [.wstep k n] none 0 false

/-- LDW (R183): as LDA under the template, then a step whatever the guard. -/
def execLdw (op : ROp) (s : State) : Out :=
  let c := s.ctx
  let k := selNum op.xa
  let w := c.walker k
  let q := c.walkReq w op.pred op.pn s.cur.scope
  let ch := op.dst.getLsbD 0
  let own := match w.trapOf partL k q.active with | some t => some t | none => s.loadTrap partL ch q
  s.sources partL [] own fun _ =>
    if (s.ctx.chan ch).full then s else (s.queueLoad partL ch q).stepWalker partL k 1

/-- WSET (R182): a 64-byte record of the scratchpad; seen four bundles later.  A poisoned record makes a malformed walker, so that no
access follows it (R220; DESIGN CHOICE). -/
def execWset (op : ROp) (s : State) : Out :=
  let c := s.ctx
  let g := c.guard op.pred op.pn
  let q : MemReq := ⟨.sp, .scalar 64 false, c.memAddr s.cur op.xa op.xb, if g then 1 else 0, [], s.cur.scope, [], 0, false⟩
  let own := match (s.access partL q true false).2 with | .trap t => some t | _ => none
  s.sources partL [(.s, op.xa), (.s, op.xb)] own fun _ =>
    match s.access partL q true false with
    | (s, .ok r) =>
      let body := BitVec.ofNat 512 (imageOf (s.spRuns r))
      let s := if s.cur.before.isSome then s.draw else s
      let bad := walkBad body || r.runs.any fun x => s.isPoisoned x.pa x.n
      s.post (partL - 1) 4 [.wset op.dst.toNat ⟨body, [0, 0, 0, 0, 0, 0], false, bad⟩] none 0 false
    | (s, _) => s

/-- WADV (R183). -/
def execWadv (op : ROp) (s : State) : Out :=
  let c := s.ctx
  let g := c.guard op.pred op.pn
  let k := selNum op.xa
  let own := (c.walker k).trapOf partL k false
  s.sources (free := own) partL [(.s, op.xb)] own fun c =>
    if g then s.stepWalker partL k (c.srcS s.cur op.xb).toNat else s

/-- CSEL (R183): latency 2. -/
def execCsel (op : ROp) (s : State) : Out :=
  let c := s.ctx
  let g := c.guard op.pred op.pn
  let w := c.walker (selNum op.xa)
  let sel := bitsOf op.md.toNat 2 0
  let x : Word :=
    if sel < 6 then BitVec.ofNat 64 (w.idx.getD sel 0)
    else if sel = 6 then w.addr
    else BitVec.ofNat 64 ((if w.exh then 1 else 0) + (if w.bad then 2 else 0))
  .next (s.putS partL 2 g op.nw op.dst.toNat x 0)

/-! Faulted entries on resumption (R175). -/

/-- Issues the load of a faulted entry again, to the address it recorded. -/
def State.redoEntry (s : State) (e : QEntry) : State × QEntry :=
  match e.stat, e.req with
  | .faulted t, some q =>
    match s.loadAccess partL { q with runs := [] } with
    | (s, .idle) => (s, e)
    | (s, .trap u) => (s, { e with stat := .faulted u })
    | (s, .fault u) => (s, { e with stat := .faulted u })
    | (s, .ok r) =>
      if r.space = .sp then
        let (d, fl, bad) := s.spLoad r
        (s, { e with data := d, fl := fl, req := some r, stat := if bad then .faulted t else .ready })
      else (s, { e with stat := .pending, req := some r })
  | _, _ => (s, e)

def State.redoChan (s : State) (q : Bool) : State :=
  let x := s.ctx.chan q
  let (s, es) := x.ents.foldl (fun (acc : State × List QEntry) e =>
    let (s, e) := acc.1.redoEntry e
    (s, acc.2 ++ [e])) (s, [])
  s.updCtx fun c => c.setChan q { x with ents := es }

/-- On a resumption of a context the loads of its faulted entries issue again; their watchpoints have been met already. -/
def State.redoFaults (s : State) (core ctx : Nat) : State :=
  let old := s.cur
  let skip := (s.ctxAt core ctx).dbgSkip
  let s := { s with cur := { old with core := core, ctx := ctx, before := none } }
  let s := ((s.updCtx fun c => { c with dbgSkip := some c.pc }).redoChan false).redoChan true
  { s.updCtx fun c => { c with dbgSkip := skip } with cur := old }

end Sys2Proof.Machine
end

