-- ==== Sys2Proof/Machine/Store.lean ====
section
/-! DEFINITION. The T slot's stores (R184) and the walker's store (R183). -/

namespace Sys2Proof.Machine

/-- Places the units of a store: the scratchpad takes them at issue (R173), any other space through the core path's T queue
(R300, R304).  The flags of its conversion become visible when it is performed: in the scratchpad in the third cycle after issue
(R108, R173, R187). -/
def State.storeUnits (s : State) (q : MemReq) (us : List SUnit) (fl : Flags) : State :=
  let c := s.ctx
  if q.space = .sp then
    let s := us.foldl State.putUnit s
    if fl = 0 then s else s.updCtx fun c => { c with late := c.late ++ [⟨s.core.cycle + 3, fl, s.cur.addr, true⟩] }
  else
    s.updCore s.cur.core fun k => { k with stq := k.stq ++ [⟨s.cur.ctx, c.tk.serial, c.tk.job, us, q.scope, fl, s.cur.addr, true⟩] }

/-- The trap a store takes of its own: its faults are precise (R184). -/
def State.storeTrap (s : State) (part : Nat) (q : MemReq) : Option Trap :=
  match (s.access part q false true).2 with
  | .trap t => some t
  | .fault t => some t
  | _ => none

/-- The check of a store's place, which stands beside the trap of a data source that holds no value (R212). -/
def State.storeFree (s : State) (q : MemReq) (addr : List Sel) : Option Trap :=
  if s.ctx.missing s.cur addr then none else s.storeTrap partT q

/-- A store whose data are a pattern and a mask by byte of the access. -/
def State.store (s : State) (q : MemReq) (data : MemReq → Nat × Nat × Flags × List Nat) : State :=
  match s.access partT q false true with
  | (s, .ok r) =>
    let (img, mask, fl, sc) := data r
    s.storeUnits r (r.units img mask sc) fl
  | (s, _) => s

/-- Scalar data of n bytes. -/
def scalarData (n : Nat) (x : Word) : MemReq → Nat × Nat × Flags × List Nat :=
  fun _ => (x.toNat % 2 ^ (8 * n), 2 ^ (8 * n) - 1, 0, [])

/-- Vector data, converted to the memory format (R171). -/
def vectorData (x : Vec) : MemReq → Nat × Nat × Flags × List Nat :=
  fun r => match r.shape with
    | .vector ty _ => storeVec r ty x
    | _ => (0, 0, 0, [])

/-! Where each store goes. -/

def State.stsReq (s : State) (op : ROp) : MemReq :=
  scalarReq op.md (s.ctx.memAddr s.cur op.xa op.xb) (s.ctx.guard op.pred op.pn) s.cur.scope
def State.stvReq (s : State) (op : ROp) : MemReq :=
  s.ctx.vectorReq op.md (s.ctx.memAddr s.cur op.xa op.xb) (s.ctx.lanes op.pred op.pn) s.cur.scope
/-- Lane k at a + sext(lane k of b). -/
def State.stgReq (s : State) (op : ROp) : MemReq :=
  laneReq op.md (s.ctx.srcS s.cur op.xa) (s.ctx.lanes op.pred op.pn) s.cur.scope fun k =>
    s.ctx.srcS s.cur op.xa + BitVec.ofInt 64 (sextN 32 (vlane (s.ctx.srcV s.cur op.xb) k))
def State.stwReq (s : State) (op : ROp) : MemReq :=
  s.ctx.walkReq (s.ctx.walker (selNum op.xa)) op.pred op.pn s.cur.scope

/-- STS (R184). -/
def execSts (op : ROp) (s : State) : Out :=
  let q := s.stsReq op
  s.sources (free := s.storeFree q [op.xa, op.xb]) partT [(.s, op.xa), (.s, op.xb), (.s, op.xc)] (s.storeTrap partT q) fun c =>
    s.store q (scalarData (mdBytes op.md) (c.srcS s.cur op.xc))

/-- STV (R184). -/
def execStv (op : ROp) (s : State) : Out :=
  let q := s.stvReq op
  s.sources (free := s.storeFree q [op.xa, op.xb]) partT [(.s, op.xa), (.s, op.xb), (.v, op.xc)] (s.storeTrap partT q) fun c =>
    s.store q (vectorData (c.srcV s.cur op.xc))

/-- STP (R184): the eight bytes of a predicate. -/
def execStp (op : ROp) (s : State) : Out :=
  let q := s.stsReq op
  s.sources (free := s.storeFree q [op.xa, op.xb]) partT [(.s, op.xa), (.s, op.xb), (.p, op.xc)] (s.storeTrap partT q) fun c =>
    s.store q (scalarData 8 (c.pGet (selNum op.xc)))

/-- STG (R184): lanes ascending, so the highest lane's data stands. -/
def execStg (op : ROp) (s : State) : Out :=
  let q := s.stgReq op
  s.sources (free := s.storeFree q [op.xa, op.xb]) partT [(.s, op.xa), (.v, op.xb), (.v, op.xc)] (s.storeTrap partT q) fun c =>
    match s.access partT q false true with
    | (s, .ok r) => s.storeUnits r (laneUnits r (c.srcV s.cur op.xc)) 0
    | (s, _) => s

/-- STW (R183): as STS or STV under the template, then a step whatever the guard. -/
def execStw (op : ROp) (s : State) : Out :=
  let c := s.ctx
  let k := selNum op.xa
  let w := c.walker k
  let q := s.stwReq op
  let own := match w.trapOf partT k q.active with | some t => some t | none => s.storeTrap partT q
  s.sources (free := own) partT [(if w.vec then .v else .s, op.xc)] own fun c =>
    let data := match q.shape with
      | .vector _ _ => vectorData (c.srcV s.cur op.xc)
      | _ => scalarData (mdBytes w.lmod) (c.srcS s.cur op.xc)
    (s.store q data).stepWalker partT k 1

end Sys2Proof.Machine
end

