-- ==== Sys2Proof/Machine/Atomic.lean ====
section
/-! DEFINITION. The T slot's atomics (R185, R186, R312). -/

namespace Sys2Proof.Machine

/-- The new value of an atomic from the old value, the operand and the compare value; none where nothing is written. -/
def amoNew (k : AKind) (n : Nat) (uns : Bool) (m c b : Nat) : Option Nat × Flags :=
  let w := 8 * n
  let c := c % 2 ^ w
  let less (x y : Nat) : Bool := if uns then decide (x < y) else decide (sextN w x < sextN w y)
  match k with
  | .aadd => (some ((m + c) % 2 ^ w), 0)
  | .afadd =>
    let (v, e) := (decodeFmt .f32 m).1.add false (decodeFmt .f32 c).1
    let (x, e2) := rneF32 (if v.isZero then XVal.zero else v)
    (some x, e ||| e2)
  | .amin => (some (if less c m then c else m), 0)
  | .amax => (some (if less m c then c else m), 0)
  | .axch => (some c, 0)
  | .acas => (if m = b % 2 ^ w then some c else none, 0)
  | .aand => (some (m &&& c), 0)
  | .aor => (some (m ||| c), 0)
  | .axor => (some (m ^^^ c), 0)

/-- Where an atomic goes. -/
def State.atomReq (s : State) (op : ROp) : MemReq :=
  ⟨mdSpace op.md, .scalar (mdBytes op.md) false, s.ctx.srcS s.cur op.xa, if s.ctx.guard op.pred op.pn then 1 else 0, [], s.cur.scope, [], 0,
    false⟩

/-- An atomic at issue (R185, R186): its place in q1 is taken, its address checked; it is performed at the close. -/
def atomicOp (k : AKind) (op : ROp) (s : State) : Out :=
  let c := s.ctx
  let a := c.srcS s.cur op.xa
  let n := mdBytes op.md
  let q := s.atomReq op
  let x := c.q1
  let place := match (s.access partT q true true).2 with
    | .trap t => some t
    | .fault t => some t
    | _ => none
  let push := s.pushTrap partT true
  let own : Option Trap := match push with
    | some t => lowerTrap place (some t)
    | none => if x.full then none else place
  s.sources (free := if c.missing s.cur [op.xa] then push else own) partT ([(.s, op.xa), (.s, op.xc)] ++ (if k = .acas then [(.s, op.xb)] else [])) own fun c =>
    if x.full then s
    else
      match s.access partT q true true with
      | (s, .ok r) =>
        let pa := (r.runs.head?.map Run.pa).getD 0
        let key := (r.runs.head?.map Run.key).getD 0
        let mlog := (r.runs.head?.map Run.mlog).getD false
        let s := s.pushEntry true ⟨false, 0, .atomic, some r, 0, s.cur.addr⟩
        s.updCtx fun d => { d with irrev := d.irrev ++ [.a
          { kind := k, space := r.space, addr := a, place := pa, key := key, mlog := mlog, n := n
            opnd := c.srcS s.cur op.xc, cmp := c.srcS s.cur op.xb, uns := op.md.getLsbD 5, scope := s.cur.scope
            bundle := s.cur.addr }] }
      | (s, _) => s.pushEntry true ⟨false, 0, .ready, none, 0, s.cur.addr⟩

def execAadd (op : ROp) (s : State) : Out := atomicOp .aadd op s
def execAfadd (op : ROp) (s : State) : Out := atomicOp .afadd op s
def execAmin (op : ROp) (s : State) : Out := atomicOp .amin op s
def execAmax (op : ROp) (s : State) : Out := atomicOp .amax op s
def execAxch (op : ROp) (s : State) : Out := atomicOp .axch op s
def execAcas (op : ROp) (s : State) : Out := atomicOp .acas op s
def execAand (op : ROp) (s : State) : Out := atomicOp .aand op s
def execAor (op : ROp) (s : State) : Out := atomicOp .aor op s
def execAxor (op : ROp) (s : State) : Out := atomicOp .axor op s

end Sys2Proof.Machine
end

