-- ==== Sys2Proof/Machine/Trace.lean ====
section
/-! DEFINITION. Bellows records, credits and counters (R331 to R341), and the fault queue (R327). -/

namespace Sys2Proof.Machine

/-! Source units (R332). -/

def srcCore (core : Nat) : Nat := dieOf core * 2 ^ 13 + core % 64
def srcCopy (cluster : Nat) : Nat := cluster / 8 * 2 ^ 13 + 0x040 + cluster % 8
def srcBarrier (cluster : Nat) : Nat := cluster / 8 * 2 ^ 13 + 0x048 + cluster % 8
def srcHearth (die : Nat) : Nat := die * 2 ^ 13 + 0x050
def srcSink (die : Nat) : Nat := die * 2 ^ 13 + 0x053
def srcIo (unit : Nat) : Nat := 4 * 2 ^ 13 + unit
def srcAnvil : Nat := srcIo 0x100
def srcColl : Nat := srcIo 0x101
def srcSniras : Nat := srcIo 0x102
def srcHost : Nat := srcIo 0x103
def srcTime : Nat := srcIo 0x104

/-- The die whose sink and stream table serve a source (R335). -/
def sinkOf (src : Nat) : Nat := if src / 2 ^ 13 < 4 then src / 2 ^ 13 else 0

/-- A tenant's stream descriptor on a die (R335). -/
def State.streamAt (s : State) (die tenant : Nat) : Nat := (s.reg (ctlBase die + 0x100)).toNat + 128 * tenant
def State.stream (s : State) (die tenant : Nat) : Nat := ofBytes (s.bytesAt s.key0 (s.streamAt die tenant) 128)
def streamMode (d : Nat) : Nat := bitsOf d 351 350
def streamType (d t : Nat) : Bool := d / 2 ^ (512 + t) % 2 == 1
def streamAllow (d c : Nat) : Bool := d / 2 ^ (768 + c) % 2 == 1

/-- Lossless mode, which acts as lossy without feature 2 (R363). -/
def State.lossless (s : State) (d : Nat) : Bool := streamMode d == 2 && s.feat.getLsbD 2

/-- R336's filter; PROBE_DENIED passes whenever the stream is not off. -/
def recordPasses (d typ : Nat) : Bool :=
  (streamMode d == 1 || streamMode d == 2) && (streamType d typ || typ == 0x12)

def State.source (s : State) (src : Nat) : TraceSrc := tget TraceSrc.zero s.trace src
def State.setSource (s : State) (src : Nat) (r : TraceSrc) : State := { s with trace := tset s.trace src r }

/-- A record without its timestamp, sequence number and ADJ flag (R331). -/
def recordBody (src tenant typ payload xdata flags : Nat) : BitVec 256 :=
  BitVec.ofNat 256 (xdata % 256 * 2 ^ 248 + flags % 256 * 2 ^ 240 + tenant % 256 * 2 ^ 216 + src % 2 ^ 16 * 2 ^ 200 +
    typ % 256 * 2 ^ 192 + payload % 2 ^ 128 * 2 ^ 64)

/-- Whether a source is a core's. -/
def isCoreSrc (src : Nat) : Bool := decide (src / 2 ^ 13 < 4) && decide (src % 2 ^ 13 < 0x40)

/-- The time base of a source in its present cycle (R330): a core counts its own cycles. -/
def State.nowOf (s : State) (src : Nat) : Nat :=
  if isCoreSrc src then s.coreNow (src / 2 ^ 13 * 64 + src % 2 ^ 13) else s.now

/-- What the arrival of a message that carries a timestamp causes (R333). -/
def State.caused (s : State) (sent : Nat) (f : State → State) : State :=
  let t := f { s with cur := { s.cur with least := sent + 32 } }
  { t with cur := { t.cur with least := s.cur.least } }

/-- Hands a record with a sequence number to the sink, under a timestamp that never decreases (R333); a credit is taken (R337).
`least` is the sent timestamp plus 32 of a cause on another die, or 0.  The timestamp of a PKT_SEND, type 0x31, is kept for its packet
(R407). -/
def State.deliverAs (s : State) (src tenant sq : Nat) (body : BitVec 256) (least : Nat) : State :=
  let r := s.source src
  let ts := Max.max (Max.max (s.nowOf src) r.last) least
  let adj := if s.nowOf src < least then 1 else 0
  let full := body.toNat + adj * 2 ^ 240 + sq % 2 ^ 16 * 2 ^ 224 + ts % 2 ^ 64
  let die := sinkOf src
  let sends := if bitsOf full 199 192 = 0x31 then r.sends ++ [(tenant, ts)] else r.sends
  let s := s.setSource src { r with last := ts, used := r.used + 1, sends := sends }
  { s with sinks := tset s.sinks die (tget [] s.sinks die ++ [⟨src, tenant, BitVec.ofNat 256 full⟩]) }

/-- The next sequence number of a source for a tenant, and the source after it (R336). -/
def State.takeSeq (s : State) (src tenant : Nat) : Nat × State :=
  let r := s.source src
  let sq := tget 0 r.seq tenant
  (sq, s.setSource src { r with seq := tset r.seq tenant ((sq + 1) % 2 ^ 16) })

/-- Hands a record to the sink under the source's next sequence number for the tenant. -/
def State.deliver (s : State) (src tenant : Nat) (body : BitVec 256) (least : Nat) : State :=
  let (sq, s) := s.takeSeq src tenant
  s.deliverAs src tenant sq body least

/-- Counts a dropped record (R338); its sequence number is spent (R336). -/
def State.dropRecord (s : State) (src tenant : Nat) : State :=
  let r := s.source src
  let sq := tget 0 r.seq tenant
  let now := s.nowOf src
  let (n, first, _) := tget (0, now, 0) r.drops tenant
  (s.setSource src { r with
    seq := tset r.seq tenant ((sq + 1) % 2 ^ 16)
    drops := tset r.drops tenant (n + 1, if n = 0 then now else first, now) }).count tenant (sinkOf src) 0x0B 1

/-- The body of a DROP record: how many, and the first and last timestamp (R339). -/
def dropBody (src tenant n first last flags : Nat) : BitVec 256 :=
  recordBody src tenant 0x11 (n % 2 ^ 32 + Min.min (last - first) (2 ^ 32 - 1) * 2 ^ 32 + first % 2 ^ 64 * 2 ^ 64) 0 flags

/-- A DROP record stands before the next delivered record of its ring (R338), under the number of the last record dropped: it spends
none of its own, as the worked example after R345 shows. -/
def State.flushDrops (s : State) (src tenant : Nat) : State :=
  let r := s.source src
  match tfind r.drops tenant with
  | none => s
  | some (n, first, last) =>
    let s := s.setSource src { r with drops := terase r.drops tenant }
    if streamType (s.stream (sinkOf src) tenant) 0x11 then
      s.deliverAs src tenant ((tget 0 r.seq tenant + 2 ^ 16 - 1) % 2 ^ 16)
        (dropBody src tenant n first last (if s.lossless (s.stream (sinkOf src) tenant) then 2 else 0)) 0
    else s

/-- A record leaves with what it owes before it; without a credit for it, it is still to leave. -/
def State.sendRecord (s : State) (src tenant : Nat) (body : BitVec 256) (least : Nat) : State × Bool :=
  if 8 ≤ (s.source src).used then (s, false)
  else
    let s := s.flushDrops src tenant
    if 8 ≤ (s.source src).used then (s, false) else (s.deliver src tenant body least, true)

/-- Emits a record (R336 to R338). -/
def State.emitX (s : State) (src tenant typ payload xdata flags least0 : Nat) : State :=
  let least := Max.max least0 s.cur.least
  let d := s.stream (sinkOf src) tenant
  if !recordPasses d typ then s
  else
    let ll := s.lossless d
    let body := recordBody src tenant typ payload xdata (flags + if ll then 2 else 0)
    let r := s.source src
    if ll then
      match (if r.waiting.isEmpty then s.sendRecord src tenant body least else (s, false)) with
      | (s, true) => s
      | (s, false) =>
        let r := s.source src
        s.setSource src { r with
          waiting := r.waiting ++ [(tenant, body, least)]
          stallTs := if r.waiting.isEmpty then some (s.nowOf src) else r.stallTs
          stallN := if r.waiting.isEmpty then 0 else r.stallN }
    else
      match s.sendRecord src tenant body least with
      | (s, true) => s
      | (s, false) => s.dropRecord src tenant

def State.emit (s : State) (src tenant typ payload : Nat) : State := s.emitX src tenant typ payload 0 0 0

/-- Whether a source stalls for want of a credit (R337). -/
def State.stalled (s : State) (src : Nat) : Bool := !(s.source src).waiting.isEmpty

/-- Records that waited leave while there are credits. -/
def State.drainWaiting (s : State) (src : Nat) : Nat → State
  | 0 => s
  | n + 1 =>
    let r := s.source src
    match r.waiting with
    | [] => s
    | (t, b, least) :: rest =>
      match s.sendRecord src t b least with
      | (s, true) => State.drainWaiting (s.setSource src { s.source src with waiting := rest }) src n
      | (s, false) => s

/-- A credit returns (R337).  DESIGN CHOICE (log entry 181): a stall ends when there are credits for all that its end sends, a DROP record
that the ring is owed, TRACE_STALL and the record that waited; the records behind it leave while there are credits, and a new stall begins
with the first that has none. -/
def State.creditBack (s : State) (src : Nat) : State :=
  let r := s.source src
  let s := s.setSource src { r with used := r.used - 1 }
  match r.stallTs, r.waiting with
  | some ts, (t, b, least) :: rest =>
    let d := s.stream (sinkOf src) t
    let note := recordPasses d 0x10
    let owed := (if note then 1 else 0) + (if (tfind r.drops t).isSome && streamType d 0x11 then 1 else 0) + 1
    if 8 < r.used - 1 + owed then s
    else
      let s := s.flushDrops src t
      let s := if note then s.deliver src t (recordBody src t 0x10 (r.stallN % 2 ^ 32 + ts % 2 ^ 64 * 2 ^ 64) 0 2) 0 else s
      let s := (s.setSource src { s.source src with waiting := rest }).deliver src t b least
      let s := s.drainWaiting src rest.length
      let x := s.source src
      s.setSource src { x with stallTs := if x.waiting.isEmpty then none else some (s.nowOf src), stallN := 0 }
  | _, _ => s

/-- Tenant of a job; 0 for the device. -/
def State.tenantOf (s : State) (job : Nat) : Nat := ((tfind s.jobs job).map Job.tenant).getD 0

/-- A record of a core that concerns one of its contexts; RPL marks a replay (R331). -/
def State.emitCtx (s : State) (core ctx typ payload xdata : Nat) : State :=
  let c := s.ctxAt core ctx
  s.emitX (srcCore core) c.tk.tenant typ payload xdata (if c.replay then 4 else 0) 0

/-! The fault queue. -/

def State.dieAt (s : State) (d : Nat) : Die := tget Die.reset s.dies d
def State.updDie (s : State) (d : Nat) (f : Die → Die) : State := { s with dies := tset s.dies d (f (s.dieAt d)) }
def State.clusterAt (s : State) (k : Nat) : Cluster := tget Cluster.reset s.clusters k
def State.updCluster (s : State) (k : Nat) (f : Cluster → Cluster) : State :=
  { s with clusters := tset s.clusters k (f (s.clusterAt k)) }

/-- Writes a fault record at FQBASE + 32 · FQHEAD and advances FQHEAD (R327); FAULT_QUEUED names the index (R339), and follows a message that
caused it (R333). -/
def State.putFault (s : State) (die tenant : Nat) (body : BitVec 256) (w : Susp) (least : Nat) : State :=
  let base := (s.reg (ctlBase die + 0x40)).toNat
  let h := (s.reg (ctlBase die + 0x48)).toNat % 256
  let s := s.storeBytes s.key0 (base + 32 * h) (toBytes body.toNat 32)
  let s := s.setReg (ctlBase die + 0x48) (BitVec.ofNat 64 ((h + 1) % 256))
  (s.updDie die fun d => { d with faults := tset d.faults h (w, body.setWidth 64), fqN := d.fqN + 1 }).emitX
    (bitsOf body.toNat 175 160) tenant 0x40 (bitsOf body.toNat 63 0 + h * 2 ^ 64) 0 0 least

/-- A unit's fault (R327): its record is written, or waits while 256 records are unread. -/
def State.queueFault (s : State) (die unit tenant ref asid cause sub : Nat) (write : Bool) (va : Word) (w : Susp) : State :=
  let body := BitVec.ofNat 256 (ref % 2 ^ 24 * 2 ^ 176 + unit % 2 ^ 16 * 2 ^ 160 + asid % 2 ^ 16 * 2 ^ 144 +
    (cause % 16 * 16 + sub % 16) * 2 ^ 128 + (if write then 2 ^ 64 else 0) + va.toNat)
  if (s.dieAt die).fqN < 256 then s.putFault die tenant body w s.cur.least
  else s.updDie die fun d => { d with fqWait := d.fqWait ++ [(body, tenant, w, s.cur.least)] }

end Sys2Proof.Machine
end

