-- ==== Sys2Proof/Machine/Cycle.lean ====
section
/-! DEFINITION. A cycle of a core, with the class in which its matrix engine spends it (R99, R247, R337, R340, R341); rewinds with
their record (R219); and the check of register words on a wake (R249). -/

namespace Sys2Proof.Machine

/-! The classes of R341, numbered in the order of the MXSUM payload. -/

def mxComputing : Nat := 0
def mxLoading : Nat := 1
def mxAwaiting : Nat := 2
def mxDrain : Nat := 3
def mxWithout : Nat := 4
def mxHeld : Nat := 5

/-- The class of a step of a command, if its steps have one. -/
def MKind.class : MKind → Option Nat
  | .mma _ _ _ _ _ _ | .mmaq _ _ _ _ => some mxComputing
  | .omld _ | .omst _ | .tld | .tst | .tsave => some mxLoading
  | .tdrain _ _ _ => some mxDrain
  | _ => none

/-- BIDX of a bundle of an address space: its place in the sealed program that holds it (R341; DEDUCED, the program's base is PROG). -/
def State.bidxOf (s : State) (asid : Nat) (addr : Word) : Nat :=
  match s.progs.find? fun p => p.asid == asid && decide (p.prog.toNat ≤ addr.toNat) &&
      decide (addr.toNat < p.prog.toNat + 0x200 + 512 * bitsOf p.header.toNat 223 192) with
  | some p => (addr.toNat - p.prog.toNat) / 64 % 2 ^ 26
  | none => addr.toNat / 64 % 2 ^ 26

/-- What a cycle is charged to: context, BIDX and tenant. -/
def State.mxKey (s : State) (c : MCmd) : Nat × Nat × Nat := (c.ctx, s.bidxOf c.x.asid c.addr, c.x.tenant)

/-- The command at the step stage. -/
def Core.mxStep (k : Core) : Option MCmd :=
  (k.mq.find? fun e => e.start.isSome && decide (k.cycle ≤ e.last)).map MQEntry.cmd

/-- A drain whose steps are over and whose writes are not. -/
def Core.mxDraining (k : Core) : Option MCmd :=
  (k.mq.find? fun e => e.start.isSome && e.cmd.kind.class == some mxDrain).map MQEntry.cmd

/-! Handles (R282, R283). -/

def Core.handle (k : Core) (h : Nat) : Handle := tget Handle.zero k.handles h
/-- A handle changes state: a context that waits for that state is satisfied, even if the handle leaves it again (R129). -/
def Core.setHandle (k : Core) (h : Nat) (x : Handle) : Core :=
  { k with
    handles := tset k.handles h x
    ctxs := k.ctxs.map fun (y : Nat × Ctx) =>
      (y.1, match y.2.waitOp with
        | some (.handle h' st _) => if y.2.stat = .waiting ∧ h' = h ∧ st = x.st then { y.2 with waitHit := true } else y.2
        | _ => y.2) }

/-- A copy, a packet read or a remote operation ends for its handle: it enters FULL, and with a release pending leaves it at once for DRAINING
(R282), which a context that waits for FULL has then met (R129). -/
def Core.fillHandle (k : Core) (h : Nat) : Core :=
  let x := k.handle h
  let k := k.setHandle h { x with st := .full }
  if x.rel.isSome then k.setHandle h { x with st := .draining } else k

/-- The oldest COPYM of a core whose handle is FILLING. -/
def State.mxCopym (s : State) (core : Nat) : Option CopyIn :=
  ((s.clusterAt (clusterOf core)).copies.find? fun y => y.inp.core == core && y.inp.cmd.kind == .copym &&
    (y.hnd.map fun h => ((s.coreAt core).handle h).st == .filling).getD false).map Copying.inp

/-- The class of a core's present cycle, and what it is charged to (R341). -/
def State.mxClass (s : State) (core : Nat) : Nat × (Nat × Nat × Nat) :=
  let k := s.coreAt core
  let last : Nat × Nat × Nat := match k.mxLast with | some c => s.mxKey c | none => (0, 0x3FFFFFF, 0)
  if s.stalled (srcCore core) then (mxHeld, match k.mxStep with | some c => s.mxKey c | none => last)
  else
    match k.mxStep.bind fun c => c.kind.class.map fun n => (n, s.mxKey c) with
    | some y => y
    | none =>
      match k.mxDraining, s.mxCopym core with
      | some c, _ => (mxDrain, s.mxKey c)
      | none, some i => if k.mxStep.isNone then (mxAwaiting, (i.ctx, s.bidxOf i.view.x.asid i.cmd.addr, i.view.x.tenant)) else (mxWithout, last)
      | none, none => (mxWithout, last)

/-- Adds to a count of an entry. -/
def MxEnt.add (e : MxEnt) (cls n : Nat) : MxEnt := { e with counts := e.counts.modify cls (· + n) }

/-- Charges n cycles: 16 entries are kept, and a new key that finds them taken goes to BIDX 0x3FF_FFFE. -/
def mxAdd (l : List MxEnt) (cls n ctx bidx tenant : Nat) : List MxEnt :=
  let is (b : Nat) (e : MxEnt) : Bool := e.ctx == ctx && e.bidx == b && e.tenant == tenant
  let put (b : Nat) : List MxEnt :=
    if l.any (is b) then l.map fun e => if is b e then e.add cls n else e
    else l ++ [(⟨ctx, b, tenant, [0, 0, 0, 0, 0, 0]⟩ : MxEnt).add cls n]
  if l.any (is bidx) || decide ((l.filter fun e => e.bidx != 0x3FFFFFE).length < 16) then put bidx else put 0x3FFFFFE

/-- A stalled core's matrix engine stands still (R337). -/
def Core.mxWait (k : Core) : Core :=
  { k with mq := k.mq.map fun e => if e.start.isSome && decide (k.cycle ≤ e.last) then { e with last := e.last + 1 } else e }

/-- A cycle of a source's stall is counted (R337, R340). -/
def State.stallCycle (s : State) (src : Nat) : State :=
  let r := s.source src
  match r.waiting with
  | [] => s
  | (t, _, _) :: _ => (s.setSource src { r with stallN := r.stallN + 1 }).count t (sinkOf src) 0x0A 1

/-- One cycle goes by on a core; it counts for the holder of the port, and for the stall of the core's source (R340). -/
def State.cycle (s : State) (core : Nat) : State :=
  let (cls, ctx, bidx, tenant) := s.mxClass core
  let held := s.stalled (srcCore core)
  let s := match (s.coreAt core).port with
    | some h => s.count (s.ctxAt core h).tk.tenant (dieOf core) 0x01 1
    | none => s
  ((s.stallCycle (srcCore core)).count tenant (dieOf core) (4 + cls) 1).updCore core fun k =>
    let k := { k with mxSum := mxAdd k.mxSum cls 1 ctx bidx tenant }
    (if held then k.mxWait else k).tick

/-- n cycles go by. -/
def State.cycles (s : State) (core : Nat) : Nat → State
  | 0 => s
  | n + 1 => State.cycles (s.cycle core) core n

/-- A cycle that a context's count takes in (R50, R91): the flags that become visible in it come before those of the next (R108). -/
def State.countCycle (s : State) (core ctx : Nat) : State :=
  (s.updCtxAt core ctx fun c => (c.flagLate (s.coreAt core).cycle).advance 1).cycle core

/-- n of them. -/
def State.countCycles (s : State) (core ctx : Nat) : Nat → State
  | 0 => s
  | n + 1 => State.countCycles (s.countCycle core ctx) core ctx n

/-- The rest of a GAP runs on: its cycles count for the context that issued it (R50). -/
def State.runGap (s : State) (core ctx : Nat) : State :=
  (s.updCore core fun k => { k with gap := 0 }).countCycles core ctx (s.coreAt core).gap

/-! Errors and rewinds (R209, R219, R220, R339). -/

/-- ECC_CORR, and ECC_UNCORR with its action. -/
def State.emitCorr (s : State) (core ctx struct index : Nat) : State :=
  s.emitCtx core ctx 0x28 (index % 2 ^ 48 + struct % 256 * 2 ^ 48) 0
def State.emitUncorr (s : State) (core ctx struct index action : Nat) : State :=
  s.emitCtx core ctx 0x29 (index % 2 ^ 48 + struct % 256 * 2 ^ 48 + action * 2 ^ 56 + ctx * 2 ^ 59) 0

/-- The place of a word of stored memory, by the structure codes of R339: a word index within the core's own arrays or the cluster-shared
memory of its cluster, else a physical address (DESIGN CHOICE: the spec does not say where a word index counts from). -/
def eccPlace (core struct index : Nat) : Nat :=
  match struct with
  | 3 => clBase (clusterOf core) + 8 * (index % 2 ^ 19)
  | 4 => spBase core + 8 * (index % 0xC000)
  | 5 => lsBase core 0 + 8 * (index % 2 ^ 13)
  | 6 => omBase core 0 + 8 * (index % 2 ^ 15)
  | 7 => tileBase core 0 + 8 * (index % 2 ^ 12)
  | _ => index / 8 * 8

/-- Structures that hold stored memory (R220), and those that lie outside the cores. -/
def eccStored (struct : Nat) : Bool := decide (struct ≤ 7) || struct == 13
def eccShared (struct : Nat) : Bool := decide (struct ≤ 3) || struct == 13

/-- The source that records an error of a structure outside the cores (DESIGN CHOICE): the memory controller of the address's die, for
cluster-shared memory that of the core's die, for the Crucible the I/O die's router. -/
def eccSource (core struct index : Nat) : Nat :=
  if struct = 13 then srcAnvil
  else if struct = 3 then dieOf core * 2 ^ 13 + 0x052
  else ((dieOfPA index).getD 0) * 2 ^ 13 + 0x052

/-- The structure that holds a physical address, as R339 numbers them. -/
def structOf (pa : Nat) : Nat :=
  match plocOf pa with
  | .dscr _ _ => 2
  | .crucible _ => 13
  | _ => 0

/-- The flags of stores that a rewound segment has issued go with it: the replay raises them again (R102). -/
def Core.dropFlags (k : Core) (ctx : Nat) : Core :=
  { k with stq := k.stq.map fun p => if p.ctx == ctx && p.opn then { p with fl := 0 } else p }

/-- The rewind of a context for a reason of REWIND (R219, R339); the record carries RPL as it stood before. -/
def State.rewindCtx (s : State) (core ctx reason : Nat) : State :=
  let c := s.ctxAt core ctx
  let off := sextN 64 (c.pc - c.csr.segpc).toNat / 64
  let offN := if -(2 ^ 23) ≤ off ∧ off < 2 ^ 23 then toTwos 24 off else 0x800000
  let pairs := (c.pend.filter fun p => p.writes.any fun w => match w with | .pair _ _ _ => true | _ => false).length
  let s := s.emitCtx core ctx 0x04 (ctx + reason * 8 + c.csr.segpc.toNat / 64 * 64 + offN * 2 ^ 64 +
    Min.min c.held.length 255 * 2 ^ 88 + Min.min pairs 63 * 2 ^ 96) 0
  let s := s.count c.tk.tenant (dieOf core) 0x03 1
  (s.updCtxAt core ctx fun c => c.rewind (reason = 0)).updCore core fun k =>
    let k := k.dropFlags ctx
    if k.port = some ctx then { k with gap := 0 } else k

/-- The bank that holds a register word (R247): 0 s, 1 p, 2 v by physical number, 3 d, 4 n. -/
def wordBank (kind num : Nat) : Nat :=
  match kind with
  | 0 | 1 => 0
  | 2 => 1 + num / 16
  | 3 => if num < 16 then 5 else 6
  | _ => 7

/-- The word index that a record gives a register word (DESIGN CHOICE: the spec numbers no register words). -/
def wordIndex (kind num chunk : Nat) : Nat := 4096 * kind + 64 * num + chunk

/-- The words of some banks of a context are checked on a wake (R249): a single-bit error is corrected and counted; a double-bit error is
recorded, makes a pending "continue" a "restart", and stays until the word is written or the context leaves. -/
def State.checkBanks (s : State) (core ctx : Nat) (banks : BitVec 8) : State :=
  let c := s.ctxAt core ctx
  let hit (e : Nat × Nat × Nat × Bool) : Bool := banks.getLsbD (wordBank e.1 e.2.1)
  let s := s.updCtxAt core ctx fun c => { c with
    ecc := c.ecc.filter fun e => !(hit e) || e.2.2.2
    act := if c.act = 2 && c.ecc.any (fun e => hit e && e.2.2.2) then 1 else c.act }
  (c.ecc.filter hit).foldl (fun s e =>
    if e.2.2.2 then s.emitUncorr core ctx 8 (wordIndex e.1 e.2.1 e.2.2.1) 0
    else s.emitCorr core ctx 8 (wordIndex e.1 e.2.1 e.2.2.1)) s

/-- What ends a bundle takes effect in the last cycle that went by (R230): the records it makes carry that cycle's time. -/
def State.inLast (s : State) (core : Nat) (f : State → State) : State :=
  let t := f (s.updCore core fun k => { k with cycle := k.cycle - 1 })
  if (s.coreAt core).cycle = 0 then t else t.updCore core fun k => { k with cycle := k.cycle + 1 }

end Sys2Proof.Machine
end

