-- ==== Sys2Proof/Machine/Tensor.lean ====
section
/-! DEFINITION. Tensor records (R26, R27), the places of their elements (R11, R19), band scales (R15) and the conversion of
single elements and FP4 blocks (R23, R25). -/

namespace Sys2Proof.Machine

/-- The fields of a tensor record (R26). -/
def tnRank (r : BitVec 512) : Nat := bitsOf r.toNat 445 443
def tnRm (r : BitVec 512) : Nat := bitsOf r.toNat 442 440
def tnBandp (r : BitVec 512) : Nat := bitsOf r.toNat 439 376
def tnSeed (r : BitVec 512) : Nat := bitsOf r.toNat 375 344
def tnClamp (r : BitVec 512) : Nat := bitsOf r.toNat 343 312
def tnFill (r : BitVec 512) : Nat := bitsOf r.toNat 311 280
def tnBase (r : BitVec 512) : Nat := bitsOf r.toNat 63 0
/-- Stride of dimension k, 1 to 3. -/
def tnSd (r : BitVec 512) (k : Nat) : Int := sextN 40 (bitsOf r.toNat (40 * k + 159) (40 * k + 120))
/-- Extent of dimension k; at or beyond RANK it is 1. -/
def tnExt (r : BitVec 512) (k : Nat) : Nat := if k < tnRank r then bitsOf r.toNat (24 * k + 87) (24 * k + 64) else 1

/-- R27's malformed records. -/
def tnBad (r : BitVec 512) : Bool :=
  let cl := tnClamp r
  bitsOf r.toNat 511 446 != 0 || tnRank r == 0 || decide (4 < tnRank r) || decide (4 < tnRm r) ||
  (List.range (tnRank r)).any (fun k => tnExt r k == 0) || tnBandp r % 2 == 1 ||
  (decide (2 ^ 31 < cl)) || bitsOf cl 30 23 == 255

/-- The generator a record loads (R22). -/
def tnGen (r : BitVec 512) : Word := lfsrSeed (BitVec.ofNat 64 (tnSeed r))

/-- Where an element lies: its byte address and, within the byte, its bit offset; and for GEO 001 the address of its block's
scale byte. -/
structure ElemPlace where
  va : Word
  sh : Nat
  scale : Option Word
  deriving DecidableEq, Repr

/-- Element number `i` of a run that begins at a byte address, in a format of width w (R11); on a GEO 001 page the run
continues from unit to unit (R19).  DESIGN CHOICE (log entry 189): so does a row that begins inside a block or among the scales. -/
def elemPlace (start : Word) (i w : Nat) (geo : Bool) : ElemPlace :=
  if geo then
    let u := start.toNat / 4096
    let k := start.toNat % 4096 * 2 + i
    let unit := (u + k / 6144) * 4096
    let j := k % 6144
    ⟨BitVec.ofNat 64 (unit + j / 2), 4 * (j % 2), some (BitVec.ofNat 64 (unit + 0xC00 + j / 8))⟩
  else ⟨start + BitVec.ofNat 64 (i * w / 8), i * w % 8, none⟩

/-- Start of the row with indices e1, e2, e3. -/
def tnRow (r : BitVec 512) (e1 e2 e3 : Int) : Word :=
  BitVec.ofInt 64 ((tnBase r : Int) + e1 * tnSd r 1 + e2 * tnSd r 2 + e3 * tnSd r 3)

/-- Whether an index vector lies within the extents. -/
def tnIn (r : BitVec 512) (e : List Int) : Bool :=
  (List.range 4).all fun k => decide (0 ≤ e.getD k 0) && decide (e.getD k 0 < tnExt r k)

/-- The band scale of a row from the entry's BF16 bits; 1.0 with no table (R15). -/
def bandValue (x : Option Nat) : XVal := match x with
  | none => .fin false 1 0
  | some b => (decodeFmt .bf16 b).1

/-- One element to a destination that is not a scaled block. -/
def convElem (src dst : Fmt) (mode : RMode) (cl : Clamp) (r : Nat) (v : XVal) (bits : Nat) : Nat × Flags :=
  if src = dst then convert src dst mode cl r bits else encodeFmt dst mode cl r v

/-- Clamp that engines with a tensor record apply (R23, R26). -/
def tnClampOf (r : BitVec 512) : Clamp := clampOfF32 (tnClamp r)

/-! Engine accesses to virtual memory. -/

/-- PERM bit 10 of the job whose address space an engine uses (R359; log entry 198); the supervisor needs none. -/
def State.crucibleOk (s : State) (x : XCtx) : Bool :=
  x.sup || s.jobs.any fun (y : Nat × Job) =>
    y.2.st == .running && y.2.asid == x.asid && y.2.tenant == x.tenant && y.2.root == x.root && y.2.perm.getLsbD 10

/-- A page as an engine of a die reaches it: a checked region from its own die only (R320), the Crucible by permission (R359). -/
def State.engPage (s : State) (die : Nat) (x : XCtx) (acc : XAcc) (va : Word) : State × (Page ⊕ (Nat × Nat × Word)) :=
  match s.walk x acc va with
  | (s, .fault c sub, _) => (s, .inr (c, sub, va))
  | (s, .ok p, _) =>
    if p.rchk && dieOfPA p.pa != some die then (s, .inr (0x08, 0x02, va))
    else if (match plocOf p.pa with | .crucible _ => !s.crucibleOk x | _ => false) then (s, .inr (0x09, 0x04, va))
    else (s, .inl p)

/-- The runs of parts of a range, or the first fault. -/
def State.engParts (s : State) (die : Nat) (x : XCtx) (acc : XAcc) : List (Nat × Word × Nat) → State × (List Run ⊕ (Nat × Nat × Word))
  | [] => (s, .inl [])
  | (off, va, n) :: t =>
    match s.engPage die x acc va with
    | (s, .inr f) => (s, .inr f)
    | (s, .inl p) =>
      match s.engParts die x acc t with
      | (s, .inr f) => (s, .inr f)
      | (s, .inl l) => (s, .inl (⟨off, va, p.pa, n, p.key, p.mlog⟩ :: l))

/-- Where n bytes of virtual memory lie for an engine. -/
def State.engRuns (s : State) (die : Nat) (x : XCtx) (acc : XAcc) (va : Word) (n : Nat) : State × (List Run ⊕ (Nat × Nat × Word)) :=
  s.engParts die x acc (pageParts (n / 4096 + 2) 0 va n)

/-- Whether n bytes at an offset of an access are poisoned, or read as poisoned under an EMPTY key (R220, R351). -/
def State.runsBad (s : State) (rs : List Run) (off n : Nat) : Bool :=
  rs.any fun r =>
    let lo := Max.max off r.off
    let hi := Min.min (off + n) (r.off + r.n)
    decide (lo < hi) && (s.isPoisoned (r.pa + (lo - r.off)) (hi - lo) || s.keyDead r.key r.pa)

/-- The bytes of runs. -/
def State.runsBytes (s : State) (rs : List Run) : List Byte := rs.flatMap fun r => s.placeBytes r.key r.pa r.n

/-- The bytes of runs, and whether one is poisoned. -/
def State.runsRead (s : State) (rs : List Run) : List Byte × Bool :=
  (s.runsBytes rs, rs.any fun r => s.isPoisoned r.pa r.n || s.keyDead r.key r.pa)

/-- The lines of a place whose bytes carry poison are marked (R220); `bad` tells it by offset and length within the place. -/
def State.markLines (s : State) (a n : Nat) (bad : Nat → Nat → Bool) : State :=
  (linesOf a n).foldl (fun s l =>
    let lo := Max.max a (64 * l)
    let hi := Min.min (a + n) (64 * l + 64)
    if bad (lo - a) (hi - lo) then s.poisonRange (64 * l) 64 else s) s

/-- Writes bytes to runs, with the migration log (R329) and poison. -/
def State.runsWrite (s : State) (rs : List Run) (bs : List Byte) (bad : Nat → Nat → Bool) : State :=
  rs.foldl (fun s r =>
    let s := s.logDirty ⟨r.pa, 0, 0, r.key, r.mlog, false⟩ r.n
    (s.storeAt r.key r.pa ((bs.drop r.off).take r.n)).markLines r.pa r.n fun o n => bad (r.off + o) n) s

/-- A read of n bytes of virtual memory by an engine: the bytes and whether one is poisoned, or the fault. -/
def State.engRead (s : State) (die : Nat) (x : XCtx) (va : Word) (n : Nat) : State × ((List Byte × Bool) ⊕ (Nat × Nat × Word)) :=
  match s.engRuns die x .read va n with
  | (s, .inr f) => (s, .inr f)
  | (s, .inl rs) => (s, .inl (s.runsBytes rs, s.runsBad rs 0 n))

/-- A write of bytes of virtual memory by an engine: made whole, or not at all when one of its pages faults (R257, R281); one under an EMPTY
key fails as a machine check (R351), cause 0x0E. -/
def State.engWrite (s : State) (die : Nat) (x : XCtx) (va : Word) (bs : List Byte) (bad : Nat → Nat → Bool) :
    State × Option (Nat × Nat × Word) :=
  match s.engRuns die x .write va bs.length with
  | (s, .inr f) => (s, some f)
  | (s, .inl rs) =>
    match rs.find? fun r => s.keyDead r.key r.pa with
    | some r => (s, some (0x0E, 0x01, BitVec.ofNat 64 r.pa))
    | none => (s.runsWrite rs bs bad, none)

/-- Bytes that carry no poison. -/
def clean : Nat → Nat → Bool := fun _ _ => false

/-- Writes `w` bits at a bit offset within bytes read from a place. -/
def setBits (old sh w x : Nat) : Nat := old - old / 2 ^ sh % 2 ^ w * 2 ^ sh + x % 2 ^ w * 2 ^ sh

end Sys2Proof.Machine
end

