-- ==== Sys2Proof/Machine/Matrix.lean ====
section
/-! DEFINITION. The M slot: operand memory, tiles, and the commands held for the matrix engine (R188 to R205). -/

namespace Sys2Proof.Machine

/-! Operand slots (R188, R189). -/

/-- The names that held OMRELs of the open segment release. -/
def Ctx.heldRel (c : Ctx) : List Nat :=
  c.held.flatMap fun h => match h with
    | .m k => (match k.kind with | .omrel names _ => names | _ => [])
    | _ => []

/-- The physical slot of a name, if it counts as mapped. -/
def Ctx.slotPhys (c : Ctx) (o : Nat) : Option Nat := if c.heldRel.contains o then none else tfind c.omap o

/-- The bounds trap of the lowest unmapped name (R188). -/
def Ctx.slotTrap (c : Ctx) (names : List Nat) : Option Trap :=
  (names.find? fun o => (c.slotPhys o).isNone).map fun o => ⟨partM, 0x07, 0x05, BitVec.ofNat 64 o⟩

/-- Maps the given names to free physical slots; each reads as zero with SCL 1.0. -/
def State.mapSlots (s : State) (core ctx : Nat) (names : List Nat) : State :=
  names.foldl (fun s o =>
    let k := s.coreAt core
    match k.omFree with
    | [] => s
    | p :: rest =>
      let s := s.setCore core { k with omFree := rest, omScl := tset k.omScl p 0x3F80#16 }
      let s := s.updCtxAt core ctx fun c => { c with omap := tset c.omap o p }
      { s with mem := memZero s.mem (omBase core p) 4096, poison := clearUnits s.poison (omBase core p) 4096 }) s

/-- MOD[6:0] of OMCLAIM and OMREL: the range of names from XA. -/
def slotRange (op : ROp) : List Nat := (List.range (bitsOf op.md.toNat 6 0)).map fun i => selNum op.xa + i

/-- The poison trap of an immediate operation on operand slots: the lowest poisoned slot of the range (R220). -/
def State.slotPoison (s : State) (g : Bool) (names : List Nat) : Option Trap :=
  let bad := names.filter fun o => match s.ctx.slotPhys o with
    | some p => s.isPoisoned (omBase s.cur.core p) 4096
    | none => false
  match g, bad with
  | true, o :: _ => some ⟨partM, 0x0C, 0x03, poisonVal 6 o⟩
  | _, _ => none

/-- OMCLAIM (R189): acts at issue; latency 2. -/
def execOmclaim (op : ROp) (s : State) : Out :=
  let g := s.ctx.guard op.pred op.pn
  let names := slotRange op
  s.sources partM [] (s.slotPoison g names) fun c =>
    let need := names.filter fun o => (tfind c.omap o).isNone
    let clash := names.any fun o => c.heldRel.contains o
    let fits := decide (need.length ≤ s.core.omFree.length)
    if !g then s
    else
      let s' := if !clash && fits then s.mapSlots s.cur.core s.cur.ctx need else s
      s'.putS partM 2 true op.nw op.dst.toNat (if !clash && fits then 1 else 0) 0

/-! Tiles (R192 to R199). -/

def Ctx.tshp (c : Ctx) (k : Nat) : BitVec 14 := tget 0 c.csr.tshp k
def shpRows (x : BitVec 14) : Nat := bitsOf x.toNat 9 5 + 1
def shpCols (x : BitVec 14) : Nat := bitsOf x.toNat 4 0 + 1
def shpInt (x : BitVec 14) : Bool := bitsOf x.toNat 11 10 == 2

/-- The record of a claimed tile. -/
def Core.tile (k : Core) (ctx serial t : Nat) : Option Tile :=
  k.tiles.find? fun x => x.ctx == ctx && x.serial == serial && x.t == t
def Core.updTile (k : Core) (ctx serial t : Nat) (f : Tile → Tile) : Core :=
  { k with tiles := k.tiles.map fun x => if x.ctx == ctx && x.serial == serial && x.t == t then f x else x }
def State.myTile (s : State) (t : Nat) : Option Tile := s.core.tile s.cur.ctx s.ctx.tk.serial t
def State.updTile (s : State) (core ctx serial t : Nat) (f : Tile → Tile) : State :=
  s.updCore core fun k => k.updTile ctx serial t f

/-- Commands of the queue that name a tile, with the MMA a COPYM keeps for it (R194, R284). -/
def Core.pendingOn (k : Core) (ctx serial t : Nat) : Nat :=
  (k.mq.filter fun e => e.cmd.ctx == ctx && e.cmd.serial == serial && e.cmd.tile == some t).length +
    (k.mmaWait.filter fun c => c.ctx == ctx && c.serial == serial && c.tile == some t).length
def Core.isPending (k : Core) (ctx serial t : Nat) : Bool :=
  k.pendingOn ctx serial t != 0 || k.resv.contains (ctx, serial, t)

/-- The lowest free physical tile. -/
def Core.freePhys (k : Core) : Option Nat := (List.range 8).find? fun p => !(k.tiles.any fun x => x.phys == some p)

/-- TUNC (R196). -/
def Ctx.tunc (c : Ctx) (g : Bool) (t : Nat) : Option Trap :=
  if g && c.tshp t == 0 then some ⟨partM, 0x06, 0, BitVec.ofNat 64 t⟩ else none

/-- Starts a lazy restore that is wanted, when a physical tile is free (R197); a core moves one tile at a time. -/
def Core.serveTiles (k : Core) : Core :=
  if k.tiles.any fun x => x.saving.isSome || x.restoring.isSome then k
  else
    match k.tiles.find? fun x => x.want && x.stat == .saved, k.freePhys with
    | some x, some p => k.updTile x.ctx x.serial x.t fun y =>
        { y with phys := some p, restoring := some (k.cycle + 64), want := false }
    | _, _ => k

/-- Naming a SAVED tile starts its restore (R197). -/
def State.wantTile (s : State) (t : Nat) : State :=
  (s.updTile s.cur.core s.cur.ctx s.ctx.tk.serial t fun x =>
    { x with want := x.want || x.stat == .saved || x.saving.isSome }).updCore s.cur.core Core.serveTiles

/-- The poison trap of an immediate operation on a tile (R220). -/
def State.tilePoison (s : State) (g : Bool) (t : Nat) : Option Trap :=
  match s.myTile t with
  | some x => match x.phys with
    | some p => if g && s.isPoisoned (tileBase s.cur.core p) 4096 then some ⟨partM, 0x0C, 0x03, poisonVal 5 t⟩ else none
    | none => none
  | none => none

/-- R197: poison in the save-area copy of a SAVED tile traps at the held operation whose naming starts the restore. -/
def State.restorePoison (s : State) (g : Bool) (t : Nat) : Option Trap :=
  match s.myTile t with
  | some x =>
    if g && x.stat == .saved && x.restoring.isNone then
      match (s.engRead (dieOf s.cur.core) x.x x.save 4096).2 with
      | .inl (_, true) => some ⟨partM, 0x0C, 0x03, poisonVal 5 t⟩
      | _ => none
    else none
  | none => none

/-- The traps of a held operation on its tile: TUNC, and the poison of a restore that it starts. -/
def State.tileTrap (s : State) (g : Bool) (t : Nat) : Option Trap := lowerTrap (s.ctx.tunc g t) (s.restorePoison g t)

/-- Whether an immediate operation on a tile still waits (R195): the tile is pending or being restored, and a read form waits
for a SAVED tile's restore. -/
def State.tileWaits (s : State) (t : Nat) (read : Bool) : Bool :=
  s.core.isPending s.cur.ctx s.ctx.tk.serial t ||
  (match s.myTile t with
    | some x => x.restoring.isSome || (read && (x.stat == .saved || x.saving.isSome))
    | none => false)

/-- The save area's place of a tile of the context in focus; none for a handler, the supervisor and SAVE = 0 (R197). -/
def State.savePlace (s : State) (t : Nat) : Word :=
  let c := s.ctx
  let own := match s.core.xrole with
    | .handler _ | .super _ => s.cur.ctx == 4
    | _ => false
  if own || c.tk.save == 0 then 0 else c.tk.save + BitVec.ofNat 64 (4096 * t)

/-- Legal TCFG values (R198). -/
def tcfgOk (x : Word) : Bool :=
  let v := x.toNat
  decide (v < 2 ^ 14) && (v == 0 || (bitsOf v 13 12 == 0 && (bitsOf v 11 10 == 1 || bitsOf v 11 10 == 2)))

/-- Writes 1,024 zero entries. -/
def State.zeroTile (s : State) (core p : Nat) : State :=
  { s with mem := memZero s.mem (tileBase core p) 4096, poison := clearUnits s.poison (tileBase core p) 4096 }

/-- TCFG (R198): acts at issue once its tile is not pending; a claim takes a free physical tile or goes on waiting (R197). -/
def execTcfg (op : ROp) (s : State) : Out :=
  let c := s.ctx
  let g := c.guard op.pred op.pn
  let t := op.dst.toNat
  let x := c.srcS s.cur op.xa
  let own := if g && !tcfgOk x then some (illTrap s partM 0x05) else none
  s.sources partM [(.s, op.xa)] own fun c =>
    if !g || s.tileWaits t false then s
    else
      let v := x.setWidth 14
      match s.myTile t with
      | some _ =>
        if x = 0 then
          (s.updCore s.cur.core fun k => { k with
            tiles := k.tiles.filter fun y => !(y.ctx == s.cur.ctx && y.serial == c.tk.serial && y.t == t) }).updCore
              s.cur.core Core.serveTiles |>.post
            (partM - 1) 1 [.csr (8 + t) 0] none 0 false
        else s.post (partM - 1) 1 [.csr (8 + t) x] none 0 false
      | none =>
        if x = 0 then s.post (partM - 1) 1 [.csr (8 + t) 0] none 0 false
        else
          match s.core.freePhys with
          | none => s.updCtx fun d => { d with claim := true }
          | some p =>
            let rec0 : Tile := { ctx := s.cur.ctx, serial := c.tk.serial, t := t, stat := .dirty, phys := some p
                                 saving := none, restoring := none, want := false, stuck := false
                                 save := s.savePlace t, job := c.tk.job, x := s.xctxOf c, dead := false, shp := 0 }
            let s := (s.zeroTile s.cur.core p).updCore s.cur.core fun k => { k with tiles := k.tiles ++ [rec0] }
            let s := s.updCtx fun d => { d with claim := false }
            s.post (partM - 1) 1 [.csr (8 + t) (v.setWidth 64)] none 0 false

/-- STATE code of TSTAT (R199). -/
def tileCode : Option Tile → Nat
  | none => 0
  | some x => match x.stat with | .clean => 1 | .dirty => 2 | .saved => 3

/-- TSTAT (R199). -/
def execTstat (op : ROp) (s : State) : Out :=
  let c := s.ctx
  let g := c.guard op.pred op.pn
  let t := selNum op.xa
  let own := s.tilePoison g t
  s.sources partM [] own fun c =>
    if !g || s.tileWaits t false then s
    else
      let r := s.myTile t
      let x := (if c.derr.getLsbD t then 2 ^ 24 else 0) +
        Min.min 16 (s.core.pendingOn s.cur.ctx c.tk.serial t) * 2 ^ 16 + tileCode r * 2 ^ 14 + (c.tshp t).toNat
      let s := if op.md.getLsbD 0 then s.updCtx fun d => { d with derr := d.derr &&& ~~~ BitVec.ofNat 8 (2 ^ t) } else s
      s.putS partM 2 true op.nw op.dst.toNat (BitVec.ofNat 64 x) 0

/-- Entry (r, c) of a physical tile (R192). -/
def State.tileEntry (s : State) (core p r c : Nat) : Nat := memRead s.mem (tileBase core p + 128 * r + 4 * c) 4

/-- The read forms of TROW and TCOL (R202): immediate, latency 4 after the wait of R195. -/
def tileRead (op : ROp) (s : State) (col : Bool) : Out :=
  let c := s.ctx
  let m := c.lanes op.pred op.pn
  let g := m != 0
  let t := selNum op.xa
  let own := lowerTrap (c.tunc g t) (s.tilePoison g t)
  s.sources (free := own) partM [(.s, op.xb)] own fun c =>
    if g && s.tileWaits t true then s.wantTile t
    else
      let sh := c.tshp t
      let b := (c.srcS s.cur op.xb).toNat
      let p := (((s.myTile t).map Tile.phys).getD none).getD 0
      let x := vbuild 32 fun k =>
        if col then (if k < shpRows sh ∧ b < shpCols sh then s.tileEntry s.cur.core p k b else 0)
        else (if k < shpCols sh ∧ b < shpRows sh then s.tileEntry s.cur.core p b k else 0)
      s.post (partM - 1) 4 (if op.nw then [] else [.v (c.vPhys op.dst.toNat) m x]) none 0 (g && s.isPoisoned (tileBase s.cur.core p) 4096)

def execTrow (op : ROp) (s : State) : Out := tileRead op s false
def execTcol (op : ROp) (s : State) : Out := tileRead op s true

/-! Held commands. -/

/-- Adds a held command of the context in focus; a tile that it names is restored if it is SAVED (R193, R197). -/
def State.holdM (s : State) (kind : MKind) (tile : Option Nat) (place : Nat) : State :=
  let c := s.ctx
  let cmd : MCmd := { kind := kind, ctx := s.cur.ctx, serial := c.tk.serial, job := c.tk.job, tile := tile
                      shape := (tile.map c.tshp).getD 0, place := place, x := s.xctxOf c, addr := s.cur.addr, follow := none }
  let s := s.updCtx fun c => { c with held := c.held ++ [.m cmd] }
  match tile with
  | some t => s.wantTile t
  | none => s

/-- The memory operand of a held command (R190, R203, R208, R243): alignment, bounds and races over the whole range. -/
def State.heldAccess (s : State) (sp : Space) (a : Word) (n : Nat) (write raced : Bool) : State × (Trap ⊕ Nat) :=
  let c := s.ctx
  let core := s.cur.core
  if a.toNat % 64 ≠ 0 then (s, .inl ⟨partM, 0x07, 0x02, a⟩)
  else if !s.inBounds core c sp a.toNat n then (s, .inl ⟨partM, 0x07, 0x01, a⟩)
  else
    let pa := (s.window core c sp).1 + a.toNat
    let runs : List Run := [⟨0, a, pa, n, 0, false⟩]
    match (if raced && sp != .sp then s.raceSlot core s.cur.ctx else none) with
    | none => (s, .inr pa)
    | some k =>
      match s.raceHit k write runs with
      | some v => (s, .inl ⟨partM, 0x0B, if write then 0x02 else 0x01, v⟩)
      | none => (s.raceNote k write runs, .inr pa)

def State.heldTrap (s : State) (g : Bool) (sp : Space) (a : Word) (n : Nat) (write raced : Bool) : Option Trap :=
  if !g then none
  else match (s.heldAccess sp a n write raced).2 with
    | .inl t => some t
    | .inr _ => none

/-- The entries that a drain writes, in order: row and column (R204). -/
def drainCells (rec0 : BitVec 512) (sh : BitVec 14) (row0 col0 : Nat) : List (Nat × Nat) :=
  (List.range (shpRows sh)).flatMap fun r =>
    (List.range (shpCols sh)).filterMap fun c =>
      if col0 + c < tnExt rec0 0 && row0 + r < tnExt rec0 1 then some (r, c) else none

/-- Where a drain's entry goes on a page of format `fmt`: its place and its width (R18, R19, R204). -/
def drainPlace (rec0 : BitVec 512) (row0 col0 fmt : Nat) (geo : Bool) (r c : Nat) : ElemPlace × Nat :=
  let w := if fmt = 0 then 32 else (fmtN fmt).width
  (elemPlace (tnRow rec0 (row0 + r) 0 0) (col0 + c) w (geo && fmt != 0), w)

/-- The places that a drain would write, as its record and the pages stand at issue (R243); a page that does not translate has no
line to check. -/
def State.drainRuns (s : State) (x : XCtx) (rec0 : BitVec 512) (sh : BitVec 14) (row0 col0 : Nat) : List Run :=
  let die := dieOf s.cur.core
  match (s.engPage die x .read (BitVec.ofNat 64 (tnBase rec0))).2 with
  | .inr _ => []
  | .inl pg =>
    let at_ (va : Word) (n : Nat) : List Run := match (s.engPage die x .read va).2 with
      | .inl p => [⟨0, va, p.pa, n, p.key, p.mlog⟩]
      | .inr _ => []
    (drainCells rec0 sh row0 col0).flatMap fun y =>
      let (o, w) := drainPlace rec0 row0 col0 pg.fmt (pg.geo == 1) y.1 y.2
      at_ o.va ((o.sh + w + 7) / 8) ++ (match o.scale with | some a => at_ a 1 | none => [])

/-- The race check of a drain over its destination, as if it wrote it at issue (R243, R244); a malformed record writes nothing. -/
def State.drainRace (s : State) (t : Nat) (a : Word) (row0 col0 : Nat) : State × Option Trap :=
  let c := s.ctx
  let rec0 := BitVec.ofNat 512 (memRead s.mem ((s.window s.cur.core c .sp).1 + a.toNat) 64)
  match (if tnBad rec0 then none else s.raceSlot s.cur.core s.cur.ctx) with
  | none => (s, none)
  | some k =>
    let runs := s.drainRuns (s.xctxOf c) rec0 (c.tshp t) row0 col0
    match s.raceHit k true runs with
    | some v => (s, some ⟨partM, 0x0B, 0x02, v⟩)
    | none => (s.raceNote k true runs, none)

/-- A held command with a memory operand. -/
def heldMem (op : ROp) (s : State) (slots : List Nat) (tile : Option Nat) (sp : Space) (n : Nat) (write raced : Bool)
    (kind : Ctx → MKind) : Out :=
  let c := s.ctx
  let g := c.guard op.pred op.pn
  let a := c.memAddr s.cur op.xa op.xb
  let named := lowerTrap (if g then c.slotTrap slots else none) ((tile.map fun t => s.tileTrap g t).getD none)
  s.sources (free := named) partM [(.s, op.xa), (.s, op.xb)] (lowerTrap named (s.heldTrap g sp a n write raced)) fun c =>
    if !g then s
    else
      match s.heldAccess sp a n write raced with
      | (s, .inr pa) => s.holdM (kind c) tile pa
      | (s, .inl _) => s

/-- OMREL (R189). -/
def execOmrel (op : ROp) (s : State) : Out :=
  let c := s.ctx
  let g := c.guard op.pred op.pn
  let names := slotRange op
  s.sources partM [] (if g then c.slotTrap names else none) fun c =>
    if g then s.holdM (.omrel names (names.filterMap fun o => tfind c.omap o)) none 0 else s

/-- OMLD (R190). -/
def execOmld (op : ROp) (s : State) : Out :=
  let o := op.dst.toNat
  heldMem op s [o] none (mdSpace op.md) 4096 false true fun c => .omld ((c.slotPhys o).getD 0)

/-- OMST (R190). -/
def execOmst (op : ROp) (s : State) : Out :=
  let o := selNum op.xc
  heldMem op s [o] none (mdSpace op.md) 4096 true true fun c => .omst ((c.slotPhys o).getD 0)

/-- Bytes of the shaped part of a tile (R203). -/
def shpBytes (x : BitVec 14) : Nat := 4 * shpRows x * shpCols x

/-- TLD (R203). -/
def execTld (op : ROp) (s : State) : Out :=
  let t := op.dst.toNat
  heldMem op s [] (some t) (mdSpace op.md) (shpBytes (s.ctx.tshp t)) false true fun _ => .tld

/-- TST (R203). -/
def execTst (op : ROp) (s : State) : Out :=
  let t := selNum op.xc
  heldMem op s [] (some t) (mdSpace op.md) (shpBytes (s.ctx.tshp t)) true true fun _ => .tst

/-- TDRAIN (R204): the record in `sp`, the origin from XC; its destination is race-checked by the record as it stands (R243). -/
def execTdrain (op : ROp) (s : State) : Out :=
  let c := s.ctx
  let g := c.guard op.pred op.pn
  let t := selNum op.xa
  let a := c.srcS s.cur op.xb
  let o := (c.srcS s.cur op.xc).toNat
  let tile := s.tileTrap g t
  let own := lowerTrap tile (s.heldTrap g .sp a 64 false false)
  let race : State × Option Trap := if g && own.isNone then s.drainRace t a (bitsOf o 63 32) (bitsOf o 31 0) else (s, none)
  let free := if c.missing s.cur [op.xb] then tile else own
  s.sources (free := free) partM [(.s, op.xb), (.s, op.xc)] (lowerTrap own race.2) fun _ =>
    if !g then s
    else
      match race.1.heldAccess .sp a 64 false false with
      | (s, .inr pa) => s.holdM (.tdrain (op.md.getLsbD 0) (bitsOf o 63 32) (bitsOf o 31 0)) (some t) pa
      | (s, .inl _) => s

/-- A held command on a tile alone (R205). -/
def heldTile (op : ROp) (s : State) (t : Nat) (kind : MKind) : Out :=
  let c := s.ctx
  let g := c.guard op.pred op.pn
  s.sources partM [] (s.tileTrap g t) fun _ => if g then s.holdM kind (some t) 0 else s

/-- The race check of a TSAVE over its save area, as if it wrote it at issue (R243, R320); a page that does not translate has no line to
check. -/
def State.saveRace (s : State) (g : Bool) (t : Nat) : State × Option Trap :=
  match (if g then s.raceSlot s.cur.core s.cur.ctx else none), s.myTile t with
  | some k, some x =>
    let runs : List Run := if x.save = 0 then [] else (pageParts 3 0 x.save 4096).flatMap fun y =>
      match (s.engPage (dieOf s.cur.core) x.x .read y.2.1).2 with
      | .inl p => [⟨y.1, y.2.1, p.pa, y.2.2, p.key, p.mlog⟩]
      | .inr _ => []
    match s.raceHit k true runs with
    | some v => (s, some ⟨partM, 0x0B, 0x02, v⟩)
    | none => (s.raceNote k true runs, none)
  | _, _ => (s, none)

/-- TZERO (R205). -/
def execTzero (op : ROp) (s : State) : Out := heldTile op s op.dst.toNat .tzero
/-- TSAVE (R205), race-checked over the save area. -/
def execTsave (op : ROp) (s : State) : Out :=
  let g := s.ctx.guard op.pred op.pn
  let t := selNum op.xa
  let own := s.tileTrap g t
  let race := if own.isNone then s.saveRace g t else (s, none)
  s.sources partM [] (lowerTrap own race.2) fun _ => if g then race.1.holdM .tsave (some t) 0 else s

/-- The write forms of TROW and TCOL (R202): the register, the index and the lane predicate as they stand at issue. -/
def tileWrite (op : ROp) (s : State) (kind : Nat → Vec → Word → MKind) : Out :=
  let c := s.ctx
  let m := c.lanes op.pred op.pn
  let t := op.dst.toNat
  let own := s.tileTrap (m != 0) t
  s.sources (free := own) partM [(.v, op.xa), (.s, op.xb)] own fun c =>
    if m != 0 then s.holdM (kind (c.srcS s.cur op.xb).toNat (c.srcV s.cur op.xa) m) (some t) 0 else s

def execTrowW (op : ROp) (s : State) : Out := tileWrite op s fun i x m => .rowW i x m
def execTcolW (op : ROp) (s : State) : Out := tileWrite op s fun i x m => .colW i x m

/-- Kmax, K per cycle and group G of an input format (R191). -/
def mmaShape (f : Nat) : Nat × Nat × Nat :=
  if f = 1 then (32, 1, 1) else if f = 2 ∨ f = 3 then (64, 4, 4)
  else if f = 6 then (192, 16, 16) else (128, 8, 8)

/-- The value traps of an MMA that do not look at K: slots, tile and type (R188, R196, R200). -/
def State.mmaNamed (s : State) (part : Nat) (g : Bool) (oa ob t : Nat) (isInt quant : Bool) : Option Trap :=
  if !g then none
  else
    let c := s.ctx
    let sh := c.tshp t
    lowerTrap (if sh == 0 || shpInt sh == (isInt && !quant) then none else some (illTrap s part 0x05))
      (lowerTrap ((s.tileTrap g t).map fun x => { x with part := part }) ((c.slotTrap [oa, ob]).map fun x => { x with part := part }))

/-- The value traps of an MMA (R188, R196, R200). -/
def State.mmaTrap (s : State) (part : Nat) (g : Bool) (oa ob t kmax : Nat) (isInt quant : Bool) (k : Word) : Option Trap :=
  if !g then none
  else lowerTrap (if decide (1 ≤ k.toNat) && decide (k.toNat ≤ kmax) then none else some (illTrap s part 0x05))
    (s.mmaNamed part g oa ob t isInt quant)

/-- MMA (R200). -/
def execMma (op : ROp) (s : State) : Out :=
  let c := s.ctx
  let g := c.guard op.pred op.pn
  let fa := bitsOf op.md.toNat 3 0
  let fb := bitsOf op.md.toNat 7 4
  let oa := selNum op.xa
  let ob := selNum op.xb
  let t := op.dst.toNat
  let k := c.srcS s.cur op.xc
  s.sources (free := s.mmaNamed partM g oa ob t (fa == 8) false) partM [(.s, op.xc)] (s.mmaTrap partM g oa ob t (mmaShape fa).1 (fa == 8) false k) fun c =>
    if g then s.holdM (.mma ((c.slotPhys oa).getD 0) ((c.slotPhys ob).getD 0) k.toNat fa fb (op.md.getLsbD 8)) (some t) 0
    else s

/-- MMAQ (R201). -/
def execMmaq (op : ROp) (s : State) : Out :=
  let c := s.ctx
  let g := c.guard op.pred op.pn
  let oa := selNum op.xa
  let ob := selNum op.xb
  let t := op.dst.toNat
  let k := c.srcS s.cur op.xc
  s.sources (free := s.mmaNamed partM g oa ob t false true) partM [(.s, op.xc)] (s.mmaTrap partM g oa ob t 64 false true k) fun c =>
    if g then s.holdM (.mmaq ((c.slotPhys oa).getD 0) ((c.slotPhys ob).getD 0) k.toNat (op.md.getLsbD 8)) (some t) 0 else s

end Sys2Proof.Machine
end

