-- ==== Sys2Proof/Machine/Hearth.lean ====
section
/-! DEFINITION. The Hearth's shared operations: launch records, reports, completion, cancellation and the end or kill of a task
(R252 to R273, R295, R310). -/

namespace Sys2Proof.Machine

/-! The launch record (R261). -/

def lrField (r : BitVec 1024) (h l : Nat) : Nat := bitsOf r.toNat h l
def lrArg (r : BitVec 1024) (j : Nat) : Word := BitVec.ofNat 64 (lrField r (64 * j + 831) (64 * j + 768))
def lrSeed (r : BitVec 1024) : Word := BitVec.ofNat 64 (lrField r 767 704)
def lrSave (r : BitVec 1024) : Nat := lrField r 703 640
def lrHandler (r : BitVec 1024) : Word := BitVec.ofNat 64 (lrField r 639 576)
def lrEntry (r : BitVec 1024) : Word := BitVec.ofNat 64 (lrField r 575 512)
def lrProg (r : BitVec 1024) : Word := BitVec.ofNat 64 (lrField r 511 448)
def lrGX (r : BitVec 1024) : Nat := lrField r 447 432
def lrGY (r : BitVec 1024) : Nat := lrField r 431 416
def lrGZ (r : BitVec 1024) : Nat := lrField r 415 400
def lrAff (r : BitVec 1024) : Nat := lrField r 399 392
def lrPrio (r : BitVec 1024) : Nat := lrField r 391 390
def lrNomx (r : BitVec 1024) : Bool := lrField r 389 389 == 1
def lrSpsh (r : BitVec 1024) : Bool := lrField r 388 388 == 1
def lrRdvg (r : BitVec 1024) : Bool := lrField r 387 387 == 1
def lrRptl (r : BitVec 1024) : Bool := lrField r 386 386 == 1
def lrNbar (r : BitVec 1024) : Nat := lrField r 385 381
def lrNosl (r : BitVec 1024) : Nat := lrField r 380 374
def lrClwin (r : BitVec 1024) : Nat := lrField r 373 362
def lrHbase (r : BitVec 1024) : Nat := lrField r 361 355
def lrHcnt (r : BitVec 1024) : Nat := lrField r 354 347
def lrUcore (r : BitVec 1024) : Nat := lrField r 346 341
def lrTasks (r : BitVec 1024) : Nat := lrGX r * lrGY r * lrGZ r

/-- R262's malformed records, the sealed header apart. -/
def lrBad (r : BitVec 1024) : Bool :=
  lrField r 340 0 != 0 || lrTasks r == 0 || lrAff r == 0 || decide (16 < lrNbar r) || decide (64 < lrNosl r) ||
  decide (2048 < lrClwin r) || decide (128 < lrHcnt r) || decide (128 < lrHbase r + lrHcnt r) ||
  (lrPrio r == 0 && lrTasks r != 1) || (lrUcore r != 0 && lrPrio r != 0)

/-! Jobs and their address spaces. -/

def Job.zero : Job where
  st := .free
  tenant := 0
  asid := 0
  root := 0
  perm := 0
  crBase := 0
  crSize := 0
  dsw := []
  func := 0
  sq := 0
  sqLog := 6
  sqHead := 0
  cq := 0
  cqLog := 6
  cqTail := 0
  reports := []
  phase := 0
  phaseClosed := false
  phaseDone := false
  closed := false
  phSt := []
  status := .ok
  quiesced := false
  cancFrom := none

def State.job (s : State) (j : Nat) : Job := tget Job.zero s.jobs j
def State.updJob (s : State) (j : Nat) (f : Job → Job) : State := { s with jobs := tset s.jobs j (f (s.job j)) }
/-- A job's address space, for the engines and the Hearth. -/
def State.jobX (s : State) (j : Nat) : XCtx := let b := s.job j; ⟨b.asid, false, b.tenant, b.root⟩

/-! Reports (R273). -/

def rkLaunchDone : Nat := 1
def rkTaskKilled : Nat := 2
def rkGraphDone : Nat := 3
def rkPhaseDone : Nat := 4
def rkJobDone : Nat := 5
def rkLaunchRejected : Nat := 6
def rkEngineDrop : Nat := 7

def CStatus.code : CStatus → Nat
  | .ok => 0 | .failed => 1 | .cancelled => 2

/-- The worse of two statuses: FAILED above CANCELLED above OK (R254). -/
def CStatus.worst (a b : CStatus) : CStatus :=
  match a, b with
  | .failed, _ => .failed
  | _, .failed => .failed
  | .cancelled, _ => .cancelled
  | _, .cancelled => .cancelled
  | .ok, .ok => .ok

def reportOf (kind status ident tidx trapc v1 v2 : Nat) : BitVec 256 :=
  BitVec.ofNat 256 (v2 % 2 ^ 64 * 2 ^ 192 + v1 % 2 ^ 64 * 2 ^ 128 + ident % 2 ^ 32 * 2 ^ 96 + tidx % 2 ^ 32 * 2 ^ 64 +
    trapc % 2 ^ 20 * 2 ^ 44 + status % 16 * 16 + kind % 16)

/-- Held reports leave for the completion queue while it has room and DMA runs (R362, R367). -/
def State.flushReports (s : State) (j : Nat) : Nat → State
  | 0 => s
  | n + 1 =>
    let b := s.job j
    match b.reports with
    | [] => s
    | r :: rest =>
      let head := (s.reg (0x3F_0010_0000 + 0x1008 + 0x10 * j)).toNat
      if !s.dmaOn || decide (2 ^ b.cqLog ≤ b.cqTail - head) then s
      else
        let a := b.cq + 32 * (b.cqTail % 2 ^ b.cqLog)
        State.flushReports ({ s.updJob j fun b => { b with reports := rest, cqTail := b.cqTail + 1 } with
          rptQueue := s.rptQueue.erase j
          hostOut := s.hostOut ++ [.write b.func a 32 r.toNat] }) j n

/-- Reports that the I/O die has room for while DMA is stopped: 16,384 in all (R367). -/
def rptMax : Nat := 16384

/-- The Hearth's reports reach the completion queue in the order in which they are produced; the supervisor has no job to report
to, and the reports of a job that a link-down killed are discarded (R367). -/
def State.report (s : State) (j kind status ident tidx trapc v1 v2 : Nat) : State :=
  if (tfind s.jobs j).isNone || decide ((s.job j).st = .linkKilled) then s else
  let s := { s.updJob j fun b => { b with reports := b.reports ++ [reportOf kind status ident tidx trapc v1 v2] } with
    rptQueue := s.rptQueue ++ [j] }
  s.flushReports j (s.job j).reports.length

/-- A report of a kind for which R273 states no STATUS: TASK_KILLED and ENGINE_DROP hold a free value there (log entry 6). -/
def State.reportOpen (s : State) (j kind ident tidx trapc v1 v2 : Nat) : State :=
  s.draw.report j kind (Config.freeBits 4 s.fresh).toNat ident tidx trapc v1 v2

/-- ENGINE_DROP with the address in V1 (R257, R281, R291). -/
def State.engineDrop (s : State) (j ident : Nat) (a : Word) : State := s.reportOpen j rkEngineDrop ident 0 0 a.toNat 0

/-! Nodes. -/

def Node.zero : Node where
  graph := 0
  job := 0
  kind := .gate
  st := .waiting
  count := 0
  succ := []
  recAddr := 0
  lrec := none
  level := 0
  order := 0
  next := 0
  left := 0
  skip := []
  bad := false
  dying := false
  susp := false
  status := .ok
  serials := []
  aged := 0
  pri := none
  canc := []
  ident := 0

def State.node (s : State) (d n : Nat) : Node := tget Node.zero (s.dieAt d).nodes n
def State.updNode (s : State) (d n : Nat) (f : Node → Node) : State :=
  s.updDie d fun x => { x with nodes := tset x.nodes n (f (tget Node.zero x.nodes n)) }

/-- First node-table index of a graph identifier, and a launch's LNCH (R253). -/
def graphBase (id : BitVec 32) : Nat := bitsOf id.toNat 11 0
def lnchOf (id : BitVec 32) (n : Nat) : BitVec 32 := BitVec.ofNat 32 (id.toNat / 2 ^ 12 * 2 ^ 12 + n)
def lnchDie (l : BitVec 32) : Nat := bitsOf l.toNat 31 30
def lnchNode (l : BitVec 32) : Nat := bitsOf l.toNat 11 0

/-- The phase of a node's graph. -/
def State.nodePhase (s : State) (d n : Nat) : Nat :=
  let g := (s.node d n).graph
  (((s.dieAt d).graphs.find? fun x => x.id == g).map Graph.phase).getD 0

/-- A node whose count has reached zero becomes READY, or DEFERRED while its phase is not open (R257, R259). -/
def State.nodeZero (s : State) (d n : Nat) : State :=
  let x := s.node d n
  let b := s.job x.job
  if s.nodePhase d n ≤ b.phase && !b.phaseDone then
    let o := (s.dieAt d).order
    (s.updDie d fun y => { y with order := o + 1 }).updNode d n fun x =>
      { x with st := if x.susp && x.kind == .launch then .suspended else .ready, order := o, aged := s.now }
  else s.updNode d n fun x => { x with st := .deferred }

/-- Decrements applied together to one node (R260): COUNT_UNDER and COUNT_STRAY are recorded. -/
def State.decNode (s : State) (d n k ten0 : Nat) : State :=
  let x := s.node d n
  let src := srcHearth d
  let ten := s.tenantOf x.job
  if (tfind (s.dieAt d).nodes n).isNone then
    s.emit src ten0 0x21 (n * 2 ^ 32 + 5 * 2 ^ 44 + k % 2 ^ 16 * 2 ^ 47)
  else
    match x.st with
    | .waiting =>
      let s := if x.count < k then
          s.emit src ten 0x20 (x.graph.toNat + n * 2 ^ 32 + Min.min (k - x.count) 65535 * 2 ^ 44)
        else s
      let s := s.updNode d n fun y => { y with count := y.count - k }
      if x.count ≤ k then s.nodeZero d n else s
    | .deferred => s.emit src ten 0x20 (x.graph.toNat + n * 2 ^ 32 + Min.min k 65535 * 2 ^ 44)
    | st =>
      let code := match st with
        | .ready => 0 | .suspended => 1 | .active => 2 | .done => 3 | .cancelled => 4 | _ => 5
      s.emit src ten 0x21 (x.graph.toNat + n * 2 ^ 32 + code * 2 ^ 44 + k % 2 ^ 16 * 2 ^ 47)

/-- Whether a phase of a job has work left on any die (R253, R258). -/
def State.phaseBusy (s : State) (j p : Nat) : Bool :=
  (List.range 4).any fun d =>
    (s.dieAt d).graphs.any (fun g => g.job == j && g.phase == p) ||
    (s.dieAt d).waiting.any (fun g => g.job == j && g.phase == p)

/-- A job's fabric entry is invalidated, and its park entries are freed (R387, R402). -/
def State.dropFabJob (s : State) (j : Nat) : State :=
  { s with fab := { s.fab with jobs := terase s.fab.jobs j, park := s.fab.park.filter fun y => y.2.pkt.pmi != j } }

/-- What the package keeps of a job's programs ends with the job: verified headers (R354), blocks of the instruction stores and
fetch buffers. -/
def State.dropCode (s : State) (j : Nat) : State :=
  let a := (s.job j).asid
  { s with
    progs := s.progs.filter fun p => p.job != j
    clusters := s.clusters.map fun (y : Nat × Cluster) => (y.1, { y.2 with istore := y.2.istore.filter fun b => b.asid != a })
    cores := s.cores.map fun (y : Nat × Core) => (y.1, { y.2 with fbuf := y.2.fbuf.filter fun b => b.asid != a }) }

/-- The end of a job (R253, R254): reported once, when the host has closed it and no phase is left; its fabric entry ends
(R387) and the packets it has parked go (R402). -/
def State.jobEnd (s : State) (j : Nat) : State :=
  let b := s.job j
  if b.st = .running && b.closed && b.phaseDone && !(b.phSt.any fun x => decide (b.phase < x.1)) &&
      !((List.range 4).any fun d => (s.dieAt d).graphs.any (fun g => g.job == j) || (s.dieAt d).waiting.any (fun g => g.job == j))
  then
    let s := s.updJob j fun b => { b with st := .done }
    let s := (s.dropCode j).dropFabJob j
    s.report j rkJobDone b.status.code j 0 0 0 0
  else s

/-- The end of the open phase (R253, R254, R258). -/
def State.phaseEnd (s : State) (j : Nat) : State :=
  let b := s.job j
  if b.st = .running && b.phaseClosed && !b.phaseDone && !s.phaseBusy j b.phase then
    let st := tget CStatus.ok b.phSt b.phase
    let s := s.updJob j fun b => { b with phaseDone := true, status := b.status.worst st }
    (s.report j rkPhaseDone st.code b.phase 0 0 0 0).jobEnd j
  else s.jobEnd j

/-- The end of a graph (R253, R254, R257). -/
def State.graphEnd (s : State) (d : Nat) (id : BitVec 32) : State :=
  match (s.dieAt d).graphs.find? (fun g => g.id == id) with
  | none => s
  | some g =>
    if g.left ≠ 0 then s
    else
      let base := graphBase id
      let s := s.updDie d fun x => { x with
        graphs := x.graphs.filter fun y => y.id != id
        nodes := x.nodes.filter fun y => !(decide (base ≤ y.1) && decide (y.1 < base + g.n)) }
      let s := s.updJob g.job fun b => { b with phSt := tset b.phSt g.phase ((tget CStatus.ok b.phSt g.phase).worst g.status) }
      (s.report g.job rkGraphDone g.status.code id.toNat 0 0 0 0).phaseEnd g.job

/-- One node completes with a status (R254), CANCELLED when a cancel reached it (R259): the nodes it cancels, and the state after its own decrements, summed by node (R260). -/
def State.nodeDone (s : State) (d n : Nat) (st : CStatus) : State × List Nat :=
  let x := s.node d n
  let base := graphBase x.graph
  let s := s.updNode d n fun y => { y with status := st, st := if y.dying || st = .cancelled then .cancelled else .done }
  let s := s.updDie d fun y => { y with graphs := y.graphs.map fun g =>
    if g.id = x.graph then { g with left := g.left - 1, status := g.status.worst st } else g }
  let s := match x.lrec with
    | some r => if lrRptl r then s.report x.job rkLaunchDone st.code (lnchOf x.graph n).toNat 0 0 0 0 else s
    | none => s
  let succ := x.succ.map fun i => base + i
  match st with
  | .ok => (succ.eraseDups.foldl (fun s i => s.decNode d i (succ.count i) 0) s, [])
  | _ => (s, succ)

def NodeSt.complete : NodeSt → Bool
  | .done | .cancelled => true
  | _ => false

/-! The end and the kill of a task. -/

def State.updTileCtx (s : State) (core ctx serial : Nat) (busy : Bool) : State :=
  let c := s.ctxAt core ctx
  s.updCore core fun k =>
    if busy then { k with tiles := k.tiles.map fun x =>
      if x.ctx == ctx && x.serial == serial then { x with dead := true, shp := c.tshp x.t } else x }
    else Core.serveTiles { k with tiles := k.tiles.filter fun x => !(x.ctx == ctx && x.serial == serial) }

/-- Whether the matrix queue, or the MMA of a COPYM, still holds a command of a task. -/
def Core.taskPending (k : Core) (ctx serial : Nat) : Bool :=
  k.mq.any (fun e => e.cmd.ctx == ctx && e.cmd.serial == serial) ||
    k.mmaWait.any (fun c => c.ctx == ctx && c.serial == serial) || k.resv.any (fun r => r.1 == ctx && r.2.1 == serial)

/-- Inserts slots into the free pool in ascending order. -/
def poolAdd (pool slots : List Nat) : List Nat := (List.range 64).filter fun p => pool.contains p || slots.contains p

/-- Tiles and operand slots of an ended task: released at once, or when its pending commands have completed (R189, R198). -/
def State.releaseStores (s : State) (core ctx : Nat) : State :=
  let c := s.ctxAt core ctx
  let serial := c.tk.serial
  let slots := c.omap.map Prod.snd
  let busy := (s.coreAt core).taskPending ctx serial
  let s := s.updTileCtx core ctx serial busy
  s.updCore core fun k =>
    if busy then { k with omLate := k.omLate ++ [(ctx, serial, slots)] } else { k with omFree := poolAdd k.omFree slots }

/-- The tasks of a launch that a cluster holds: in a context, in the ready queue, or asked into a partition X. -/
def State.tasksHere (s : State) (cluster : Nat) (l : BitVec 32) : List Nat :=
  ((List.range 8).flatMap fun i =>
    (List.range 5).filterMap (fun x =>
      let c := s.ctxAt (cluster * 8 + i) x
      match c.task with
      | some t => if t.lnch == l && c.stat != .free then some t.tidx else none
      | none => none) ++
    (if (s.coreAt (cluster * 8 + i)).xqueue.contains (.urgent l) then [0] else [])) ++
  ((s.clusterAt cluster).ready.filter fun r => r.lnch == l).map ReadyTask.tidx

/-- What a launch holds on a cluster ends with its tasks there: a window with the task that has it, the rest of the binding with the last
(R233, R236, R240). -/
def State.unbindLaunch (s : State) (cluster : Nat) (l : BitVec 32) : State :=
  let here := s.tasksHere cluster l
  if here.isEmpty then s.updCluster cluster fun k => { k with binds := k.binds.filter fun b => b.lnch != l }
  else
    s.updCluster cluster fun k => { k with
      binds := k.binds.map fun b => if b.lnch = l then { b with wins := b.wins.filter fun w => here.contains w.1 } else b }

/-- The context slot number of R232's chapter. -/
def ctxSlot (core ctx : Nat) : Nat := 5 * (core % 8) + ctx

/-- A member that becomes FREE clears its holds (R241). -/
def State.rdvLeave (s : State) (core ctx : Nat) : State :=
  match (s.ctxAt core ctx).tk.rdv with
  | none => s
  | some g =>
    let m := ctxSlot core ctx
    s.updCluster (clusterOf core) fun k => { k with holds := k.holds.filter fun h => !(h.1 == g && (h.2.1 == m || h.2.2 == m)) }

/-- TASK_START and TASK_END payload (R339). -/
def taskPayload (c : Ctx) (ctx : Nat) : Nat := c.tk.lnch.toNat + c.tk.tidx * 2 ^ 32 + ctx * 2 ^ 64

/-- MXSUM of the entries that a selection takes (R341). -/
def State.mxFlush (s : State) (core : Nat) (end1 : Bool) (sel : MxEnt → Bool) : State :=
  let k := s.coreAt core
  let out := k.mxSum.filter fun e => sel e && e.counts.any fun n => n != 0
  let s := s.setCore core { k with mxSum := k.mxSum.filter fun e => !(sel e) }
  out.foldl (fun s e =>
    s.emitX (srcCore core) e.tenant 0x18
      (e.bidx % 2 ^ 26 + ((e.counts.zipIdx.map fun (n, i) => n % 2 ^ 17 * 2 ^ (26 + 17 * i)).sum))
      (e.ctx % 8 + if end1 then 8 else 0) 0 0) s

/-- A context becomes FREE (R97, R124, R218): region, holds, tiles and slots end; stores issued stay in the T queue, and gap cycles that its
bundle left run on (R50). -/
def State.freeCtx (s : State) (core ctx : Nat) (killed : Bool) (trapc : BitVec 20) : State :=
  let c := s.ctxAt core ctx
  let s := (s.endRegion core ctx).rdvLeave core ctx
  let s := s.releaseStores core ctx
  let s := s.emitX (srcCore core) c.tk.tenant 0x02
    (taskPayload c ctx + (if killed then 2 ^ 67 + trapc.toNat * 2 ^ 76 else 0)) 0 0 0
  let s := s.mxFlush core true fun e => e.ctx == ctx
  let s := s.updCore core fun k => { k with
    port := if k.port = some ctx then none else k.port }
  let s := s.setCtxAt core ctx { Ctx.reset with csr := Csr.reset }
  match c.task with
  | none => s
  | some t =>
    let s := s.unbindLaunch (clusterOf core) t.lnch
    s.updDie (lnchDie t.lnch) fun d => { d with ended := d.ended ++ [(t.node, t.serial, killed)] }

/-- A context enters READY (R97, R98). -/
def State.makeReady (s : State) (core ctx : Nat) : State :=
  let n := (s.coreAt core).readySeq
  (s.updCore core fun k => { k with readySeq := n + 1 }).updCtxAt core ctx fun c =>
    { c with stat := .ready, age := 0, readyAt := n, stallN := 0, sliceN := 0 }

/-- A context leaves FROZEN (R97): its drowsy banks wake, and are checked (R248, R249): a double-bit error, whichever wake found
it, turns a continue with an open segment into a restart.  The loads of its faulted entries issue again (R175), and it is READY; one that was WAITING waits on (R223). -/
def State.thaw (s : State) (core ctx : Nat) : State :=
  let c := s.ctxAt core ctx
  let s := s.checkBanks core ctx c.drowsy
  let s := if c.segOpen && (s.ctxAt core ctx).ecc.any (fun e => e.2.2.2) then s.rewindCtx core ctx 4 else s
  let s := s.redoFaults core ctx
  let s := s.updCtxAt core ctx fun c =>
    { c with freeze := .none, frozenN := 0, wakeN := if c.drowsy = 0 then 0 else 20, drowsy := 0, ecc := [] }
  let c := s.ctxAt core ctx
  if c.waitOp.isSome && !c.closing then s.updCtxAt core ctx fun c => { c with stat := .waiting } else s.makeReady core ctx

/-- Partition X's routine is over (R100): its context is given up, what was bound for its launch may end with it (R236, R240), and what an urgent routine froze is READY (R222). -/
def State.leaveX (s : State) (core : Nat) : State :=
  let k := s.coreAt core
  let x := k.ctxAt 4
  let s := if x.stat = .free then s else s.releaseStores core 4
  let s := s.updCore core fun k => { k with
    port := if k.port = some 4 then none else k.port
    xrole := .none
    xtrap := none }
  let s := s.setCtxAt core 4 Ctx.reset
  let s := match x.task with
    | some t => s.unbindLaunch (clusterOf core) t.lnch
    | none => s
  match k.xrole with
  | .urgent vs =>
    let mine := vs.filter fun v => (k.ctxAt v).stat == .frozen && (k.ctxAt v).freeze == .urgent
    mine.foldl (fun s v => s.thaw core v) s
  | _ => s

/-- URGENT_OUT (R339). -/
def State.emitUrgentOut (s : State) (core : Nat) (t : Task) (vs : List Nat) : State :=
  s.emit (srcCore core) t.tenant 0x06 (((vs.map fun v => 2 ^ v).sum) + t.lnch.toNat * 2 ^ 64)

/-- The end of an urgent routine (R222): its task ends or is killed, and its victims are released. -/
def State.endUrgent (s : State) (core : Nat) (killed : Bool) (trapc : BitVec 20) : State :=
  let k := s.coreAt core
  let t := (k.ctxAt 4).tk
  let vs := match k.xrole with
    | .urgent vs => vs.filter fun v => (k.ctxAt v).stat == .frozen && (k.ctxAt v).freeze == .urgent
    | _ => []
  ((s.freeCtx core 4 killed trapc).leaveX core).emitUrgentOut core t vs

/-- Job index of the Hearth commands that the supervisor gives: no job has it. -/
def noJob : Nat := 0x10000

/-- The job of a context's commands. -/
def Ctx.jobOf (c : Ctx) : Nat := match c.task with | some t => t.job | none => noJob

/-- The completions that a debug stop held back take effect, in order. -/
def State.releaseDeferred (s : State) (core ctx : Nat) : State :=
  let c := s.ctxAt core ctx
  let s := s.updCtxAt core ctx fun c => { c with deferred := [] }
  c.deferred.foldl (fun s d => match d with
    | .flags fl a => s.updCtxAt core ctx fun c => c.engineFlags 3 fl a
    | .copy cl slot => { s with agenda := s.agenda ++ [⟨.copyComplete, core, ctx, 0, [cl, slot], []⟩] }
    | .park h n => s.updCore core fun k => { k.fillHandle h with cmdBusy := k.cmdBusy.filter fun x => x != n }
    | .remote slot => { s with agenda := s.agenda ++ [⟨.remoteResponseArrive, core, ctx, 0, [slot, 0, 0, 0, bitsOf s.nodecfg.toNat 14 0, 8], []⟩] }
    | .bucket n b => { s with agenda := s.agenda ++ [⟨.bucketComplete, core, ctx, 0, [c.jobOf, n, b], []⟩] }) s

/-- A kill (R218, R272): completions that a debug stop held back take effect (R344); TASK_KILLED with the given cause, value and SEGPC.  A trap handler or the supervisor, which holds no task
of its own, only leaves partition X. -/
def State.killTask (s : State) (core ctx : Nat) (trapc : BitVec 20) (trapv : Word) : State :=
  let c := s.ctxAt core ctx
  match c.task with
  | none => s
  | some t =>
    if ctx = 4 && !t.urgent then s.leaveX core
    else
      let s := s.releaseDeferred core ctx
      let s := s.reportOpen t.job rkTaskKilled t.lnch.toNat t.tidx trapc.toNat trapv.toNat c.csr.segpc.toNat
      if ctx = 4 then s.endUrgent core true trapc else s.freeCtx core ctx true trapc

/-- TRAPC of a kill that no trap of the task caused (R272). -/
def killCause (cause sub : Nat) : BitVec 20 := BitVec.ofNat 20 (sub * 256 + cause)

/-- Every context that holds a task satisfying a condition. -/
def State.ctxsWhere (s : State) (f : Nat → Nat → Task → Bool) : List (Nat × Nat) :=
  s.cores.flatMap fun (i, k) => k.ctxs.filterMap fun (j, c) =>
    match c.task with
    | some t => if c.stat != .free && f i j t then some (i, j) else none
    | none => none

/-- The same change of every cluster that holds anything. -/
def State.mapClusters (s : State) (f : Cluster → Cluster) : State :=
  { s with clusters := s.clusters.map fun (y : Nat × Cluster) => (y.1, f y.2) }

/-- Copies that a cancel stops at a piece boundary, with status CANCELLED (R295): fabric commands and matrix commands run on. -/
def State.stopCopies (s : State) (f : CopyIn → Bool) : State :=
  s.mapClusters fun c => { c with
      copies := c.copies.map fun x => if f x.inp && x.fin.isNone then { x with fin := some (5, 0), stuck := false } else x
      intake := c.intake.filter fun x => !(f x && x.node.isSome) }

/-- The bindings of a launch end on every cluster that holds no task of it any more. -/
def State.unbindAll (s : State) (l : BitVec 32) : State :=
  (s.clusters.filter fun (y : Nat × Cluster) => y.2.binds.any fun b => b.lnch == l).foldl (fun s y => s.unbindLaunch y.1 l) s

/-- The work of a node that is to be cancelled stops (R259, R295): queued tasks go, dispatched ones are killed, copies stop; the node
completes once that is done. -/
def State.stopNode (s : State) (d n : Nat) (ident : Word) : State :=
  let x := s.node d n
  let l := lnchOf x.graph n
  let live := s.ctxsWhere fun _ _ t => t.lnch == l
  let gone := ((s.clusters.map fun y => (y.2.ready.filter fun r => r.lnch == l).length)).sum +
    (s.cores.map fun y => (y.2.xqueue.filter fun r => r == XReq.urgent l).length).sum
  let s := { s with cores := s.cores.map fun (y : Nat × Core) =>
    (y.1, { y.2 with xqueue := y.2.xqueue.filter fun r => r != XReq.urgent l }) }
  let s := s.mapClusters fun c => { c with ready := c.ready.filter fun r => r.lnch != l }
  let s := s.stopCopies fun i => i.node == some (d, n) || (i.node.isNone && x.serials.contains i.serial)
  let total := match x.lrec with | some r => lrTasks r | none => 0
  let s := s.updNode d n fun y => { y with dying := true, st := .active, next := total, ident := ident
                                           left := y.left - gone - (total - y.next - (y.skip.filter fun i => decide (y.next ≤ i)).length) }
  (live.foldl (fun s (i, j) => s.killTask i j (killCause 0x11 0x01) ident) s).unbindAll l

/-- Cancels nodes in turn, with whatever that cancels (R254): one that has work in progress is stopped, any other completes. -/
def State.cancelAll (s : State) (d : Nat) (ident : Word) : Nat → List Nat → State
  | 0, _ => s
  | _, [] => s
  | f + 1, n :: t =>
    let x := s.node d n
    if x.st.complete || (tfind (s.dieAt d).nodes n).isNone then State.cancelAll s d ident f t
    else if x.st = .active || x.next ≠ 0 then State.cancelAll (s.stopNode d n ident) d ident f t
    else
      let (s, more) := s.nodeDone d n .cancelled
      State.cancelAll s d ident f (t ++ more)

/-- A node completes with a status, and cancels what R254 says, under the identifier of the cancel that reached it (R272, R295). -/
def State.completeNode (s : State) (d n : Nat) (st : CStatus) : State :=
  let id := (s.node d n).graph
  if (s.node d n).st.complete then s.graphEnd d id
  else
    let (s, more) := s.nodeDone d n st
    (s.cancelAll d (s.node d n).ident 8192 more).graphEnd d id

/-- Cancels one node that is not complete (R259, R295). -/
def State.cancelNode (s : State) (d n : Nat) (ident : Word) : State :=
  (s.cancelAll d ident 8192 [n]).graphEnd d (s.node d n).graph

/-- Every node of a graph. -/
def State.cancelGraph (s : State) (d : Nat) (id : BitVec 32) (ident : Word) : State :=
  match (s.dieAt d).graphs.find? fun g => g.id == id with
  | none => s
  | some g => (List.range g.n).foldl (fun s i => s.cancelNode d (graphBase id + i) ident) s

/-- Collectives that a cancel of a phase or a job, or a kill of a job, ends (R427): their buckets complete CANCELLED. -/
def State.cancelColls (s : State) (j p : Nat) : State :=
  { s with fab := { s.fab with colls := s.fab.colls.map fun c =>
      if c.job = j && c.ended.isNone && (c.dies.isEmpty || c.dies.any fun d => decide (p ≤ d.inp.phase)) then { c with ended := some 5, spread := true }
      else c } }

/-- What place d (a die, or 4: the I/O die) does on die e: a message that crosses dies carries its time (R333). -/
def State.acrossDies (s : State) (d e : Nat) (f : State → State) : State := if d = e then f s else s.caused s.now f

/-- A phase and every later one, on all four dies, on the word of place d (R295); graphs that still wait for admission complete CANCELLED. -/
def State.cancelPhases (s : State) (d j p : Nat) (ident : Word) : State :=
  let s := s.cancelColls j p
  let s := s.updJob j fun b => { b with cancFrom := some (Min.min p (b.cancFrom.getD p)) }
  let s := (List.range 4).foldl (fun s e => s.acrossDies d e fun s =>
    let mine := (s.dieAt e).waiting.filter fun g => g.job == j && decide (p ≤ g.phase)
    let s := s.updDie e fun x => { x with waiting := x.waiting.filter fun g => !(g.job == j && decide (p ≤ g.phase)) }
    let s := mine.foldl (fun s g =>
      (s.updJob j fun b => { b with phSt := tset b.phSt g.phase ((tget CStatus.ok b.phSt g.phase).worst .cancelled) }).report j
        rkGraphDone CStatus.cancelled.code 0 0 0 0 0) s
    let ids := ((s.dieAt e).graphs.filter fun g => g.job == j && decide (p ≤ g.phase)).map Graph.id
    ids.foldl (fun s id => s.cancelGraph e id ident) s) s
  s.phaseEnd j

/-- Every graph of a job that has not completed is to complete FAILED (R317), those that wait for admission at once. -/
def State.failGraphs (s : State) (j : Nat) : State :=
  (List.range 4).foldl (fun s d =>
    let mine := (s.dieAt d).waiting.filter fun g => g.job == j
    let s := s.updDie d fun x => { x with
      waiting := x.waiting.filter fun g => g.job != j
      graphs := x.graphs.map fun g => if g.job = j then { g with status := .failed } else g }
    mine.foldl (fun s g =>
      (s.updJob j fun b => { b with phSt := tset b.phSt g.phase .failed }).report j rkGraphDone CStatus.failed.code 0 0 0 0 0) s) s

/-- Kills a whole job on every die, on the word of place d (R221, R295, R367): each context with its own cause, then everything else cancelled; after a
machine check or a fetch-integrity failure of one of its tasks (subcode 0x04) its graphs complete FAILED (R254, R317). -/
def State.killJob (s : State) (d j : Nat) (cause sub : Nat) (val : Word) : State :=
  let s := if sub = 0x04 then s.failGraphs j else s
  let live := s.ctxsWhere fun _ _ t => t.job == j
  let s := live.foldl (fun s (i, k) => s.acrossDies d (dieOf i) fun s => s.killTask i k (killCause cause sub) val) s
  let s := (s.stopCopies fun i => i.job == j).dropFabJob j
  s.cancelPhases d j 0 val

/-- The charge of a machine check (R221): Sniras records the physical address, and the charged context is killed with its cause and
address. -/
def State.chargeCheck (s : State) (d j serial sub : Nat) (pa : Word) : State :=
  let mine := s.ctxsWhere fun _ _ t => t.job == j && t.serial == serial
  mine.foldl (fun s (i, k) => s.acrossDies d (dieOf i) fun s => s.killTask i k (killCause 0x0E sub) pa) { s with mchecks := s.mchecks ++ [pa.toNat] }

/-- A machine check (R221): the charge, and the rest of the job is killed with 0x11. -/
def State.machineCheck (s : State) (d j serial sub : Nat) (pa : Word) : State := (s.chargeCheck d j serial sub pa).killJob d j 0x11 0x04 0

/-- An engine write that failed after translation (R221, R351): cause 0x0E, its subcode and physical address. -/
def State.engineCheck (s : State) (d j serial : Nat) (f : Nat × Nat × Word) : State :=
  if f.1 = 0x0E then s.machineCheck d j serial f.2.1 f.2.2 else s

/-- Whether any engine still runs a command of the given tasks (R310). -/
def State.engineBusy (s : State) (serials : List Nat) : Bool :=
  let mine (l : List CopyIn) : Bool := l.any fun x => x.node.isNone && serials.contains x.serial
  s.cores.any (fun (_, k) => k.mq.any (fun e => serials.contains e.cmd.serial) || k.mmaWait.any (fun c => serials.contains c.serial) ||
    k.resv.any (fun r => serials.contains r.2.1)) ||
  s.clusters.any (fun (_, c) => mine (c.copies.map Copying.inp) || mine c.intake) ||
  s.dies.any (fun (_, d) => d.intake.any fun c => serials.contains c.serial) || mine s.fab.pktq || mine (s.fab.unsent.map Unsent.inp) || mine s.fab.remq || mine (s.fab.remote.map RemOp.inp) || mine s.fab.collq ||
  s.fab.busy.any (fun y => serials.contains y.2.1.inp.serial) ||
  s.fab.colls.any fun c => c.dies.any fun d => serials.contains d.inp.serial && (List.range d.ents.length).any fun b => !(c.ends.contains b)

/-- Whether a task still has a core-path store that is not performed (R310). -/
def State.storesLeft (s : State) (serial : Nat) : Bool := s.cores.any fun (_, k) => k.stq.any fun p => p.serial == serial

end Sys2Proof.Machine
end

