-- ==== Sys2Proof/Machine/Code.lean ====
section
/-! DEFINITION. Sealed programs: headers and their verification, blocks, tags and fetch (R217, R352 to R356). -/

namespace Sys2Proof.Machine

/-! The header (R352). -/

def shField (h : BitVec 3072) (hi lo : Nat) : Nat := bitsOf h.toNat hi lo
def shSig (h : BitVec 3072) : BitVec 512 := BitVec.ofNat 512 (shField h 3071 2560)
def shEndorse (h : BitVec 3072) : BitVec 512 := BitVec.ofNat 512 (shField h 2559 2048)
def shSignPk (h : BitVec 3072) : BitVec 512 := BitVec.ofNat 512 (shField h 2047 1536)
def shDigest (h : BitVec 3072) : BitVec 256 := BitVec.ofNat 256 (shField h 1535 1280)
def shNonce (h : BitVec 3072) : Nat := shField h 383 320
def shConstOff (h : BitVec 3072) : Nat := shField h 274 256
def shConstBlk (h : BitVec 3072) : Nat := shField h 228 224
def shCodeBlk (h : BitVec 3072) : Nat := shField h 223 192
def shEntOff (h : BitVec 3072) : Nat := shField h 191 160
def shCkey (h : BitVec 3072) : Nat := shField h 148 136
def shTenant (h : BitVec 3072) : Nat := shField h 135 128
def shBndhi (h : BitVec 3072) : Nat := shField h 114 96
def shBndlo (h : BitVec 3072) : Nat := shField h 82 64
def shNomx (h : BitVec 3072) : Bool := shField h 48 48 == 1

/-- Reserved bits of the header. -/
def shReserved (h : BitVec 3072) : Bool :=
  [(1279, 384), (319, 275), (255, 229), (159, 149), (127, 115), (95, 83), (63, 49)].any fun x => shField h x.1 x.2 != 0

/-- Blocks of the image, the code base and the tag table. -/
def shBlocks (h : BitVec 3072) : Nat := shCodeBlk h + shConstBlk h
def codeBase (prog : Word) : Word := prog + 0x200#64
def tagBase (prog : Word) (h : BitVec 3072) : Word := codeBase prog + BitVec.ofNat 64 (512 * shBlocks h)

/-- What R354 refuses in the header itself. -/
def shBad (h : BitVec 3072) : Bool :=
  shField h 31 0 != 0x4C594E5A || shField h 47 32 != 1 || shReserved h || decide (0x5FFFF < shBndhi h) ||
  shCodeBlk h == 0 || decide (2 ^ 20 < shCodeBlk h) || decide (16 < shConstBlk h) ||
  (shConstBlk h != 0 &&
    !(decide (shBndlo h ≤ shConstOff h) && decide (shConstOff h + 512 * shConstBlk h ≤ shBndhi h + 1)))

/-- Bytes of a part of the header, as they lie in memory. -/
def shBytes (h : BitVec 3072) (hi lo : Nat) : List Byte := toBytes (shField h hi lo) ((hi + 1 - lo) / 8)

/-- The signatures of R354: ENDORSE over SIGNPK under the owner's key, SIG over the header's low part under SIGNPK. -/
def shSigned (h : BitVec 3072) (owner : BitVec 512) : Bool :=
  ecdsaOk owner (sha256 (shBytes h 2047 1536)) (shEndorse h) &&
  ecdsaOk (shSignPk h) (sha256 (shBytes h 2559 0)) (shSig h)

/-- The tenant key (R354, R357): what is registered is its SHA-256 digest, so it is the key that comes first in what the verification or the
session brings, or the one that `Config.keyOfDigest` names, where its digest is the registered one (log entry 197). -/
def State.tenantKey (s : State) (tenant : Nat) : Option (BitVec 512) :=
  let d := (tget ⟨false, 0⟩ s.tenants tenant).digest
  [BitVec.ofNat 512 (ofBytes s.cur.inp), Config.keyOfDigest d].find? fun k => keyDigest k == d

/-- Verification by Sniras (R354): the header and sections as they stand in memory, or a refusal. -/
def State.verifyHeader (s : State) (d j : Nat) (owner : BitVec 512) (prog : Word) : State × Option (BitVec 3072) :=
  let x := s.jobX j
  match (if prog.toNat % 512 ≠ 0 then (s, .inr (0, 0, 0)) else s.engRead d x prog 384) with
  | (s, .inr _) => (s, none)
  | (s, .inl (_, true)) => (s, none)
  | (s, .inl (bs, false)) =>
    let h : BitVec 3072 := BitVec.ofNat 3072 (ofBytes bs)
    let b := s.job j
    let own := match tfind s.keys (shCkey h) with
      | some k => k.owner == b.tenant
      | none => false
    if shBad h || shTenant h != b.tenant || !own then (s, none)
    else if !shSigned h owner then (s, none)
    else
      match s.engRead d x (codeBase prog) (512 * shBlocks h + 16 * shBlocks h) with
      | (s, .inl (sec, false)) => if sha256 sec = shDigest h then (s, some h) else (s, none)
      | (s, _) => (s, none)

/-- The verified header of a program in an address space. -/
def State.progOf (s : State) (asid : Nat) (prog : Word) : Option Prog :=
  s.progs.find? fun p => p.asid == asid && p.prog == prog

/-! Blocks (R353, R355). -/

/-- The IV of block b (R353). -/
def blockIv (nonce b : Nat) : BitVec 96 :=
  BitVec.ofNat 96 (ofBytes (toBytes nonce 8 ++ (toBytes b 4).reverse))

/-- Opens a block under a key of the memory controller: nothing when the tag fails or the key is EMPTY. -/
def State.openBlock (s : State) (h : BitVec 3072) (b : Nat) (ct : BitVec 4096) (tag : BitVec 128) : Option (BitVec 4096) :=
  match s.keyMat (shCkey h) with
  | none => none
  | some m =>
    (gcmOpen (Config.gcmKey m) (blockIv (shNonce h) b) [] (toBytes ct.toNat 512) tag).map fun bs => BitVec.ofNat 4096 (ofBytes bs)

/-- Blocks that a cluster instruction store keeps (log entry 58). -/
def istoreMax : Nat := 1024
/-- Blocks that a core's fetch buffer keeps (log entry 58). -/
def fbufMax : Nat := 64

/-- What asking for a block comes to. -/
inductive BlockRes where
  | block (ct : BitVec 4096) (tag : BitVec 128)
  /-- a poisoned block or tag, which no check opens -/
  | bad
  | fault (cause sub : Nat) (va : Word)
  deriving DecidableEq, Repr

/-- Bytes of an instruction fetch, translated with X (R324). -/
def State.fetchBytes (s : State) (core : Nat) (x : XCtx) (va : Word) (n : Nat) : State × ((List Byte × Bool) ⊕ (Nat × Nat × Word)) :=
  match s.xlate core x .fetch va with
  | (s, .fault c sub) => (s, .inr (c, sub, va))
  | (s, .ok p) => (s, .inl (s.placeBytes p.key p.pa n, s.isPoisoned p.pa n || s.keyDead p.key p.pa))

/-- Block b of a program through the cluster instruction store: resident, or read with its tag through the L2 (R355).  A
poisoned block or tag fails its check, as altered ciphertext does. -/
def State.getBlock (s : State) (core : Nat) (x : XCtx) (prog : Word) (h : BitVec 3072) (b : Nat) : State × BlockRes :=
  let cl := clusterOf core
  let va := codeBase prog + BitVec.ofNat 64 (512 * b)
  match (s.clusterAt cl).istore.find? fun e => e.asid == x.asid && e.va == va.toNat with
  | some e => (s, .block e.ct e.tag)
  | none =>
    match s.fetchBytes core x va 512 with
    | (s, .inr (c, sub, a)) => (s, .fault c sub a)
    | (s, .inl (bs, bad)) =>
      match s.engRead (dieOf core) x (tagBase prog h + BitVec.ofNat 64 (16 * b)) 16 with
      | (s, .inr (c, sub, a)) => (s, .fault c sub a)
      | (s, .inl (ts, bad2)) =>
        let ct : BitVec 4096 := BitVec.ofNat 4096 (ofBytes bs)
        let tag : BitVec 128 := BitVec.ofNat 128 (ofBytes ts)
        if bad || bad2 then (s, .bad)
        else
          (s.updCluster cl fun k => { k with istore := (⟨x.asid, va.toNat, ct, tag⟩ :: k.istore).take istoreMax }, .block ct tag)

/-- A failed tag check (R211, R355): the task is killed with cause 0x0F and the bundle address, its job with 0x11. -/
def State.fetchFail (s : State) (d j serial : Nat) (a : Word) : State :=
  let mine := s.ctxsWhere fun _ _ t => t.job == j && t.serial == serial
  let s := mine.foldl (fun s (i, k) => s.killTask i k (killCause 0x0F 0) a) s
  s.killJob d j 0x11 0x04 0

/-- The constant blocks at dispatch (R356): written to the window at CONSTOFF, or the address of the block whose tag fails. -/
def State.placeConsts (s : State) (core : Nat) (x : XCtx) (prog : Word) (h : BitVec 3072) (sp : Nat) : State × Option Word :=
  (List.range (shConstBlk h)).foldl (fun acc j =>
    match acc with
    | (s, some a) => (s, some a)
    | (s, none) =>
      let b := shCodeBlk h + j
      let va := codeBase prog + BitVec.ofNat 64 (512 * b)
      match s.getBlock core x prog h b with
      | (s, .fault _ _ _) => (s, some va)
      | (s, .bad) => (s, some va)
      | (s, .block ct tag) =>
        match s.openBlock h b ct tag with
        | none => (s, some va)
        | some pt => (s.putBytes (sp + shConstOff h + 512 * j) (toBytes pt.toNat 512), none)) (s, none)

/-! Fetch. -/

/-- The program a context runs: address space, PROG, header (R217, R355). -/
def State.codeOf (s : State) (core ctx : Nat) : Option (XCtx × Word × BitVec 3072) :=
  let c := s.ctxAt core ctx
  if c.csr.sup then
    match s.progOf 0 s.supProg with
    | some p => some (s.xctxOf c, s.supProg, p.header)
    | none => none
  else
    match s.progOf c.tk.asid c.tk.prog with
    | some p => some (s.xctxOf c, c.tk.prog, p.header)
    | none => none

/-- The block number of an address in a program, if it lies in its sections. -/
def blockOf (prog : Word) (h : BitVec 3072) (a : Word) : Option Nat :=
  let d := (a - codeBase prog).toNat
  if d / 512 < shBlocks h then some (d / 512) else none

/-- Address spaces of a context, as the fetch buffer names them. -/
def State.fetchAsid (s : State) (core ctx : Nat) : Nat := (s.xctxOf (s.ctxAt core ctx)).asid

/-- The bundle at an address, when its block stands opened in the fetch buffer (R355). -/
def State.bundleAt (s : State) (core ctx : Nat) (a : Word) : Option BundleWord :=
  let asid := s.fetchAsid core ctx
  ((s.coreAt core).fbuf.find? fun b => b.asid == asid && b.va == a.toNat / 512 * 512).map fun (b : FBlock) =>
    BitVec.ofNat 512 (b.body.toNat / 2 ^ (512 * (a.toNat / 64 % 8)))

/-- How bringing a block into the fetch buffer ends. -/
inductive FetchRes where
  | ok
  | trap (cause sub : Nat)
  | broken
  deriving DecidableEq, Repr

/-- The block of an address comes to the fetch buffer and its tag is checked (R355).  Code lies 512-byte aligned because PROG
does.  An address outside the program's sections has no tag that could pass. -/
def State.fetchBlock (s : State) (core ctx : Nat) (a : Word) : State × FetchRes :=
  match s.codeOf core ctx with
  | none => (s, .broken)
  | some (x, prog, h) =>
    match blockOf prog h a with
    | none =>
      match (s.xlate core x .fetch a).2 with
      | .fault c sub => (s, .trap c sub)
      | .ok _ => (s, .broken)
    | some b =>
      match s.getBlock core x prog h b with
      | (s, .fault c sub _) => (s, .trap c sub)
      | (s, .bad) => (s, .broken)
      | (s, .block ct tag) =>
        match s.openBlock h b ct tag with
        | none => (s, .broken)
        | some body =>
          (s.updCore core fun k => { k with fbuf := (⟨x.asid, a.toNat / 512 * 512, body⟩ :: k.fbuf).take fbufMax }, .ok)

end Sys2Proof.Machine
end

