-- ==== Sys2Proof/Machine/DieCmds.lean ====
section
/-! DEFINITION. The C slot's die commands at issue (R289 to R296): their checks, and the command held for the close. -/

namespace Sys2Proof.Machine

/-- A class of operations that the job's PERM withholds (R359): checked whatever the guard (R444). -/
def State.permTrap (s : State) (part bit : Nat) : Option Trap :=
  if s.permBit s.ctx bit then none else some ⟨part, 0x09, 0x04, 0⟩

/-- The launch's handle range (R271); the supervisor, which no launch binds, has every handle. -/
def Ctx.ownsHandle (c : Ctx) (h : Nat) : Bool :=
  match c.task with
  | none => decide (h < 128)
  | some t => decide (t.hLo ≤ h) && decide (h < t.hLo + t.hCnt)

/-- The operands of a C-slot command, read at issue (R61). -/
def copCmd (op : COp) (kind : CKind) (c : Ctx) (scope : Nat) (addr : Word) : CCmd where
  kind := kind
  a := c.sGet op.ca.toNat
  b := c.sGet op.cb.toNat
  c := c.sGet op.cc.toNat
  md := op.md.toNat
  scope := scope
  addr := addr

/-- Holds a command with the others of the segment, in issue order (R105). -/
def State.holdC (s : State) (k : CCmd) : State := s.updCtx fun c => { c with held := c.held ++ [.c k] }

/-- The record address of a copy command (R291): its alignment, the bounds of `sp`, `cl` and `ds`, the translation of `g`. -/
def State.recTrap (s : State) (sp : Space) (a : Word) (n : Nat) : Option Trap :=
  if a.toNat % n ≠ 0 then some ⟨partC, 0x07, 0x02, a⟩
  else
    match sp with
    | .g => match (s.xlate s.cur.core (s.xctxOf s.ctx) .read a).2 with
      | .fault cs sub => some ⟨partC, cs, sub, a⟩
      | .ok _ => none
    | _ => if s.inBounds s.cur.core s.ctx sp a.toNat n then none else some ⟨partC, 0x07, 0x01, a⟩

/-- Classes of input formats that one MMA may combine (R200); 0 is none. -/
def mmaClass (f : Nat) : Nat :=
  if f = 1 then 1 else if f = 2 ∨ f = 3 then 2 else if f = 4 ∨ f = 5 then 3 else if f = 6 then 4 else if f = 8 then 5 else 0

/-- Fields of an MMA descriptor (R284). -/
def mdZ (d : Nat) : Bool := bitsOf d 35 35 == 1
def mdFb (d : Nat) : Nat := bitsOf d 34 31
def mdFa (d : Nat) : Nat := bitsOf d 30 27
def mdK (d : Nat) : Nat := bitsOf d 26 19
def mdTile (d : Nat) : Nat := bitsOf d 18 16
def mdOb (d : Nat) : Nat := bitsOf d 11 6
def mdOa (d : Nat) : Nat := bitsOf d 5 0

/-- The descriptor of a COPYM is checked as an MMA would be (R284). -/
def State.descTrap (s : State) (d : Word) : Option Trap :=
  let x := d.toNat
  if bitsOf x 63 36 != 0 || bitsOf x 15 12 != 0 || mmaClass (mdFa x) == 0 || mmaClass (mdFa x) != mmaClass (mdFb x) then
    some (illTrap s partC 0x05)
  else s.mmaTrap partC true (mdOa x) (mdOb x) (mdTile x) (mmaShape (mdFa x)).1 (mdFa x == 8) false (BitVec.ofNat 64 (mdK x))

/-- A command to the copy engine (R289, R291). -/
def copyOp (kind : CKind) (n : Nat) (op : COp) (s : State) : Out :=
  let c := s.ctx
  let g := c.guard op.pred op.pn
  let k := copCmd op kind c s.cur.scope s.cur.addr
  let own := if !g then none else lowerTrap (s.recTrap (spaceOf (k.md % 4)) k.a n) (if kind = .copym then s.descTrap k.b else none)
  s.sources partC [(.s, .reg op.ca), (.s, .reg op.cb), (.s, .reg op.cc)] own fun _ => if g then s.holdC k else s

def execCopy (op : COp) (s : State) : Out := copyOp .copy 128 op s
def execCopym (op : COp) (s : State) : Out := copyOp .copym 128 op s
def execGath (op : COp) (s : State) : Out := copyOp .gath 64 op s
def execScad (op : COp) (s : State) : Out := copyOp .scad 64 op s

/-- HREL (R292): the handle stands in the encoding. -/
def execHrel (op : COp) (s : State) : Out :=
  let c := s.ctx
  let g := c.guard op.pred op.pn
  let h := op.cc.toNat
  let own : Option Trap := if c.ownsHandle h then none else some ⟨partC, 0x09, 0x02, BitVec.ofNat 64 h⟩
  s.sources partC [] own fun _ =>
    if g then s.holdC { (copCmd op .hrel c s.cur.scope s.cur.addr) with c := BitVec.ofNat 64 h } else s

/-- A command to the Hearth, under a permission bit unless it needs none. -/
def hearthOp (kind : CKind) (perm : Option Nat) (op : COp) (s : State) : Out :=
  let c := s.ctx
  let g := c.guard op.pred op.pn
  let own := match perm with | some b => s.permTrap partC b | none => none
  s.sources partC [(.s, .reg op.ca), (.s, .reg op.cb)] own fun _ =>
    if g then s.holdC (copCmd op kind c s.cur.scope s.cur.addr) else s

/-- TASKL (R293). -/
def execTaskl (op : COp) (s : State) : Out := hearthOp .taskl (some 5) op s
/-- TASKS.setpri (R294). -/
def execTasksSetpri (op : COp) (s : State) : Out := hearthOp .tasksSetpri (some 6) op s
/-- TASKS.susp (R294). -/
def execTasksSusp (op : COp) (s : State) : Out := hearthOp .tasksSusp (some 6) op s
/-- TASKS.resume (R294). -/
def execTasksResume (op : COp) (s : State) : Out := hearthOp .tasksResume (some 6) op s
/-- CANC (R295): the phase and job levels need PERM bit 7. -/
def execCanc (op : COp) (s : State) : Out :=
  hearthOp .canc (if 3 ≤ bitsOf op.md.toNat 2 0 then some 7 else none) op s

/-- TMRK (R296): irrevocable, so it is performed at step 3 of the close. -/
def execTmrk (op : COp) (s : State) : Out :=
  let c := s.ctx
  let g := c.guard op.pred op.pn
  s.sources partC [(.s, .reg op.ca), (.s, .reg op.cb)] (s.permTrap partC 9) fun _ =>
    if g then s.updCtx fun c => { c with irrev := c.irrev ++ [.c (copCmd op .tmrk c s.cur.scope s.cur.addr)] } else s

end Sys2Proof.Machine
end

