-- ==== Sys2Proof/Machine/MatrixEvents.lean ====
section
/-! DEFINITION. The matrix engine at work: starting and completing its commands (R28, R190 to R194, R200 to R205), the moves of
tiles to and from their save areas (R197), and failures (R221, R250). -/

namespace Sys2Proof.Machine

/-! The products of an MMA (R28, R191, R201). -/

/-- One group of products added to an FP32 value with one rounding (R28).  DESIGN CHOICE: a group whose exact sum is zero leaves C
as it is, so that an accumulator of −0 stays −0. -/
def mmaGroup (c : XVal) (ab : List (XVal × XVal)) : XVal × Flags :=
  let ps := ab.map fun x => x.1.mul x.2
  let zi := ps.any fun p => p.2 != 0
  let pos := ps.any fun p => p.1 == .inf false
  let neg := ps.any fun p => p.1 == .inf true
  let opp := (pos && neg) || (c == .inf false && neg) || (c == .inf true && pos)
  let fl := if zi || opp then fIV else 0
  if opp || zi || ps.any (fun p => p.1.isNaN) || c.isNaN then (.nan, fl)
  else
    let sum := ps.foldl (fun a p => (a.add false p.1).1) XVal.zero
    if sum.isZero then (c, fl)
    else
      let (x, f) := rneF32 (c.add false sum).1
      ((decodeFmt .f32 x).1, fl ||| f)

/-- The groups in ascending order. -/
def mmaGroups (g : Nat) : Nat → XVal → List (XVal × XVal) → Flags → XVal × Flags
  | 0, c, _, fl => (c, fl)
  | n + 1, c, ab, fl =>
    let (c', f) := mmaGroup c (ab.take g)
    mmaGroups g n c' (ab.drop g) (fl ||| f)

/-- One output of an MMA with float inputs: its FP32 pattern. -/
def mmaFloat (g acc : Nat) (ab : List (XVal × XVal)) : Nat × Flags :=
  let (c, fl) := mmaGroups g ((ab.length + g - 1) / g) (decodeFmt .f32 acc).1 ab 0
  ((rneF32 c).1, fl)

/-- The groups of an INT8 MMA: exact sums, saturated one by one. -/
def mmaInts (g : Nat) : Nat → Int → List (Int × Int) → Flags → Int × Flags
  | 0, c, _, fl => (c, fl)
  | n + 1, c, ab, fl =>
    let x := c + (((ab.take g).map fun p => p.1 * p.2).sum)
    let y := Max.max (-(2 ^ 31 : Int)) (Min.min (2 ^ 31 - 1 : Int) x)
    mmaInts g n y (ab.drop g) (if x = y then fl else fl ||| fOF)

def mmaInt (g acc : Nat) (ab : List (Int × Int)) : Nat × Flags :=
  let (c, fl) := mmaInts g ((ab.length + g - 1) / g) (sextN 32 acc) ab 0
  (toTwos 32 c, fl)

/-- Element k of row r of an operand slot (R191): the slot's contents as one number, and its SCL. -/
def slotElem (bits : Nat) (scl : BitVec 16) (fmt r k : Nat) : XVal × Flags :=
  if fmt = 6 then
    let i := 192 * r + k
    fp4Value (bits / 2 ^ (4 * i) % 16) (bits / 2 ^ (8 * (0xC00 + i / 8)) % 256) (decodeFmt .bf16 scl.toNat).1
  else
    let w := typeWidth fmt
    decodeFmt (fmtN fmt) (bits / 2 ^ (1024 * r + k * w) % 2 ^ w)

/-- Weight k of row c of an MMAQ slot, expanded to BF16 (R201). -/
def quantElem (bits : Nat) (c k : Nat) : XVal × Flags :=
  let byte (b : Nat) : Nat := bits / 2 ^ (8 * (128 * c + b)) % 256
  let o := 4 * (k / 32)
  let (code, f1) := decodeFmt .i4 (byte (k / 2) / 2 ^ (4 * (k % 2)) % 16)
  let x := (code.add false (XVal.ofInt (-(sextN 8 (byte (34 + o)))))).1
  let (p, f2) := x.mul (decodeFmt .bf16 (byte (32 + o) + 256 * byte (33 + o))).1
  let (e, f3) := encodeFmt .bf16 .rne .none 0 p
  ((decodeFmt .bf16 e).1, f1 ||| f2 ||| f3)

/-- The contents of an operand slot as one number. -/
def State.slotBits (s : State) (core p : Nat) : Nat := memRead s.mem (omBase core p) 4096
def State.slotScl (s : State) (core p : Nat) : BitVec 16 := tget 0x3F80#16 (s.coreAt core).omScl p

/-! Engine writes. -/

/-- Bytes at a place of the core's or the cluster's memory, with their poison (R220). -/
def State.putPlace (s : State) (a : Nat) (bs : List Byte) (bad : Bool) : State :=
  let s := s.putBytes a bs
  if bad then s.poisonRange a bs.length else s

/-- Bytes that an engine writes from one store of the cores and clusters to another: the destination lines whose bytes carry poison are
marked (R220). -/
def State.movePlace (s : State) (a : Nat) (bs : List Byte) (bad : Nat → Nat → Bool) : State :=
  (s.putBytes a bs).markLines a bs.length bad

/-- Entries of one row of a tile from column 0 on. -/
def State.putRow (s : State) (core p r : Nat) (xs : List Nat) (bad : Bool) : State :=
  s.putPlace (tileBase core p + 128 * r) (xs.flatMap fun x => toBytes x 4) bad

/-- Shaped entries of a tile computed by a function of row and column. -/
def State.putTile (s : State) (core p : Nat) (sh : BitVec 14) (f : Nat → Nat → Nat) (bad : Bool) : State :=
  (List.range (shpRows sh)).foldl (fun t r => t.putRow core p r ((List.range (shpCols sh)).map fun c => f r c) bad) s

/-- The tile that a command names: its record and physical tile. -/
def State.cmdTile (s : State) (core : Nat) (c : MCmd) : Option (Tile × Nat) :=
  match c.tile with
  | none => none
  | some t =>
    match (s.coreAt core).tile c.ctx c.serial t with
    | none => none
    | some r => r.phys.map fun p => (r, p)

/-- Every tile write makes the tile DIRTY (R197). -/
def State.dirtyTile (s : State) (core : Nat) (c : MCmd) : State :=
  match c.tile with
  | none => s
  | some t => s.updTile core c.ctx c.serial t fun x => { x with stat := .dirty }

/-- A drain of the task's tile was rejected or stopped (R199): kept beside the tile, whose release does not clear it. -/
def State.setDerr (s : State) (core : Nat) (c : MCmd) : State :=
  let x := s.ctxAt core c.ctx
  match c.tile with
  | none => s
  | some t =>
    if x.task.isNone || x.tk.serial != c.serial then s
    else s.updCtxAt core c.ctx fun y => { y with derr := y.derr ||| BitVec.ofNat 8 (2 ^ t) }

/-- The bytes of an operand slot that hold elements 0 to k − 1 of row r (R191): offset and length. -/
def slotSpans (fmt k r : Nat) : List (Nat × Nat) :=
  if fmt = 6 then [(96 * r, (k + 1) / 2), (0xC00 + 24 * r, (k + 7) / 8)] else [(128 * r, (k * typeWidth fmt + 7) / 8)]

/-- Those of row c of an MMAQ slot (R201): the weights, and the words of their groups. -/
def quantSpans (k c : Nat) : List (Nat × Nat) := [(128 * c, (k + 1) / 2), (128 * c + 32, 4 * ((k + 31) / 32))]

/-- An MMA or MMAQ (R200, R201), over spans `sa` and `sb` of its slots; one that reads poisoned data marks the entries that it writes
(R220). -/
def State.runMma (s : State) (core : Nat) (c : MCmd) (p a b k g : Nat) (isInt z : Bool)
    (ea eb : Nat → Nat → XVal × Flags) (sa sb : Nat → List (Nat × Nat)) : State × Flags :=
  let sh := c.shape
  let ks := List.range k
  let cell (r j : Nat) : Nat × Flags :=
    let acc := if z then 0 else s.tileEntry core p r j
    if isInt then
      let iv (x : XVal) : Int := match x with | .fin n m _ => if n then -m else m | _ => 0
      mmaInt g acc (ks.map fun i => (iv (ea r i).1, iv (eb j i).1))
    else
      let (x, f) := mmaFloat g acc (ks.map fun i => ((ea r i).1, (eb j i).1))
      (x, ks.foldl (fun y i => y ||| (ea r i).2 ||| (eb j i).2) f)
  let rows := (List.range (shpRows sh)).map fun r => (List.range (shpCols sh)).map fun j => cell r j
  let any (base : Nat) (l : List (Nat × Nat)) : Bool := l.any fun y => s.isPoisoned (base + y.1) y.2
  let bad := (List.range (shpRows sh)).any (fun r => any (omBase core a) (sa r)) ||
    (List.range (shpCols sh)).any (fun j => any (omBase core b) (sb j)) ||
    (!z && (List.range (shpRows sh)).any fun r => s.isPoisoned (tileBase core p + 128 * r) (4 * shpCols sh))
  let fl := rows.foldl (fun f row => row.foldl (fun f x => f ||| x.2) f) 0
  let s := rows.zipIdx.foldl (fun t (row, r) => t.putRow core p r (row.map Prod.fst) bad) s
  (s.dirtyTile core c, fl)

/-! Drains (R204). -/

/-- One element of a drain: where it goes, and what it writes. -/
structure DrainOut where
  place : ElemPlace
  w : Nat
  bits : Nat
  /-- block scale, for FP4 with scales -/
  scale : Option Nat
  fl : Flags
  deriving DecidableEq, Repr

/-- The exact value of a tile entry in its type. -/
def entryValue (sh : BitVec 14) (x : Nat) : XVal := (decodeFmt (if shpInt sh then .i32 else .f32) x).1

/-- FP4 without block scales: s = 1.0, with the row's band scale (R25); an infinity becomes the largest magnitude that the clamp
leaves, with IV (R23). -/
def encBandOnly (mode : RMode) (cl : Clamp) (band : XVal) (r : Nat) (v : XVal) : Nat × Flags :=
  match band with
  | .fin bneg bm be =>
    if bm = 0 then (0, fIV)
    else
      let cl : Clamp := match cl with
        | .at a b => .at (a * dyDen be) (b * dyNum bm be)
        | y => y
      match v with
      | .nan => (0, fIV)
      | .inf n => ((encFp4Scaled .rtz cl 0 1 0 (n != bneg) 6 1).1, fIV)
      | .fin n m e => encFp4Scaled mode cl r 1 0 (n != bneg) (dyNum m e * dyDen be) (dyDen e * dyNum bm be)
  | _ => (0, fIV)

/-- One element of a drain to a page of format `fmt`, geometry `geo`: entry (r, c), with its row's band entry and the draws of the
written elements from number `i` on (R204).  DESIGN CHOICE: where EXT0 cuts a GEO 001 page's last block, the scale is chosen over
the tile's eight entries of the block, the ones that are not written included, and all eight raise their flags (log entry 158). -/
def drainOut (rec0 : BitVec 512) (sh : BitVec 14) (row0 col0 fmt : Nat) (geo : Bool) (entry : Nat → Nat → Nat)
    (band : Option Nat) (draws : List Nat) (i r c : Nat) : DrainOut :=
  let mode := rmodeOf (tnRm rec0)
  let cl := tnClampOf rec0
  let (place, w) := drainPlace rec0 row0 col0 fmt geo r c
  if fmt = 0 then ⟨place, w, entry r c, none, 0⟩
  else if geo then
    let j := c / 8 * 8
    let xs := (List.range 8).map fun q => entryValue sh (entry r (j + q))
    let rs := (List.range 8).map fun q => draws.getD (i - c % 8 + q) 0
    let (code, els, fl) := encBlock mode cl (bandValue band) rs xs
    ⟨place, w, els.getD (c % 8) 0, some code, fl⟩
  else
    let v := entryValue sh (entry r c)
    let (x, fl) :=
      if fmt = 6 then encBandOnly mode cl (bandValue band) (draws.getD i 0) v
      else encodeFmt (fmtN fmt) mode cl (draws.getD i 0) v
    ⟨place, w, x, none, fl⟩

/-- How a drain went on. -/
inductive DrainEnd where
  | done
  | rejected
  | stopped
  /-- a write failed after translation (R221) -/
  | broken (pa : Word)
  /-- suspended at an element: virtual address and fault -/
  | held (pos : Nat) (bands : Tab (Nat × Bool)) (cause sub : Nat) (va : Word)
  deriving DecidableEq, Repr

/-- Writes one element: its bits, and its block's scale. -/
def State.putElem (s : State) (die : Nat) (x : XCtx) (o : DrainOut) (bad : Bool) : State × Option (Nat × Nat × Word) :=
  let n := (o.place.sh + o.w + 7) / 8
  match s.engPage die x .write o.place.va with
  | (s, .inr f) => (s, some f)
  | (s, .inl p) =>
    if s.keyDead p.key p.pa then (s, some (0x0E, 0x01, BitVec.ofNat 64 p.pa)) else
    let old := ofBytes (s.placeBytes p.key p.pa n)
    let s := s.logDirty p n
    let s := s.storeAt p.key p.pa (toBytes (setBits old o.place.sh o.w o.bits) n)
    let s := if bad then s.poisonLines p.pa n else s
    match o.place.scale, o.scale with
    | some a, some code =>
      match s.engPage die x .write a with
      | (s, .inr f) => (s, some f)
      | (s, .inl p) =>
        let s := s.storeAt p.key p.pa [BitVec.ofNat 8 code]
        (if bad then s.poisonLines p.pa 1 else s, none)
    | _, _ => (s, none)

/-- Whether a fault suspends: page not present (R204). -/
def faultWaits (c sub : Nat) : Bool := c == 0x08 && sub == 0x01

/-- The formats of the pages that the places lie in, as far as they translate. -/
def State.drainPages (s : State) (die : Nat) (x : XCtx) (places : List ElemPlace) : List (Nat × Nat) :=
  (places.filterMap fun o => match (s.engPage die x .read o.va).2 with
    | .inl p => some (p.fmt, p.geo)
    | .inr _ => none).eraseDups

/-- A band entry of a record: the bits at BANDP + 2b, read through translation, and their poison. -/
def State.bandRead (s : State) (die : Nat) (x : XCtx) (rec0 : BitVec 512) (row : Nat) : State × ((Nat × Bool) ⊕ (Nat × Nat × Word)) :=
  match s.engRead die x (BitVec.ofNat 64 (tnBandp rec0 + 2 * (row / 64))) 2 with
  | (s, .inl (bs, bad)) => (s, .inl (ofBytes bs, bad))
  | (s, .inr f) => (s, .inr f)

/-- What a drain has done so far: its state, the element reached, the band entries read and the flags. -/
structure DrainRun where
  s : State
  pos : Nat
  bands : Tab (Nat × Bool)
  fl : Flags
  fault : Option (Nat × Nat × Word)

/-- One element of a drain: its band entry, read when the band's first element is converted and kept (R27), and its write. -/
def DrainRun.elem (d : DrainRun) (core p : Nat) (e : MQEntry) (row0 col0 fmt : Nat) (geo bad : Bool) (draws : List Nat)
    (i r c : Nat) : DrainRun :=
  let x := e.cmd.x
  let die := dieOf core
  let b := (row0 + r) / 64
  let band : State × (Tab (Nat × Bool) ⊕ (Nat × Nat × Word)) :=
    if fmt != 6 || tnBandp e.recd == 0 || (tfind d.bands b).isSome then (d.s, .inl d.bands)
    else match d.s.bandRead die x e.recd (row0 + r) with
      | (s, .inl y) => (s, .inl (tset d.bands b y))
      | (s, .inr f) => (s, .inr f)
  match band with
  | (s, .inr f) => { d with s := s, fault := some f }
  | (s, .inl bands) =>
    let y := tfind bands b
    let o := drainOut e.recd e.cmd.shape row0 col0 fmt geo (fun r j => s.tileEntry core p r j) (y.map Prod.fst) draws i r c
    -- the entry, or with block scales the eight entries of its block
    let own := if fmt = 6 && geo then s.isPoisoned (tileBase core p + 128 * r + 4 * (c / 8 * 8)) 32 else s.isPoisoned (tileBase core p + 128 * r + 4 * c) 4
    match s.putElem die x o (bad || own || y.any Prod.snd) with
    | (s, some f) => { d with s := s, bands := bands, fault := some f }
    | (s, none) => { s := s, pos := d.pos + 1, bands := bands, fl := d.fl ||| o.fl, fault := none }

/-- Runs a drain from element `e.pos` on: the state, the flags and the end (R204). -/
def State.runDrain (s : State) (core : Nat) (e : MQEntry) (p : Nat) (row0 col0 : Nat) : State × Flags × DrainEnd :=
  let c := e.cmd
  let rec0 := e.recd
  let base := BitVec.ofNat 64 (tnBase rec0)
  if tnBad rec0 then (s, e.fl ||| fIV, .rejected)
  else
    match s.engPage (dieOf core) c.x .write base with
    | (s, .inr (cs, sub, va)) => if faultWaits cs sub then (s, e.fl, .held e.pos e.bands cs sub va) else (s, e.fl ||| fIV, .stopped)
    | (s, .inl pg) =>
      let geo := pg.geo == 1
      if pg.fmt = 6 && geo && (col0 % 8 != 0 || shpCols c.shape % 8 != 0) then (s, e.fl ||| fIV, .rejected)
      else
        let cells := drainCells rec0 c.shape row0 col0
        let places := cells.map fun y => (drainPlace rec0 row0 col0 pg.fmt geo y.1 y.2).1
        if (s.drainPages (dieOf core) c.x places).any (fun y => y != (pg.fmt, pg.geo)) then (s, e.fl ||| fIV, .rejected)
        else
          let bad := e.recBad
          -- the draw of the i-th written element
          let draws := (cells.foldl (fun (acc : List Nat × Word) _ =>
            let g := lfsrStep acc.2
            (acc.1 ++ [lfsrDraw g], g)) ([], tnGen rec0)).1
          let d := (cells.zipIdx.drop e.pos).foldl (fun (d : DrainRun) y =>
            if d.fault.isSome then d else d.elem core p e row0 col0 pg.fmt geo bad draws y.2 y.1.1 y.1.2)
            { s := s, pos := e.pos, bands := e.bands, fl := e.fl, fault := none }
          match d.fault with
          | none => (d.s, d.fl, .done)
          | some (cs, sub, va) =>
            if faultWaits cs sub then (d.s, d.fl, .held d.pos d.bands cs sub va)
            else if cs = 0x0E then (d.s, d.fl, .broken va) else (d.s, d.fl ||| fIV, .stopped)

/-! Starting and completing commands (R194). -/

/-- Steps of a command. -/
def mSteps (c : MCmd) : Nat :=
  let n := shpRows c.shape * shpCols c.shape
  match c.kind with
  | .mma _ _ k fa _ _ => (k + (mmaShape fa).2.1 - 1) / (mmaShape fa).2.1
  | .mmaq _ _ k _ => (k + 3) / 4
  | .omld _ | .omst _ | .tsave => 64
  | .tld | .tst => (4 * n + 63) / 64
  | .tdrain _ _ _ => (n + 15) / 16
  | .tzero | .omrel _ _ | .rowW _ _ _ | .colW _ _ _ => 1

/-- Replaces the n-th entry of a list. -/
def setAt {α : Type} : List α → Nat → (α → α) → List α
  | [], _, _ => []
  | x :: t, 0, f => f x :: t
  | x :: t, n + 1, f => x :: setAt t n f

/-- Whether the tile of a command can be worked on: resident, and not being moved (R197). -/
def State.tileHere (s : State) (core : Nat) (c : MCmd) : Bool :=
  match c.tile with
  | none => true
  | some t => match (s.coreAt core).tile c.ctx c.serial t with
    | none => true
    | some r => r.stat != .saved && r.saving.isNone && r.restoring.isNone

/-- The engine starts its next command (R194): in the cycle after it arrived and after the last step before it; a command on
a SAVED tile waits for the restore (R197), and a stalled core starts no step (R337). -/
def State.startCmd (s : State) (core : Nat) : State :=
  let k := s.coreAt core
  match k.mq.findIdx? fun e => e.start.isNone with
  | none => s
  | some i =>
    match k.mq[i]? with
    | none => s
    | some e =>
      if s.stalled (srcCore core) || decide (k.cycle ≤ e.arrive) || k.mq.any (fun d => d.start.isSome && decide (k.cycle ≤ d.last)) then s
      else if !s.tileHere core e.cmd then
        match e.cmd.tile with
        | some t => (s.updTile core e.cmd.ctx e.cmd.serial t fun x => { x with want := true }).updCore core Core.serveTiles
        | none => s
      else
        let rec0 : BitVec 512 := match e.cmd.kind with
          | .tdrain _ _ _ => BitVec.ofNat 512 (memRead s.mem e.cmd.place 64)
          | _ => 0
        let bad := match e.cmd.kind with
          | .tdrain _ _ _ => s.isPoisoned e.cmd.place 64
          | _ => false
        s.setCore core { k with mxLast := some e.cmd, mq := setAt k.mq i fun e =>
          { e with start := some k.cycle, last := k.cycle + mSteps e.cmd - 1, recd := rec0, recBad := bad } }

def evMatrixCmdStart (core : Nat) (s : State) : Out := .next (s.startCmd core)

/-- Whether a context stands at a debug stop (R344). -/
def Ctx.debugStopped (c : Ctx) : Bool :=
  c.stat == .frozen && c.freeze == .trap && bitsOf c.csr.trapc.toNat 7 0 == 0x03

/-- The flags of a matrix command (R108, R344): to the issuing task, if it still holds its context. -/
def State.matrixFlags (s : State) (core : Nat) (c : MCmd) (fl : Flags) : State :=
  let x := s.ctxAt core c.ctx
  if fl = 0 || x.task.isNone || x.tk.serial != c.serial then s
  else if x.debugStopped then s.updCtxAt core c.ctx fun y => { y with deferred := y.deferred ++ [.flags fl c.addr] }
  else s.updCtxAt core c.ctx fun y => y.engineFlags 3 fl c.addr

/-- Slots and tiles of an ended task, once nothing of it is pending (R189, R198). -/
def State.releaseLate (s : State) (core ctx serial : Nat) : State :=
  s.updCore core fun k =>
    if k.taskPending ctx serial then k
    else
      let late := k.omLate.filter fun x => x.1 == ctx && x.2.1 == serial
      Core.serveTiles { k with
        omFree := late.foldl (fun f x => poolAdd f x.2.2) k.omFree
        omLate := k.omLate.filter fun x => !(x.1 == ctx && x.2.1 == serial)
        tiles := k.tiles.filter fun x => !(x.dead && x.ctx == ctx && x.serial == serial) }

/-- The lanes of a mask below a bound, as entries side by side: two that make up a whole word are one write, which clears its poison
(R220). -/
def State.putLanes (s : State) (a : Nat) (x : Vec) (m : Word) (n : Nat) : State :=
  let on (j : Nat) : Bool := decide (j < n) && m.getLsbD j
  (List.range 32).foldl (fun s i =>
    let lo := toBytes (vlane x (2 * i)) 4
    let hi := toBytes (vlane x (2 * i + 1)) 4
    match on (2 * i), on (2 * i + 1) with
    | true, true => s.putPlace (a + 8 * i) (lo ++ hi) false
    | true, false => s.putPlace (a + 8 * i) lo false
    | false, true => s.putPlace (a + 8 * i + 4) hi false
    | false, false => s) s

/-- What a command that reaches its completion does: the state, its flags, and whether it waits on a fault record. -/
def State.runCmd (s : State) (core : Nat) (e : MQEntry) : State × Flags × Bool :=
  let c := e.cmd
  let die := dieOf core
  let unit := srcCore core
  let ten := s.tenantOf c.job
  match c.kind with
  | .omrel _ phys => (s.updCore core fun k => { k with omFree := poolAdd k.omFree phys }, 0, false)
  | .omld p =>
    let bad := s.isPoisoned c.place 4096
    let s := s.putPlace (omBase core p) (memBytes s.mem c.place 4096) bad
    (s.updCore core fun k => { k with omScl := tset k.omScl p 0x3F80#16 }, 0, false)
  | .omst p => (s.movePlace c.place (memBytes s.mem (omBase core p) 4096) (fun o n => s.isPoisoned (omBase core p + o) n), 0, false)
  | .mma a b k fa fb z =>
    match s.cmdTile core c with
    | none => (s, 0, false)
    | some (_, p) =>
      let ba := s.slotBits core a
      let bb := s.slotBits core b
      let (s, fl) := s.runMma core c p a b k (mmaShape fa).2.2 (fa == 8) z
        (slotElem ba (s.slotScl core a) fa) (slotElem bb (s.slotScl core b) fb) (slotSpans fa k) (slotSpans fb k)
      (s, fl, false)
  | .mmaq a b k z =>
    match s.cmdTile core c with
    | none => (s, 0, false)
    | some (_, p) =>
      let ba := s.slotBits core a
      let bb := s.slotBits core b
      let (s, fl) := s.runMma core c p a b k 4 false z (slotElem ba (s.slotScl core a) 3) (quantElem bb)
        (slotSpans 3 k) (quantSpans k)
      (s, fl, false)
  | .tzero =>
    match s.cmdTile core c with
    | none => (s, 0, false)
    | some (_, p) => ((s.zeroTile core p).dirtyTile core c, 0, false)
  | .rowW i x m =>
    match s.cmdTile core c with
    | none => (s, 0, false)
    | some (_, p) =>
      if i < shpRows c.shape then
        ((s.putLanes (tileBase core p + 128 * i) x m (shpCols c.shape)).dirtyTile core c, 0, false)
      else (s, 0, false)
  | .colW i x m =>
    match s.cmdTile core c with
    | none => (s, 0, false)
    | some (_, p) =>
      if i < shpCols c.shape then
        (((List.range (shpRows c.shape)).foldl (fun t j =>
          if m.getLsbD j then t.putPlace (tileBase core p + 128 * j + 4 * i) (toBytes (vlane x j) 4) false else t) s).dirtyTile core c,
          0, false)
      else (s, 0, false)
  | .tld =>
    match s.cmdTile core c with
    | none => (s, 0, false)
    | some (_, p) =>
      let nc := shpCols c.shape
      let bad := s.isPoisoned c.place (shpBytes c.shape)
      let src := s
      ((s.putTile core p c.shape (fun r j => memRead src.mem (c.place + 4 * (r * nc + j)) 4) bad).dirtyTile core c, 0, false)
  | .tst =>
    match s.cmdTile core c with
    | none => (s, 0, false)
    | some (_, p) =>
      let cells := (List.range (shpRows c.shape)).flatMap fun r => (List.range (shpCols c.shape)).map fun j => s.tileEntry core p r j
      let nc := shpCols c.shape
      let bad (o n : Nat) : Bool := (List.range ((n + 3) / 4)).any fun i =>
        s.isPoisoned (tileBase core p + 128 * ((o / 4 + i) / nc) + 4 * ((o / 4 + i) % nc)) 4
      (s.movePlace c.place (cells.flatMap fun x => toBytes x 4) bad, 0, false)
  | .tsave =>
    match s.cmdTile core c with
    | none => (s, 0, false)
    | some (r, p) =>
      if r.save = 0 then (s, 0, false)
      else
        match s.engWrite die r.x r.save (memBytes s.mem (tileBase core p) 4096) (fun o n => s.isPoisoned (tileBase core p + o) n) with
        | (s, none) => (s.updTile core c.ctx c.serial r.t fun y => { y with stat := .clean }, 0, false)
        | (s, some (cs, sub, va)) =>
          if cs = 0x0E then (s.engineCheck die c.job c.serial (cs, 0x02, va), 0, false) else
          (s.queueFault die unit ten (core % 64 * 2 ^ 18 + 8 + r.t) c.x.asid cs sub true va (.tile core c.ctx c.serial r.t), 0, true)
  | .tdrain zr row0 col0 =>
    match s.cmdTile core c with
    | none => (s, 0, false)
    | some (r, p) =>
      let (s, fl, en) := s.runDrain core e p row0 col0
      let fin (s : State) : State := if zr then (s.zeroTile core p).dirtyTile core c else s
      match en with
      | .done => (fin s, fl, false)
      | .rejected => (fin (s.setDerr core c), fl, false)
      | .stopped => (fin (s.setDerr core c), fl, false)
      | .broken pa => (s.engineCheck die c.job c.serial (0x0E, 0x01, pa), fl, false)
      | .held pos bands cs sub va =>
        let s := s.updCore core fun k => { k with mq := k.mq.map fun d => if d = e then { d with pos := pos, bands := bands, fl := fl } else d }
        (s.queueFault die unit ten (core % 64 * 2 ^ 18 + r.t) c.x.asid cs sub true va (.drain core c.ctx c.serial r.t), 0, true)

/-- The place in the queue of the first command that is due: 12 cycles after its last step, neither waiting on a fault record
nor behind such a command on its own tile. -/
def Core.dueCmd (k : Core) : Option Nat :=
  (List.range k.mq.length).find? fun i =>
    match k.mq[i]? with
    | none => false
    | some e =>
      e.start.isSome && decide (e.last + 12 ≤ k.cycle) && !e.stuck &&
      !((k.mq.take i).any fun d => d.stuck && d.cmd.ctx == e.cmd.ctx && d.cmd.serial == e.cmd.serial &&
        d.cmd.tile == e.cmd.tile && d.cmd.tile.isSome)

/-- The shape of a task's tile: its TSHP, or what END left of it. -/
def State.tileShape (s : State) (core ctx serial t : Nat) : BitVec 14 :=
  let c := s.ctxAt core ctx
  if c.task.isSome && c.tk.serial == serial then c.tshp t
  else match (s.coreAt core).tile ctx serial t with
    | some x => x.shp
    | none => 0

/-- The MMA of a COPYM takes a free queue entry (R284); one whose tile is not configured is discarded and recorded. -/
def State.enqueueMma (s : State) (core : Nat) : State :=
  let k := s.coreAt core
  match k.mmaWait with
  | [] => s
  | c :: rest =>
    if 16 ≤ k.mq.length then s
    else
      let t := c.tile.getD 0
      let sh := s.tileShape core c.ctx c.serial t
      let s := s.setCore core { k with mmaWait := rest }
      if sh = 0 then
        (s.emit (srcCore core) (s.tenantOf c.job) 0x23 (c.follow.getD 0 % 128 + t * 2 ^ 7 + c.addr.toNat / 2 ^ 10 * 2 ^ 10)).releaseLate
          core c.ctx c.serial
      else
        (s.updCore core fun k => { k with mq := k.mq ++ [MQEntry.new { c with shape := sh } k.cycle] }).updTile core c.ctx c.serial t
          fun x => { x with want := x.want || x.stat == .saved }

/-- Ends a command: its entry frees, the MMA of a COPYM takes it ahead of any close (R284), and what waited for its task is
released. -/
def State.endCmd (s : State) (core i : Nat) (c : MCmd) (fl : Flags) : State :=
  let s := s.matrixFlags core c fl
  let s := (s.updCore core fun k => { k with mq := k.mq.eraseIdx i }).enqueueMma core
  (s.releaseLate core c.ctx c.serial).updCore core Core.serveTiles

/-- A matrix command completes (R194). -/
def State.completeCmd (s : State) (core : Nat) : State :=
  match (s.coreAt core).dueCmd with
  | none => s
  | some i =>
    match (s.coreAt core).mq[i]? with
    | none => s
    | some e =>
      let (s, fl, wait) := s.runCmd core e
      if wait then s.updCore core fun k => { k with mq := setAt k.mq i fun d => { d with stuck := true } }
      else s.endCmd core i e.cmd fl

def evMatrixCmdComplete (core : Nat) (s : State) : Out := .next (s.completeCmd core)

/-! Tile moves (R197). -/

/-- The tile that a claim of a context evicts: another context's, not pending, with a save area, at rest; CLEAN before DIRTY,
then the lowest physical tile. -/
def Core.victim (k : Core) (ctx : Nat) : Option Tile :=
  let ok (want : TileStat) (p : Nat) : Option Tile := k.tiles.find? fun x =>
    x.ctx != ctx && x.phys == some p && x.stat == want && x.save != 0 && x.saving.isNone && x.restoring.isNone &&
    !(k.isPending x.ctx x.serial x.t)
  match (List.range 8).findSome? (ok .clean) with
  | some x => some x
  | none => (List.range 8).findSome? (ok .dirty)

/-- Whether a context waits for a physical tile: a TCFG, or the restore of a SAVED tile. -/
def Core.claims (k : Core) (ctx : Nat) : Bool :=
  (k.ctxAt ctx).claim || k.tiles.any fun x => x.ctx == ctx && x.want && x.stat == .saved

/-- A claim with no free physical tile evicts one, or goes on waiting (R197). -/
def Core.evict (k : Core) (ctx : Nat) : Core :=
  if !k.claims ctx || k.freePhys.isSome || k.tiles.any (fun x => x.saving.isSome || x.restoring.isSome) then k
  else
    match k.victim ctx with
    | none => k
    | some v =>
      if v.stat = .clean then (k.updTile v.ctx v.serial v.t fun y => { y with stat := .saved, phys := none }).serveTiles
      else k.updTile v.ctx v.serial v.t fun y => { y with saving := some (k.cycle + 64) }

def evTileClaimEvict (core ctx : Nat) (s : State) : Out := .next (s.updCore core fun k => k.evict ctx)

/-- A move whose 64 cycles have run. -/
def Core.dueMove (k : Core) (f : Tile → Option Nat) : Option Tile :=
  k.tiles.find? fun x => !x.stuck && (match f x with | some d => decide (d ≤ k.cycle) | none => false)

/-- A lazy save ends (R197): a fault of the save area waits on a record. -/
def State.saveTile (s : State) (core : Nat) : State :=
  match (s.coreAt core).dueMove Tile.saving with
  | none => s
  | some x =>
    let p := x.phys.getD 0
    match s.engWrite (dieOf core) x.x x.save (memBytes s.mem (tileBase core p) 4096) (fun o n => s.isPoisoned (tileBase core p + o) n) with
    | (s, none) =>
      (s.updTile core x.ctx x.serial x.t fun y => { y with stat := .saved, phys := none, saving := none }).updCore core Core.serveTiles
    | (s, some (cs, sub, va)) =>
      if cs = 0x0E then
        (s.updTile core x.ctx x.serial x.t fun y => { y with stat := .saved, phys := none, saving := none }).engineCheck
          (dieOf core) x.job x.serial (cs, 0x02, va)
      else
      let s := s.updTile core x.ctx x.serial x.t fun y => { y with stuck := true }
      s.queueFault (dieOf core) (srcCore core) (s.tenantOf x.job) (core % 64 * 2 ^ 18 + 8 + x.t) x.x.asid cs sub true va
        (.tile core x.ctx x.serial x.t)

def evLazySaveDone (core : Nat) (s : State) : Out := .next (s.saveTile core)

/-- A lazy restore ends (R197): the tile is CLEAN, with whatever poison the copy held. -/
def State.restoreTile (s : State) (core : Nat) : State :=
  match (s.coreAt core).dueMove Tile.restoring with
  | none => s
  | some x =>
    let p := x.phys.getD 0
    match s.engRuns (dieOf core) x.x .read x.save 4096 with
    | (s, .inl rs) =>
      let t := s.putBytes (tileBase core p) (s.runsBytes rs)
      let s := (List.range 512).foldl (fun t i => if s.runsBad rs (8 * i) 8 then t.poisonRange (tileBase core p + 8 * i) 8 else t) t
      (s.updTile core x.ctx x.serial x.t fun y => { y with stat := .clean, restoring := none }).updCore core Core.serveTiles
    | (s, .inr (cs, sub, va)) =>
      let s := s.updTile core x.ctx x.serial x.t fun y => { y with stuck := true }
      s.queueFault (dieOf core) (srcCore core) (s.tenantOf x.job) (core % 64 * 2 ^ 18 + 8 + x.t) x.x.asid cs sub false va
        (.tile core x.ctx x.serial x.t)

def evLazyRestoreDone (core : Nat) (s : State) : Out := .next (s.restoreTile core)

/-- A resolved record of a tile move or a TSAVE (R197, R327). -/
def State.resumeTile (s : State) (core ctx serial t : Nat) (fail : Bool) : State :=
  let k := s.coreAt core
  match k.tile ctx serial t with
  | none => s
  | some x =>
    let save := k.mq.findIdx? fun e => e.stuck && e.cmd.ctx == ctx && e.cmd.serial == serial && e.cmd.tile == some t &&
      e.cmd.kind == .tsave
    if x.stuck then
      if !fail then s.updTile core ctx serial t fun y => { y with stuck := false }
      else if x.restoring.isSome then
        let p := x.phys.getD 0
        let s := s.poisonRange (tileBase core p) 4096
        (s.updTile core ctx serial t fun y => { y with stat := .dirty, restoring := none, stuck := false }).updCore core Core.serveTiles
      else
        let s := s.updTile core ctx serial t fun y => { y with stat := .saved, phys := none, saving := none, stuck := false }
        s.machineCheck (dieOf core) x.job serial 0x02 x.save
    else
      match save with
      | none => s
      | some i =>
        if !fail then s.updCore core fun k => { k with mq := setAt k.mq i fun e => { e with stuck := false } }
        else
          let s := match k.mq[i]? with | some e => s.endCmd core i e.cmd 0 | none => s
          s.machineCheck (dieOf core) x.job serial 0x02 x.save

/-- A resolved record of a drain (R204, R327): with FAIL it stops, with the flags of the elements written and IV. -/
def State.resumeDrain (s : State) (core ctx serial t : Nat) (fail : Bool) : State :=
  let k := s.coreAt core
  match k.mq.findIdx? fun e => e.stuck && e.cmd.kind != .tsave && e.cmd.ctx == ctx && e.cmd.serial == serial && e.cmd.tile == some t with
  | none => s
  | some i =>
    if !fail then s.updCore core fun k => { k with mq := setAt k.mq i fun e => { e with stuck := false } }
    else
      match k.mq[i]? with
      | none => s
      | some e =>
        let s := s.setDerr core e.cmd
        let s := match e.cmd.kind, s.cmdTile core e.cmd with
          | .tdrain true _ _, some (_, p) => (s.zeroTile core p).dirtyTile core e.cmd
          | _, _ => s
        s.endCmd core i e.cmd (e.fl ||| fIV)

/-! Failures. -/

/-- A write that fails after translation (R221): Sniras records the physical address; the task that issued it is killed with
its cause, the rest of its job on every die with 0x11.  An uncorrectable error that makes the write fail is recorded with the action of a
machine check (R339) by the unit that holds the address, for the context charged (log entry 196). -/
def evMachineCheck (job serial sub : Nat) (pa : Word) (s : State) : Out :=
  let st := structOf pa.toNat
  let who := (s.ctxsWhere fun _ _ t => t.job == job && t.serial == serial).head?.getD (0, 0)
  .next ((s.emit (eccSource who.1 st pa.toNat) (s.tenantOf job) 0x29
    (pa.toNat % 2 ^ 48 + st * 2 ^ 48 + 3 * 2 ^ 56 + who.2 * 2 ^ 59)).machineCheck (dieOf who.1) job serial sub pa)

/-- Requests of urgent launches with matrix commands that wait in a no-matrix cluster go back to their Hearth (R251). -/
def State.recallUrgent (s : State) (cl : Nat) : State :=
  (List.range 8).foldl (fun s i =>
    let core := 8 * cl + i
    let out := (s.coreAt core).xqueue.filterMap fun q => match q with
      | .urgent l => match (s.node (lnchDie l) (lnchNode l)).lrec with
        | some r => if lrNomx r then none else some l
        | none => none
      | _ => none
    let s := s.updCore core fun k => { k with xqueue := k.xqueue.filter fun q => match q with | .urgent l => !(out.contains l) | _ => true }
    out.foldl (fun s l => (s.updNode (lnchDie l) (lnchNode l) fun y => { y with st := .ready, next := 0 }).unbindAll l) s) s

/-- A matrix engine fails (R250): its cluster becomes no-matrix, and the boot evidence records it (R373); the engine's commands fail as machine checks; the core's
contexts of matrix launches are killed for the failure (R211), then the jobs of both. -/
def evMatrixEngineFailure (core : Nat) (boot : Bool) (s : State) : Out :=
  let k := s.coreAt core
  let cl := clusterOf core
  let s := (s.updCluster cl fun c => { c with nomx := true }).recallUrgent cl
  let s := { s with sn := { s.sn with nomx := s.sn.nomx ||| BitVec.ofNat 32 (2 ^ cl) } }
  let s := s.emit (srcBarrier cl) 0 0x2A (core % 8 + cl % 8 * 8 + if boot then 0 else 2 ^ 6)
  let cmds := k.mq.map MQEntry.cmd ++ k.mmaWait
  let s := s.updCore core fun k => { k with mq := [], mmaWait := [] }
  let s := cmds.foldl (fun s c => (s.chargeCheck (dieOf core) c.job c.serial 0x03 (BitVec.ofNat 64 c.place)).releaseLate core c.ctx c.serial) s
  let mine := (List.range 5).filter fun i =>
    match (k.ctxAt i).task with
    | some t => (k.ctxAt i).stat != .free && !t.nomx
    | none => false
  let s := mine.foldl (fun s i => s.killTask core i (killCause 0x11 0x05) 0) s
  .next ((cmds.map MCmd.job ++ mine.map fun i => (k.ctxAt i).tk.job).eraseDups.foldl (fun s j => s.killJob (dieOf core) j 0x11 0x04 0) s)

/-! The events, at the place and with the arguments in focus. -/

def execMatrixCmdStart (s : State) : Out := evMatrixCmdStart s.cur.core s
def execMatrixCmdComplete (s : State) : Out := evMatrixCmdComplete s.cur.core s
def execTileClaimEvict (s : State) : Out := evTileClaimEvict s.cur.core s.cur.ctx s
def execLazySaveDone (s : State) : Out := evLazySaveDone s.cur.core s
def execLazyRestoreDone (s : State) : Out := evLazyRestoreDone s.cur.core s
def execMachineCheck (s : State) : Out := evMachineCheck (s.arg 0) (s.arg 1) (s.arg 2) (BitVec.ofNat 64 (s.arg 3)) s
def execMatrixEngineFailure (s : State) : Out := evMatrixEngineFailure s.cur.core (s.arg 0 != 0) s

end Sys2Proof.Machine
end

