-- ==== Sys2Proof/Machine/CopyEvents.lean ====
section
/-! DEFINITION. The copy engines: records, pieces, gathers and scatter-adds, completions, handles, follow-on MMAs and copy
nodes (R246, R274 to R288). -/

namespace Sys2Proof.Machine

/-! Records (R275, R285). -/

def cpHnd (r : Nat) : Nat := bitsOf r 858 852
def cpTmode (r : Nat) : Bool := bitsOf r 851 851 == 1
def cpConv (r : Nat) : Bool := bitsOf r 850 850 == 1
def cpDsp (r : Nat) : Nat := bitsOf r 849 847
def cpSsp (r : Nat) : Nat := bitsOf r 846 845
def cpDfmt (r : Nat) : Nat := bitsOf r 844 841
def cpSfmt (r : Nat) : Nat := bitsOf r 840 837
def cpElen (r : Nat) : Nat := bitsOf r 836 828 + 1
def cpCwa (r : Nat) : Nat := bitsOf r 827 764
def cpTrec (r : Nat) : Nat := bitsOf r 763 700
def cpSrca (r : Nat) : Nat := bitsOf r 667 604
def cpOrig (r j : Nat) : Int := sextN 24 (bitsOf r (627 + 24 * j) (604 + 24 * j))
def cpDsta (r : Nat) : Nat := bitsOf r 603 540
def cpCnt (r l : Nat) : Nat := bitsOf r (90 * l + 89) (90 * l + 74)
def cpSdim (r l : Nat) : Nat := bitsOf r (90 * l + 73) (90 * l + 72)
def cpSst (r l : Nat) : Int := sextN 32 (bitsOf r (90 * l + 71) (90 * l + 40))
def cpDst (r l : Nat) : Int := sextN 40 (bitsOf r (90 * l + 39) (90 * l))
/-- Pieces of a copy. -/
def cpPieces (r : Nat) : Nat := (List.range 6).foldl (fun a l => a * cpCnt r l) 1

/-- The format codes of one side (R276). -/
def cpFmtBad (conv : Bool) (code space : Nat) : Bool :=
  if !conv then code != 0
  else if code = 0xF then space != 3
  else decide (code = 0) || decide (9 < code) || space == 3

/-- R276, with R284 for COPYM and R288 for a copy node. -/
def cpBad (r : Nat) (node copym : Bool) : Bool :=
  bitsOf r 1023 859 != 0 || decide (4 < cpDsp r) || (List.range 6).any (fun l => cpCnt r l == 0) ||
  cpFmtBad (cpConv r) (cpSfmt r) (cpSsp r) || cpFmtBad (cpConv r) (cpDfmt r) (cpDsp r) ||
  (if cpTmode r then !cpConv r || cpSsp r != 3 || cpTrec r == 0 else bitsOf r 699 668 != 0) ||
  (cpDsp r == 4 && decide (2 ^ 18 ≤ cpDsta r)) ||
  (node && (decide (cpSsp r < 2) || decide (cpDsp r < 2) || cpDsp r == 4)) || (copym && cpDsp r != 4)

def gaFmt (r : Nat) : Nat := bitsOf r 499 496
def gaHnd (r : Nat) : Nat := bitsOf r 495 489
def gaIsp (r : Nat) : Nat := bitsOf r 488 487
def gaTsp (r : Nat) : Nat := bitsOf r 486 485
def gaRsp (r : Nat) : Nat := bitsOf r 484 483
def gaRlen (r : Nat) : Nat := bitsOf r 482 467
def gaNidx (r : Nat) : Nat := bitsOf r 466 443
def gaNrows (r : Nat) : Nat := bitsOf r 442 411
def gaFill (r : Nat) : Nat := bitsOf r 410 379
def gaTstr (r : Nat) : Int := sextN 40 (bitsOf r 378 339)
def gaRstr (r : Nat) : Int := sextN 40 (bitsOf r 338 299)
def gaCwa (r : Nat) : Nat := bitsOf r 298 235
def gaRbase (r : Nat) : Nat := bitsOf r 234 171
def gaTbase (r : Nat) : Nat := bitsOf r 170 107
def gaIdxa (r : Nat) : Nat := bitsOf r 106 43
/-- Bytes of one row. -/
def gaRow (r : Nat) : Nat := gaRlen r * typeWidth (gaFmt r) / 8

/-- The limits of R285, and the formats of SCAD (R287). -/
def gaBad (r : Nat) (scad : Bool) : Bool :=
  let f := gaFmt r
  bitsOf r 511 500 != 0 || bitsOf r 42 0 != 0 || f == 0 || decide (9 < f) || gaRlen r == 0 || gaNidx r == 0 ||
  (typeWidth f == 4 && gaRlen r % 2 == 1) || (scad && !(f == 1 || f == 2 || f == 3 || f == 7 || f == 8))

def CKind.gathers : CKind → Bool
  | .gath | .scad => true
  | _ => false

/-- Completion word address and number of pieces of either record. -/
def Copying.cwa (c : Copying) : Nat := if c.inp.cmd.kind.gathers then gaCwa c.rec0.toNat else cpCwa c.rec0.toNat
def Copying.total (c : Copying) : Nat := if c.inp.cmd.kind.gathers then gaNidx c.rec0.toNat else cpPieces c.rec0.toNat

/-! What a copy reaches (R280). -/

/-- A failure of a copy: cause, subcode and address. -/
abbrev CFail := Nat × Nat × Word

/-- The pages of a copy's access in `g`: Crucible pages need PERM bit 10 (R359), a checked region its own die (R320). -/
def State.cpPages (s : State) (die : Nat) (v : View) (acc : XAcc) : List (Nat × Word × Nat) → State × (List Run ⊕ CFail)
  | [] => (s, .inl [])
  | (off, va, n) :: t =>
    match s.walk v.x acc va with
    | (s, .fault cs sub, _) => (s, .inr (cs, sub, va))
    | (s, .ok p, _) =>
      if p.rchk && dieOfPA p.pa != some die then (s, .inr (0x08, 0x02, va))
      else if (match plocOf p.pa with | .crucible _ => !(v.perm.getLsbD 10) && !v.x.sup | _ => false) then (s, .inr (0x09, 0x04, va))
      else
        match s.cpPages die v acc t with
        | (s, .inr f) => (s, .inr f)
        | (s, .inl l) => (s, .inl (⟨off, va, p.pa, n, p.key, p.mlog⟩ :: l))

/-- Where n bytes of a space lie for a copy. -/
def State.cpRuns (s : State) (die : Nat) (v : View) (sp : Nat) (acc : XAcc) (va : Word) (n : Nat) : State × (List Run ⊕ CFail) :=
  match spaceOf sp with
  | .sp => (s, if spInBounds v.bndlo v.bndhi va.toNat n then .inl [⟨0, va, v.sp + va.toNat, n, 0, false⟩] else .inr (0x07, 0x01, va))
  | .cl => (s, if va.toNat + n ≤ v.cl.2 then .inl [⟨0, va, v.cl.1 + va.toNat, n, 0, false⟩] else .inr (0x07, 0x01, va))
  | .ds => (s, if va.toNat + n ≤ v.ds.2 then .inl [⟨0, va, v.ds.1 + va.toNat, n, 0, false⟩] else .inr (0x07, 0x01, va))
  | .g => s.cpPages die v acc (pageParts (n / 4096 + 2) 0 va n)

/-- A read by a copy. -/
def State.cpRead (s : State) (die : Nat) (v : View) (sp : Nat) (va : Word) (n : Nat) : State × ((List Byte × Bool) ⊕ CFail) :=
  match s.cpRuns die v sp .read va n with
  | (s, .inl rs) => (s, .inl (s.runsBytes rs, s.runsBad rs 0 n))
  | (s, .inr f) => (s, .inr f)

/-- The lines that a copy writes carry it as their writer (R246). -/
def State.cpMark (s : State) (core : Nat) (h : Option Nat) (rs : List Run) : State :=
  match h with
  | none => s
  | some k =>
    (rs.flatMap Run.raceLines).foldl (fun s x =>
      { s with races := tset s.races x.1 { tget RaceRec.zero s.races x.1 with wr := .copy core k } }) s

/-- A handle that leaves FILLING resets the lines of its copy (R246). -/
def State.cpUnmark (s : State) (core h : Nat) : State :=
  { s with races := (s.races.map fun (x : Nat × RaceRec) =>
      (x.1, if x.2.wr = .copy core h then { x.2 with wr := .none } else x.2)).filter fun x => x.2 != RaceRec.zero }

/-- A write by a copy; `bad` tells by offset and length which bytes carry poison. -/
def State.cpWrite (s : State) (c : Copying) (die sp : Nat) (va : Word) (bs : List Byte) (bad : Nat → Nat → Bool) : State × Option CFail :=
  match s.cpRuns die c.inp.view sp .write va bs.length with
  | (s, .inr f) => (s, some f)
  | (s, .inl rs) =>
    match rs.find? fun r => s.keyDead r.key r.pa with
    | some r => (s, some (0x0E, 0x01, BitVec.ofNat 64 r.pa))
    | none => ((s.cpMark c.inp.core c.hnd rs).runsWrite rs bs bad, none)

/-! Pieces (R277, R278). -/

/-- The indices of piece `pos`, i0 fastest. -/
def cpIndex (r pos : Nat) (l : Nat) : Nat := pos / ((List.range l).foldl (fun a j => a * cpCnt r j) 1) % cpCnt r l

/-- The six-level sum of a stride. -/
def cpSum (r pos : Nat) (f : Nat → Int) : Int := ((List.range 6).map fun l => (cpIndex r pos l : Int) * f l).sum

/-- Source start of a piece when TMODE = 0, and its destination start. -/
def cpSrcAt (c : Copying) (pos : Nat) : Word :=
  let r := c.rec0.toNat
  BitVec.ofNat 64 (cpSrca r) + BitVec.ofInt 64 (cpSum r pos (cpSst r)) + (if c.inp.cmd.kind = .copym then 0 else c.inp.cmd.b)
def cpDstAt (c : Copying) (pos : Nat) : Word :=
  let r := c.rec0.toNat
  BitVec.ofNat 64 (cpDsta r) + BitVec.ofInt 64 (cpSum r pos (cpDst r)) + c.inp.cmd.c
/-- Source index vector of a piece when TMODE = 1; CB is added to e1. -/
def cpVecAt (c : Copying) (pos k : Nat) : Int :=
  let r := c.rec0.toNat
  cpOrig r k + cpSum r pos (fun l => if cpSdim r l = k then cpSst r l else 0) +
    (if k = 1 ∧ c.inp.cmd.kind ≠ .copym then c.inp.cmd.b.toInt else 0)

/-- The format and geometry of a side: its code, or its page's (R278). -/
def State.cpFmt (s : State) (die : Nat) (v : View) (code : Nat) (acc : XAcc) (va : Word) : State × ((Nat × Bool) ⊕ CFail) :=
  if code = 0xF then
    match s.engPage die v.x acc va with
    | (s, .inr f) => (s, .inr f)
    | (s, .inl p) => (s, .inl (p.fmt, p.geo == 1))
  else (s, .inl (code, false))

/-- One source element: its bits, the value it decodes to with its scales, the flags and its poison. -/
structure SrcElem where
  bits : Nat
  val : XVal
  fl : Flags
  bad : Bool
  /-- an element beyond the extents reads FILL -/
  fill : Bool
  deriving DecidableEq, Repr

/-- Reads one element at a place. -/
def State.cpElem (s : State) (die : Nat) (v : View) (sp fmt : Nat) (geo : Bool) (band : XVal) (page : Option (Nat × Bool))
    (o : ElemPlace) : State × (SrcElem ⊕ CFail) :=
  let w := typeWidth fmt
  match s.cpRead die v sp o.va ((o.sh + w + 7) / 8) with
  | (s, .inr f) => (s, .inr f)
  | (s, .inl (bs, bad)) =>
    let wrong := sp = 3 && page.any fun pg => match (s.walk v.x .read o.va).2.1 with
      | .ok p => (p.fmt, p.geo == 1) != pg
      | .fault _ _ => false
    if wrong then (s, .inr (0x08, 0x02, o.va))
    else
      let x := ofBytes bs / 2 ^ o.sh % 2 ^ w
      if fmt = 6 then
        match (if geo then o.scale else none) with
        | none => let (y, fl) := fp4Value x 0x60 band; (s, .inl ⟨x, y, fl, bad, false⟩)
        | some a =>
          match s.cpRead die v sp a 1 with
          | (s, .inr f) => (s, .inr f)
          | (s, .inl (sc, bad2)) => let (y, fl) := fp4Value x (ofBytes sc) band; (s, .inl ⟨x, y, fl, bad || bad2, false⟩)
      else let (y, fl) := decodeFmt (fmtN fmt) x; (s, .inl ⟨x, y, fl, bad, false⟩)

/-- The band scale of a tensor row for a copy: the entry read when its band's first element is converted, and kept (R27).  One that
cannot be read, a poisoned one among them, stops the copy with the tensor record's address (R278). -/
def State.cpBand (s : State) (die : Nat) (c : Copying) (t : BitVec 512) (row : Nat) (bands : Tab Nat) : State × (Tab Nat ⊕ CFail) :=
  if tnBandp t == 0 || (tfind bands (row / 64)).isSome then (s, .inl bands)
  else
    let stop (perm : Bool) : CFail := (if perm then 0x09 else 0x08, if perm then 0x04 else 0x02, BitVec.ofNat 64 (cpTrec c.rec0.toNat))
    match s.bandRead die c.inp.view.x t row with
    | (s, .inr (cs, sub, va)) => (s, .inr (if faultWaits cs sub then (cs, sub, va) else stop (decide (cs = 0x09 ∧ sub = 0x04))))
    | (s, .inl (b, bad)) => (s, if bad then .inr (stop false) else .inl (tset bands (row / 64) b))

/-- The elements of a piece: addressed contiguously, or by the tensor record (R277); `page` is the format and geometry that every page
of the source must carry (R26), and `bands` the band entries read so far. -/
def State.cpElems (s : State) (c : Copying) (die fmt : Nat) (geo : Bool) (page : Option (Nat × Bool)) :
    Nat → Nat → Tab Nat → State × ((List SrcElem × Tab Nat) ⊕ CFail)
  | 0, _, bands => (s, .inl ([], bands))
  | n + 1, k, bands =>
    let v := c.inp.view
    let r := c.rec0.toNat
    let got : State × Tab Nat × (SrcElem ⊕ CFail) :=
      if cpTmode r then
        match c.tens with
        | none => (s, bands, .inr (0x08, 0x02, 0))
        | some t =>
          let e (j : Nat) : Int := cpVecAt c c.pos j + (if j = 0 then (k : Int) else 0)
          if tnIn t [e 0, e 1, e 2, e 3] then
            match (if fmt = 6 then s.cpBand die c t (e 1).toNat bands else (s, .inl bands)) with
            | (s, .inr f) => (s, bands, .inr f)
            | (s, .inl bands) =>
              let b := if fmt = 6 then tfind bands ((e 1).toNat / 64) else none
              let (s, x) := s.cpElem die v 3 fmt geo (bandValue b) page (elemPlace (tnRow t (e 1) (e 2) (e 3)) (e 0).toNat (typeWidth fmt) geo)
              (s, bands, x)
          else let (y, fl) := decodeFmt .f32 (tnFill t); (s, bands, .inl ⟨tnFill t, y, fl, false, true⟩)
      else
        let (s, x) := s.cpElem die v (cpSsp r) fmt geo (.fin false 1 0) page (elemPlace (cpSrcAt c c.pos) k (typeWidth fmt) geo)
        (s, bands, x)
    match got with
    | (s, _, .inr f) => (s, .inr f)
    | (s, bands, .inl x) =>
      match s.cpElems c die fmt geo page n (k + 1) bands with
      | (s, .inr f) => (s, .inr f)
      | (s, .inl (l, bands)) => (s, .inl (x :: l, bands))

/-- The draws of a copy's generator, one for each element. -/
def cpDraws : Nat → Word → List Nat × Word
  | 0, g => ([], g)
  | n + 1, g => let g1 := lfsrStep g; let (l, g2) := cpDraws n g1; (lfsrDraw g1 :: l, g2)

/-- Rounding mode and clamp of a copy (R278). -/
def Copying.mode (c : Copying) : RMode := match c.tens with | some t => rmodeOf (tnRm t) | none => .rne
def Copying.clamp (c : Copying) : Clamp := match c.tens with | some t => tnClampOf t | none => .max

/-- Whether the source elements of a copy meet a band table (R278). -/
def Copying.banded (c : Copying) : Bool := cpTmode c.rec0.toNat && c.tens.any fun t => tnBandp t != 0

/-- Elements converted to an unblocked destination: the patterns and the flags.  Between two sides of one format with no scale the
bits pass (R23, R278).  DESIGN CHOICE: FP4 elements whose block or band scale is not fixed at 1.0 are converted by value, and the
FP32 fill constant passes the clamp also to an FP32 destination. -/
def cpConvert (c : Copying) (sf df : Nat) (sgeo : Bool) (xs : List SrcElem) (ds : List Nat) : List Nat × Flags :=
  let one (y : SrcElem × Nat) : Nat × Flags :=
    let x := y.1
    let d := ds.getD y.2 0
    let r :=
      if sf = df && !x.fill && !(sf = 6 && (sgeo || c.banded)) then convert (fmtN sf) (fmtN df) c.mode c.clamp d x.bits
      else encodeFmt (fmtN df) c.mode c.clamp d x.val
    (r.1, x.fl ||| r.2)
  let ys := xs.zipIdx.map one
  (ys.map Prod.fst, ys.foldl (fun a y => a ||| y.2) 0)

/-- Blocks of eight elements to an FP4 destination with block scales (R25): scale code and element codes, and the flags. -/
def cpBlocks (c : Copying) (ds : List Nat) (xs : List SrcElem) : List (Nat × List Nat) × Flags :=
  let bs := (List.range (xs.length / 8)).map fun j =>
    let part := (xs.drop (8 * j)).take 8
    let (code, els, fl) := encBlock c.mode c.clamp (.fin false 1 0) ((ds.drop (8 * j)).take 8) (part.map SrcElem.val)
    (code, els, part.foldl (fun (a : Flags) (x : SrcElem) => a ||| x.fl) fl)
  (bs.map fun b => (b.1, b.2.1), bs.foldl (fun a b => a ||| b.2.2) 0)

/-- Little-endian bytes of patterns of width w; an odd 4-bit pattern at the end takes its half of the byte `old`. -/
def packBits (w : Nat) (xs : List Nat) (old : Byte) : List Byte :=
  let n := (xs.length * w + 7) / 8
  let x := packElems w (fun i => xs.getD i 0) xs.length
  toBytes (if xs.length * w % 8 = 0 then x else x + old.toNat / 2 ^ 4 * 2 ^ (xs.length * w)) n

/-- The slot that a destination in operand memory names, by the copy's slot map (R280): the place of the offset. -/
def cpSlot (c : Copying) (da : Word) (n : Nat) : Nat ⊕ CFail :=
  let a := da.toNat
  match (if a < 2 ^ 18 ∧ a % 4096 + n ≤ 4096 then tfind c.inp.view.omap (a / 4096) else none) with
  | some p => .inl (omBase c.inp.core p + a % 4096)
  | none => .inr (0x07, 0x05, da)

/-- Writes the bytes of a piece to its destination. -/
def State.cpPut (s : State) (c : Copying) (die : Nat) (da : Word) (bs : List Byte) (bad : Nat → Nat → Bool) : State × Option CFail :=
  if cpDsp c.rec0.toNat = 4 then
    match cpSlot c da bs.length with
    | .inl p => (s.movePlace p bs bad, none)
    | .inr f => (s, some f)
  else s.cpWrite c die (cpDsp c.rec0.toNat) da bs bad

/-- Writes whole FP4 blocks and their scales (R19, R191); `bad` tells which blocks carry poison. -/
def State.cpPutBlocks (s : State) (c : Copying) (die : Nat) (da : Word) (bs : List (Nat × List Nat)) (bad : Nat → Bool) : State × Option CFail :=
  let bytes (b : Nat × List Nat) : List Byte := packBits 4 b.2 0
  let part := da.toNat % 4 != 0 || decide (0xC00 ≤ da.toNat % 4096)
  if part then (s, some (0x07, 0x04, da))
  else if cpDsp c.rec0.toNat = 4 then
    match cpSlot c da (4 * bs.length) with
    | .inr f => (s, some f)
    | .inl p =>
      let off := da.toNat % 4096
      if 0xC00 < off + 4 * bs.length then (s, some (0x07, 0x04, da))
      else
        let any (w o n : Nat) : Bool := (List.range ((o + n + w - 1) / w - o / w)).any fun i => bad (o / w + i)
        let s := s.movePlace p (bs.flatMap bytes) (any 4)
        (s.movePlace (p - off + 0xC00 + off / 4) (bs.map fun b => BitVec.ofNat 8 b.1) (any 1), none)
  else
    let sp := cpDsp c.rec0.toNat
    bs.zipIdx.foldl (fun acc (b, j) =>
      match acc with
      | (s, some f) => (s, some f)
      | (s, none) =>
        let o := elemPlace da (8 * j) 4 true
        match s.cpRuns die c.inp.view sp .write o.va 4 with
        | (s, .inr f) => (s, some f)
        | (s, .inl _) =>
          match s.cpWrite c die sp (o.scale.getD 0) [BitVec.ofNat 8 b.1] (fun _ _ => bad j) with
          | (s, some f) => (s, some f)
          | (s, none) => s.cpWrite c die sp o.va (bytes b) (fun _ _ => bad j)) (s, none)

/-- How a piece ended. -/
inductive PieceEnd where
  | ok (fl : Flags) (gen : Word) (count : Nat) (bands : Tab Nat)
  | fail (f : CFail) (write : Bool)
  deriving DecidableEq, Repr

/-- One piece of a copy.  DESIGN CHOICE: FILL of a TMODE 1 copy between two RAW sides is converted as INT8 (log entry 187), and a piece under
format code 0xF that crosses onto a page of another format faults at its source and is written in the first page's format (log entry 190). -/
def State.copyPiece (s : State) (c : Copying) (die : Nat) : State × PieceEnd :=
  let r := c.rec0.toNat
  let v := c.inp.view
  let sa := if cpTmode r then (match c.tens with | some t => BitVec.ofNat 64 (tnBase t) | none => 0) else cpSrcAt c c.pos
  let da := cpDstAt c c.pos
  let n := cpElen r
  let ten := s.tenantOf c.inp.job
  let raw (s : State) (gen : Word) : State × PieceEnd :=
    match s.cpRuns die v (cpSsp r) .read sa n with
    | (s, .inr f) => (s, .fail f false)
    | (s, .inl rs) =>
      match s.cpPut c die da (s.runsBytes rs) (s.runsBad rs) with
      | (s, some f) => (s, .fail f true)
      | (s, none) => (s.count ten die 0x0E n, .ok 0 gen 0 c.bands)
  -- one draw for each of n elements (R22)
  let draws := if c.mode = .stoc then cpDraws n c.gen else ([], c.gen)
  if !cpConv r then raw s c.gen
  else
    match (if cpTmode r then (match c.page with | some p => (s, .inl p) | none => s.cpFmt die v 0xF .read sa) else s.cpFmt die v (cpSfmt r) .read sa) with
    | (s, .inr f) => (s, .fail f false)
    | (s, .inl (sf0, sgeo0)) =>
      let page : Option (Nat × Bool) := if cpSfmt r = 0xF then some (sf0, sgeo0) else none
      match s.cpFmt die v (cpDfmt r) .write da with
      | (s, .inr f) => (s, .fail f true)
      | (s, .inl (df0, dgeo0)) =>
        if sf0 = 0 && df0 = 0 && !cpTmode r then raw s draws.2
        else
          let sf := if sf0 = 0 then (if df0 = 0 then 8 else df0) else sf0
          let df := if df0 = 0 then (if sf0 = 0 then 8 else sf0) else df0
          let sgeo := sf0 != 0 && sgeo0
          let dgeo := (df0 != 0 && dgeo0) || (df == 6 && cpDsp r == 4)
          if sgeo && decide (0xC00 ≤ sa.toNat % 4096) && !cpTmode r then (s, .fail (0x07, 0x04, sa) false)
          else
            match s.cpElems c die sf sgeo page n 0 c.bands with
            | (s, .inr f) => (s, .fail f false)
            | (s, .inl (xs, bands)) =>
              let (ds, gen) := draws
              let bad (lo hi : Nat) : Bool := ((xs.take hi).drop lo).any SrcElem.bad
              if dgeo then
                if n % 8 ≠ 0 then (s, .fail (0x07, 0x04, da) true)
                else
                  let (bs, fl) := cpBlocks c ds xs
                  match s.cpPutBlocks c die da bs (fun j => bad (8 * j) (8 * j + 8)) with
                  | (s, some f) => (s, .fail f true)
                  | (s, none) => (s.count ten die 0x0E (n / 2), .ok fl gen 0 bands)
              else
                let w := typeWidth df
                let (ys, fl) := cpConvert c sf df sgeo xs ds
                let len := (n * w + 7) / 8
                let old : Byte :=
                  if n * w % 8 = 0 then 0
                  else if cpDsp r = 4 then
                    (match cpSlot c da len with | .inl p => memGet s.mem (p + len - 1) | .inr _ => 0)
                  else (match (s.cpRead die v (cpDsp r) (da + BitVec.ofNat 64 (len - 1)) 1).2 with
                    | .inl (b, _) => b.headD 0
                    | .inr _ => 0)
                match s.cpPut c die da (packBits w ys old) (fun o m => bad (8 * o / w) ((8 * (o + m) + w - 1) / w)) with
                | (s, some f) => (s, .fail f true)
                | (s, none) => (s.count ten die 0x0E len, .ok fl gen 0 bands)

/-! Gathers and scatter-adds (R286, R287). -/

def gaRowAt (r j : Nat) : Word := BitVec.ofNat 64 (gaRbase r) + BitVec.ofInt 64 (j * gaRstr r)
def gaTabAt (r x : Nat) : Word := BitVec.ofNat 64 (gaTbase r) + BitVec.ofInt 64 (x * gaTstr r)

/-- Sum of one element of a SCAD. -/
def scadElem (f a b : Nat) : Nat × Flags :=
  let ft := fmtN f
  if ft.isInt then ((a + b) % 2 ^ ft.width, 0)
  else
    let (v, e) := (decodeFmt ft a).1.add false (decodeFmt ft b).1
    let (x, e2) := encodeFmt ft .rne .none 0 v
    (x, e ||| e2)

/-- The index of the piece in progress of a gather or scatter-add: read once, and kept while the piece waits (R286). -/
def State.gatherIndex (s : State) (c : Copying) (die : Nat) : State × (Nat ⊕ CFail) :=
  let r := c.rec0.toNat
  match c.idx with
  | some x => (s, .inl x)
  | none =>
    match s.cpRead die c.inp.view (gaIsp r) (BitVec.ofNat 64 (gaIdxa r + 4 * c.pos)) 4 with
    | (s, .inr f) => (s, .inr f)
    | (s, .inl (ib, _)) => (s, .inl (ofBytes ib))

/-- One index of a gather or scatter-add, once read. -/
def State.gatherPiece (s : State) (c : Copying) (die x : Nat) : State × PieceEnd :=
  let r := c.rec0.toNat
  let v := c.inp.view
  let n := gaRow r
  let ten := s.tenantOf c.inp.job
  (
    if x = 0xFFFFFFFF then (s, .ok 0 c.gen 0 c.bands)
    else if c.inp.cmd.kind = .gath then
      if gaNrows r ≤ x then
        let (p, fl) := convert .f32 (fmtN (gaFmt r)) .rne .none 0 (gaFill r)
        match s.cpWrite c die (gaRsp r) (gaRowAt r c.pos) (packBits (typeWidth (gaFmt r)) (List.replicate (gaRlen r) p) 0) clean with
        | (s, some f) => (s, .fail f true)
        | (s, none) => (s.count ten die 0x0E n, .ok fl c.gen 1 c.bands)
      else
        match s.cpRuns die v (gaTsp r) .read (gaTabAt r x) n with
        | (s, .inr f) => (s, .fail f false)
        | (s, .inl rs) =>
          match s.cpWrite c die (gaRsp r) (gaRowAt r c.pos) (s.runsBytes rs) (s.runsBad rs) with
          | (s, some f) => (s, .fail f true)
          | (s, none) => (s.count ten die 0x0E n, .ok 0 c.gen 0 c.bands)
    else if gaNrows r ≤ x then (s, .ok 0 c.gen 1 c.bands)
    else
      match s.cpRuns die v (gaRsp r) .read (gaRowAt r c.pos) n with
      | (s, .inr f) => (s, .fail f false)
      | (s, .inl rs) =>
        match s.cpRuns die v (gaTsp r) .read (gaTabAt r x) n with
        | (s, .inr f) => (s, .fail f false)
        | (s, .inl ts) =>
          let w := typeWidth (gaFmt r)
          let a := ofBytes (s.runsBytes ts)
          let b := ofBytes (s.runsBytes rs)
          let ys := (List.range (gaRlen r)).map fun k => scadElem (gaFmt r) (a / 2 ^ (w * k) % 2 ^ w) (b / 2 ^ (w * k) % 2 ^ w)
          match s.cpWrite c die (gaTsp r) (gaTabAt r x) (packBits w (ys.map Prod.fst) 0) (fun o m => s.runsBad rs o m || s.runsBad ts o m) with
          | (s, some f) => (s, .fail f true)
          | (s, none) => (s.count ten die 0x0E n, .ok (ys.foldl (fun f y => f ||| y.2) 0) c.gen 0 c.bands))

/-! Progress of a copy. -/

def State.copyAt (s : State) (cl slot : Nat) : Option Copying := (s.clusterAt cl).copies.find? fun c => c.slot == slot
def State.updCopy (s : State) (cl slot : Nat) (f : Copying → Copying) : State :=
  s.updCluster cl fun k => { k with copies := k.copies.map fun c => if c.slot = slot then f c else c }

/-- Whether the issuer of a copy stands at a debug stop (R344). -/
def State.heldBack (s : State) (core ctx serial : Nat) : Bool :=
  let x := s.ctxAt core ctx
  x.debugStopped && x.task.isSome && x.tk.serial == serial

/-- The pieces have ended with a status; while the issuer stands at a debug stop, the completion is held back. -/
def State.copyEnd (s : State) (cl slot status : Nat) (a : Word) : State :=
  match s.copyAt cl slot with
  | none => s
  | some c =>
    let s := s.updCopy cl slot fun c => { c with fin := some (status, a), stuck := false }
    if c.inp.node.isNone && s.heldBack c.inp.core c.inp.ctx c.inp.serial then
      s.updCtxAt c.inp.core c.inp.ctx fun x => { x with deferred := x.deferred ++ [.copy cl slot] }
    else s

/-- REF of a copy's fault record (R327). -/
def Copying.ref (c : Copying) : Nat :=
  match c.inp.node with
  | some _ => 0x3F * 2 ^ 18 + c.slot
  | none => c.inp.core % 64 * 2 ^ 18 + c.hnd.getD 0 * 2 ^ 11 + c.slot

/-- A fault of a copy: a page that is not present suspends it, anything else stops it (R280). -/
def State.copyFault (s : State) (cl : Nat) (c : Copying) (f : CFail) (write : Bool) : State :=
  let (cs, sub, va) := f
  if faultWaits cs sub then
    let s := s.updCopy cl c.slot fun c => { c with stuck := true }
    s.queueFault (cl / 8) (srcCopy cl) (s.tenantOf c.inp.job) c.ref c.inp.view.x.asid cs sub write va (.copy cl c.slot)
  else (s.engineCheck (cl / 8) c.inp.job c.inp.serial f).copyEnd cl c.slot (if cs = 0x07 then 4 else if cs = 0x09 ∧ sub = 0x04 then 6 else 3) va

/-- The tensor record of a copy, read at acceptance (R278); one in the Crucible without PERM bit 10 stops it with PERM (R359).  DESIGN CHOICE
(log entry 183): a TREC that is not a multiple of 64 names the 64 bytes from that address. -/
def State.copyTensor (s : State) (cl : Nat) (c : Copying) : State :=
  let r := c.rec0.toNat
  let a := BitVec.ofNat 64 (cpTrec r)
  match s.cpRead (cl / 8) c.inp.view 3 a 64 with
  | (s, .inr (cs, sub, va)) =>
    if faultWaits cs sub then s.copyFault cl c (cs, sub, va) false else s.copyEnd cl c.slot (if cs = 0x09 ∧ sub = 0x04 then 6 else 3) a
  | (s, .inl (bs, bad)) =>
    let t : BitVec 512 := BitVec.ofNat 512 (ofBytes bs)
    if bad then s.copyEnd cl c.slot 3 a
    else if tnBad t then s.copyEnd cl c.slot 2 0
    else s.updCopy cl c.slot fun c => { c with tens := some t, gen := tnGen t }

/-- The page that holds the BASE of a copy's tensor record is translated at the start, whatever the copy reads; a fault there is one of
the copy's own (R26). -/
def State.copyPage (s : State) (cl : Nat) (c : Copying) (t : BitVec 512) : State :=
  match s.engPage (cl / 8) c.inp.view.x .read (BitVec.ofNat 64 (tnBase t)) with
  | (s, .inr f) => s.copyFault cl c f false
  | (s, .inl p) => s.updCopy cl c.slot fun c => { c with page := some (p.fmt, p.geo == 1) }

/-- What a copy reads before its first piece: its tensor record, then the page of the record's BASE. -/
def State.copyReads (s : State) (cl : Nat) (c : Copying) : State :=
  match c.tens with
  | none => s.copyTensor cl c
  | some t => if c.page.isNone then s.copyPage cl c t else s

/-- Whether a copy still has to read its tensor record or translate its BASE. -/
def Copying.unread (c : Copying) : Bool := !c.inp.cmd.kind.gathers && cpTrec c.rec0.toNat != 0 && c.page.isNone

/-- One step of a copy in progress: its tensor record, then one piece, or the end of its pieces; none while its engine stalls (R337). -/
def State.copyStep (s : State) (cl slot : Nat) : State :=
  match s.copyAt cl slot with
  | none => s
  | some c =>
    if c.stuck || c.fin.isSome || s.stalled (srcCopy cl) then s
    else if c.unread then s.copyReads cl c
    else if c.total ≤ c.pos then s.copyEnd cl slot 0 0
    else
      let piece : State × PieceEnd :=
        if c.inp.cmd.kind.gathers then
          match s.gatherIndex c (cl / 8) with
          | (s, .inr f) => (s, .fail f false)
          | (s, .inl x) => (s.updCopy cl slot fun c => { c with idx := some x }).gatherPiece c (cl / 8) x
        else s.copyPiece c (cl / 8)
      match piece with
      | (s, .fail f w) => s.copyFault cl c f w
      | (s, .ok fl gen n bands) =>
        s.updCopy cl slot fun c => { c with
          pos := c.pos + 1, fl := c.fl ||| fl, gen := gen, count := c.count + n, bands := bands, idx := none }

def State.copySteps (s : State) (cl slot : Nat) : Nat → State
  | 0 => s
  | n + 1 => (s.copyStep cl slot).copySteps cl slot n

/-! Releases (R282, R283). -/

/-- HREL as the engine receives it: `num` is the number of the next handle-using command of the core. -/
def Core.relHandle (k : Core) (h num : Nat) : Core :=
  match (k.handle h).st with
  | .filling => k.setHandle h { k.handle h with rel := some num }
  | .full => k.setHandle h ⟨.draining, some num⟩
  | _ => k

/-- A DRAINING handle is FREE once every handle-using command sent before its HREL has completed. -/
def Core.freeHandle (k : Core) (h : Nat) : Core :=
  let x := k.handle h
  match x.st, x.rel with
  | .draining, some n => if k.cmdBusy.any (fun b => decide (b < n)) then k else k.setHandle h Handle.zero
  | _, _ => k

def evHandleFree (core h : Nat) (s : State) : Out := .next (s.updCore core fun k => k.freeHandle h)

/-! Acceptance (R274, R276, R283, R291). -/

/-- The lowest free copy slot. -/
def Cluster.freeSlot (c : Cluster) : Option Nat :=
  if 1024 ≤ c.copies.length then none else (List.range 1024).find? fun i => !(c.copies.any fun x => x.slot == i)

/-- A handle-using command of a core is over. -/
def State.cmdDone (s : State) (i : CopyIn) : State :=
  if i.node.isSome then s
  else s.updCore i.core fun k => { k with cmdBusy := k.cmdBusy.filter fun n => n != i.num }

/-- Ends what a COPYM keeps for its MMA (R284): with the copy's slots and the tile that its descriptor names. -/
def State.followMma (s : State) (i : CopyIn) (ok : Bool) (h : Nat) : State :=
  if i.cmd.kind ≠ .copym then s
  else
    let d := i.cmd.b.toNat
    let t := mdTile d
    let s := s.updCore i.core fun k => { k with resv := k.resv.erase (i.ctx, i.serial, t) }
    let cmd : MCmd := {
      kind := .mma ((tfind i.view.omap (mdOa d)).getD 0) ((tfind i.view.omap (mdOb d)).getD 0) (mdK d) (mdFa d) (mdFb d) (mdZ d)
      ctx := i.ctx, serial := i.serial, job := i.job, tile := some t, shape := 0, place := 0, x := i.view.x
      addr := i.cmd.addr, follow := some h }
    if ok then (s.updCore i.core fun k => { k with mmaWait := k.mmaWait ++ [cmd] }).enqueueMma i.core
    else s.releaseLate i.core i.ctx i.serial

/-- A record that cannot be read: dropped, and reported (R291); a copy node completes FAILED (R288). -/
def State.copyDrop (s : State) (i : CopyIn) (a : Word) : State :=
  let s := s.engineDrop i.job 0 a
  let s := (s.followMma i false 0).cmdDone i
  match i.node with
  | some (d, n) => s.completeNode d n .failed
  | none => s

/-- Lines that the pieces of an accepted copy will write (R246). -/
def State.markAll (s : State) (cl : Nat) (c : Copying) : State :=
  let r := c.rec0.toNat
  let v := c.inp.view
  let die := cl / 8
  let mark (s : State) (sp : Nat) (a : Word) (n : Nat) : State :=
    match (s.cpRuns die v sp .read a n).2 with
    | .inl rs => s.cpMark c.inp.core c.hnd rs
    | .inr _ => s
  match c.inp.cmd.kind with
  | .gath => (List.range (gaNidx r)).foldl (fun s j => mark s (gaRsp r) (gaRowAt r j) (gaRow r)) s
  | .scad =>
    (List.range (gaNidx r)).foldl (fun s j =>
      match (s.cpRead die v (gaIsp r) (BitVec.ofNat 64 (gaIdxa r + 4 * j)) 4).2 with
      | .inl (b, _) => if ofBytes b < gaNrows r then mark s (gaTsp r) (gaTabAt r (ofBytes b)) (gaRow r) else s
      | .inr _ => s) s
  | _ =>
    if cpDsp r = 4 then s
    else
      (List.range (cpPieces r)).foldl (fun s j =>
        let da := cpDstAt c j
        let n := cpElen r
        let side (code : Nat) (va : Word) : Nat × Bool :=
          if !cpConv r then (0, false)
          else match (s.cpFmt (cl / 8) v code .read va).2 with
            | .inl f => f
            | .inr _ => (0, false)
        let (df, dgeo) := side (cpDfmt r) da
        -- a RAW page takes the other side's format, and a byte where both are RAW (R278)
        let f := if df = 0 then (side (cpSfmt r) (if cpTmode r then (c.tens.map fun t => BitVec.ofNat 64 (tnBase t)).getD 0 else cpSrcAt c j)).1 else df
        if df != 0 && dgeo then
          (List.range (n / 8)).foldl (fun s q =>
            let o := elemPlace da (8 * q) 4 true
            mark (mark s (cpDsp r) o.va 4) (cpDsp r) (o.scale.getD 0) 1) s
        else mark s (cpDsp r) da ((n * (if f = 0 then 8 else typeWidth f) + 7) / 8)) s

/-- Whether the first command of an intake can be taken, and the state if it is. -/
def State.acceptCopy (s : State) (cl : Nat) (i : CopyIn) : Option State :=
  match i.cmd.kind with
  | .hrel => some (s.updCore i.core fun k => k.relHandle i.cmd.c.toNat i.num)
  | kind =>
    match (s.clusterAt cl).freeSlot with
    | none => none
    | some slot =>
      let n := if kind.gathers then 64 else 128
      match s.cpRead (cl / 8) i.view (i.cmd.md % 4) i.cmd.a n with
      | (s, .inr _) => some (s.copyDrop i i.cmd.a)
      | (s, .inl (bs, true)) => let _ := bs; some (s.copyDrop i i.cmd.a)
      | (s, .inl (bs, false)) =>
        let r := ofBytes bs
        let h := if kind.gathers then gaHnd r else cpHnd r
        let base : Copying := { inp := i, rec0 := BitVec.ofNat 1024 r, hnd := none, slot := slot, tens := none, page := none, bands := [], gen := 1
                                idx := none, pos := 0, fl := 0, count := 0, fin := none, stuck := false, failed := false }
        let add (s : State) (c : Copying) : State := s.updCluster cl fun k => { k with copies := k.copies ++ [c] }
        let bad := if kind.gathers then gaBad r (kind == .scad) else cpBad r i.node.isSome (kind == .copym)
        -- the tensor record is read with the copy record (R278)
        let start (s : State) (c : Copying) : State :=
          let s := add s c
          let s := if c.unread then s.copyTensor cl c else s
          match s.copyAt cl slot with
          | some c => if c.fin.isNone && c.tens.isSome then s.copyPage cl c (c.tens.getD 0) else s
          | none => s
        if i.node.isSome then
          some (if bad then add s { base with fin := some (2, 0) } else start s base)
        else
          let k := s.coreAt i.core
          if !(decide (i.view.hLo ≤ h) && decide (h < i.view.hLo + i.view.hCnt)) then
            some ((add s base).copyEnd cl slot 6 0)
          else
            match (k.handle h).st with
            | .draining => none
            | .filling | .full => some ((add s base).copyEnd cl slot 1 0)
            | .free =>
              let s := s.updCore i.core fun k => k.setHandle h ⟨.filling, none⟩
              let c := { base with hnd := some h }
              if bad then some ((add s c).copyEnd cl slot 2 0)
              else
                let s := start s c
                some (s.markAll cl ((s.copyAt cl slot).getD c))

/-- The copy engine takes the oldest command of its intake (R274). -/
def evCopyAccept (cl : Nat) (s : State) : Out :=
  .next (
    match (s.clusterAt cl).intake with
    | [] => s
    | i :: rest =>
      match (s.updCluster cl fun k => { k with intake := rest }).acceptCopy cl i with
      | none => s
      | some s => s)

/-! Completion (R281). -/

/-- The completion word. -/
def Copying.word (c : Copying) (status : Nat) (a : Word) : Nat :=
  a.toNat * 2 ^ 64 + status % 16 * 2 ^ 60 + c.fl.toNat * 2 ^ 54 + c.count % 2 ^ 32

/-- The completion word has been written, or is left unwritten: the handle, the MMA, the node. -/
def State.copyClose (s : State) (cl : Nat) (c : Copying) (status : Nat) : State :=
  let s := s.updCluster cl fun k => { k with copies := k.copies.filter fun x => x.slot != c.slot }
  let s := match c.hnd with
    | some h => (s.cpUnmark c.inp.core h).updCore c.inp.core fun k => k.fillHandle h
    | none => s
  let s := (s.followMma c.inp (status == 0) (c.hnd.getD 0)).cmdDone c.inp
  match c.inp.node with
  | some (d, n) => s.completeNode d n (if status = 0 then .ok else .failed)
  | none => s

/-- Completes a copy whose pieces have ended (R281). -/
def State.copyFinish (s : State) (cl slot : Nat) : State :=
  match s.copyAt cl slot with
  | none => s
  | some c =>
    match c.fin with
    | none => s
    | some (status, a) =>
      if c.stuck then s
      else if c.cwa = 0 || c.failed then s.copyClose cl c status
      else
        match s.engWrite (cl / 8) c.inp.view.x (BitVec.ofNat 64 c.cwa) (toBytes (c.word status a) 16) clean with
        | (s, none) => s.copyClose cl c status
        | (s, some (cs, sub, va)) =>
          if faultWaits cs sub then
            let s := s.updCopy cl slot fun c => { c with stuck := true }
            s.queueFault (cl / 8) (srcCopy cl) (s.tenantOf c.inp.job) c.ref c.inp.view.x.asid cs sub true va (.copy cl slot)
          else if cs = 0x0E then (s.engineCheck (cl / 8) c.inp.job c.inp.serial (cs, sub, va)).copyClose cl c status
          else (s.engineDrop c.inp.job 0 (BitVec.ofNat 64 c.cwa)).copyClose cl c status

/-- A copy runs its remaining pieces and completes, unless it suspends or its issuer stands at a debug stop. -/
def evCopyComplete (cl slot : Nat) (s : State) : Out :=
  .next (
    match s.copyAt cl slot with
    | none => s
    | some c =>
      let s := if c.fin.isSome then s else s.copySteps cl slot (c.total - c.pos + 3)
      if c.inp.node.isNone && s.heldBack c.inp.core c.inp.ctx c.inp.serial then s else s.copyFinish cl slot)

/-- A resolved record of a copy (R280, R281, R327). -/
def State.resumeCopy (s : State) (cl slot : Nat) (fail : Bool) (va : Word) : State :=
  match s.copyAt cl slot with
  | none => s
  | some c =>
    if !c.stuck then s
    else if !fail then s.updCopy cl slot fun c => { c with stuck := false }
    else
      match c.fin with
      | some _ => (s.updCopy cl slot fun c => { c with stuck := false, failed := true }).engineDrop c.inp.job 0 (BitVec.ofNat 64 c.cwa)
      | none =>
        -- a record or a band entry that cannot be read gives the tensor record's address (R278)
        let band := c.tens.any fun t => tnBandp t != 0 && decide (tnBandp t ≤ va.toNat) && decide (va.toNat < tnBandp t + 2 * (tnExt t 1 / 64 + 1))
        let rec1 := !c.inp.cmd.kind.gathers && cpTrec c.rec0.toNat != 0 && (c.tens.isNone || band)
        s.copyEnd cl slot 3 (if rec1 then BitVec.ofNat 64 (cpTrec c.rec0.toNat) else va)

/-! The MMA of a COPYM (R284). -/

/-- The MMA of a COPYM takes a free queue entry. -/
def evCopymMmaEnqueue (core : Nat) (s : State) : Out := .next (s.enqueueMma core)

/-! Copy nodes (R288). -/

/-- A READY copy node starts on the engine with the fewest copies in progress. -/
def evCopyNodeStart (d n : Nat) (s : State) : Out :=
  .next (
    let x := s.node d n
    if x.kind != .copy || x.st != .ready then s
    else
      let load (k : Nat) : Nat := (s.clusterAt (8 * d + k)).copies.length
      let best := (List.range 8).foldl (fun b k => if load k < load b then k else b) 0
      let cl := 8 * d + best
      let b := s.job x.job
      let v : View := { bndlo := 1, bndhi := 0, sp := 0, cl := (0, 0)
                        ds := (let w := b.dsw.getD d (0, 0); (dscrBase d + w.1 * 2 ^ 16, w.2 * 2 ^ 16))
                        omap := [], x := s.jobX x.job, perm := b.perm, hLo := 0, hCnt := 0 }
      let i : CopyIn := { cmd := ⟨.copy, x.recAddr, 0, 0, 3, 0, 0⟩, core := 8 * cl, ctx := 0, serial := 0, job := x.job
                          view := v, num := 0, node := some (d, n), phase := 0, sent := 0 }
      (s.updCluster cl fun k => { k with intake := k.intake ++ [i] }).updNode d n fun y => { y with st := .active })

/-! The events, at the place and with the arguments in focus. -/

def execHandleFree (s : State) : Out := evHandleFree s.cur.core (s.arg 0) s
def execCopyAccept (s : State) : Out := evCopyAccept (s.arg 0) s
def execCopyComplete (s : State) : Out := evCopyComplete (s.arg 0) (s.arg 1) s
def execCopymMmaEnqueue (s : State) : Out := evCopymMmaEnqueue s.cur.core s
def execCopyNodeStart (s : State) : Out := evCopyNodeStart (s.arg 0) (s.arg 1) s

end Sys2Proof.Machine
end

