-- ==== Sys2Proof/Machine/HearthEvents.lean ====
section
/-! DEFINITION. The Hearth's events: submission and admission, decrements, launches, expansion, dispatch, cancels and
suspensions (R235, R252 to R273, R293 to R295). -/

namespace Sys2Proof.Machine

/-! Submission (R255 to R258). -/

def neKind (e : BitVec 256) : Nat := bitsOf e.toNat 17 16
def neNsucc (e : BitVec 256) : Nat := bitsOf e.toNat 22 18
def neSucc (e : BitVec 256) (j : Nat) : Nat := bitsOf e.toNat (71 + 8 * j) (64 + 8 * j)
def neRec (e : BitVec 256) : Nat := bitsOf e.toNat 255 192

/-- A malformed node entry of a graph of n nodes (R257). -/
def neBad (n : Nat) (e : BitVec 256) : Bool :=
  bitsOf e.toNat 63 23 != 0 || neKind e == 3 || decide (16 < neNsucc e) ||
  (List.range 16).any (fun j => if j < neNsucc e then decide (n ≤ neSucc e j) else neSucc e j != 0) ||
  (decide (neKind e < 2) && neRec e == 0)

/-- The descriptor at an address (R255, R257): its header and node entries, or nothing when it is malformed or unreadable. -/
def State.readGraph (s : State) (d j : Nat) (a : Word) : State × Option (Nat × List (BitVec 256)) :=
  let x := s.jobX j
  match s.engRead d x a 64 with
  | (s, .inl (hb, false)) =>
    let h := ofBytes hb
    let n := bitsOf h 8 0
    if bitsOf h 511 105 != 0 || n == 0 || decide (256 < n) then (s, none)
    else
      match s.engRead d x (a + 64#64) (32 * n) with
      | (s, .inl (bs, false)) =>
        let b := ofBytes bs
        let es := (List.range n).map fun i => BitVec.ofNat 256 (b / 2 ^ (256 * i))
        (s, if es.any (neBad n) then none else some (h, es))
      | (s, _) => (s, none)
  | (s, _) => (s, none)

/-- One launch as a graph of one node with a count of zero (R293). -/
def oneNode (a : Word) : BitVec 256 := BitVec.ofNat 256 (a.toNat * 2 ^ 192)

/-- A graph that is not admitted: reported as GRAPH_DONE with status MALFORMED (R257). -/
def State.badGraph (s : State) (j : Nat) : State := s.report j rkGraphDone 3 0 0 0 0 0

/-- Submits a graph to a job: `phase` is a task's own phase; a host submission reads PHASE and RES from the descriptor
(R255, R258).  After a FAILED phase, and in a phase that a cancel has named, it completes CANCELLED without admission (R254, R295). -/
def State.submitGraph (s : State) (d j serial : Nat) (a : Word) (phase : Option Nat) (res : Word) (one : Bool) : State :=
  let (s, got) := if one then (s, some (0, [oneNode a])) else s.readGraph d j a
  match got with
  | none => s.badGraph j
  | some (h, es) =>
    let b := s.job j
    let p := phase.getD (bitsOf h 40 9)
    let res := if phase.isSome then res else BitVec.ofNat 64 (bitsOf h 104 41)
    let next := phase.isNone && p == b.phase + 1
    let wrong := phase.isNone && !next && (p != b.phase || b.phaseClosed || b.closed)
    let s := if next then s.updJob j fun b => { b with phaseClosed := true } else s
    if wrong then s.badGraph j
    else if b.status = .failed || (b.cancFrom.map fun c => decide (c ≤ p)).getD false then
      let s := s.updJob j fun b => { b with phSt := tset b.phSt p ((tget CStatus.ok b.phSt p).worst .cancelled) }
      (s.report j rkGraphDone CStatus.cancelled.code 0 0 0 0 0).phaseEnd j
    else
      (s.updDie d fun x => { x with waiting := x.waiting ++ [⟨j, p, es, one, res, serial⟩] }).phaseEnd j

/-! Admission (R257). -/

/-- The lowest run of n free entries of the node table. -/
def Die.freeRun (d : Die) (n : Nat) : Option Nat :=
  (List.range (4097 - n)).find? fun b => !(d.nodes.any fun y => decide (b ≤ y.1) && decide (y.1 < b + n))

/-- The waiting graph that is admitted next: the first of its job's queue that fits, while the graph table of 512 has room (R252). -/
def Die.admissible (d : Die) : Option (GraphReq × Nat) :=
  if 512 ≤ d.graphs.length then none
  else d.waiting.findSome? fun g =>
    if (d.waiting.find? fun h => h.job == g.job) = some g then (d.freeRun g.nodes.length).map fun b => (g, b) else none

/-- Installs an admitted graph at a table index: its identifier, its nodes with their counts, and the word at RES. -/
def State.installGraph (s : State) (d : Nat) (g : GraphReq) (base : Nat) : State :=
  let seq := (s.dieAt d).seq
  let id : BitVec 32 := BitVec.ofNat 32 (d % 4 * 2 ^ 30 + seq % 2 ^ 18 * 2 ^ 12 + base)
  let n := g.nodes.length
  let nodes := g.nodes.zipIdx.map fun ((e, i) : BitVec 256 × Nat) =>
    (base + i, { Node.zero with
      graph := id, job := g.job, count := bitsOf e.toNat 15 0, recAddr := BitVec.ofNat 64 (neRec e), level := 2
      kind := (match neKind e with | 0 => NodeKind.launch | 1 => .copy | _ => .gate)
      succ := (List.range (neNsucc e)).map (neSucc e) })
  let s := s.updDie d fun x => { x with
    seq := seq + 1
    waiting := x.waiting.erase g
    graphs := x.graphs ++ [⟨id, g.job, g.phase, n, n, .ok⟩]
    nodes := nodes.foldl (fun (t : Tab Node) (y : Nat × Node) => tset t y.1 y.2) x.nodes }
  let s := nodes.foldl (fun s (y : Nat × Node) => if y.2.count = 0 then s.nodeZero d y.1 else s) s
  if g.res = 0 then s
  else
    match s.engWrite d (s.jobX g.job) g.res (toBytes id.toNat 8) clean with
    | (s, none) => s
    | (s, some f) => if f.1 = 0x0E then s.engineCheck d g.job g.serial f else s.engineDrop g.job id.toNat g.res

def evGraphAdmit (d : Nat) (s : State) : Out :=
  .next (match (s.dieAt d).admissible with
    | none => s
    | some (g, b) => s.installGraph d g b)

/-! Decrements (R260). -/

/-- HEARTH_REJECT (R339). -/
def State.rejectCmd (s : State) (d j ident cmd node : Nat) : State :=
  s.emit (srcHearth d) (s.tenantOf j) 0x22 (ident % 2 ^ 32 + cmd * 2 ^ 32 + node % 2 ^ 12 * 2 ^ 36)

def HCmd.trigOf (c : HCmd) (n : Nat) : Option Nat :=
  match c.kind with
  | .trig m k => if m = n then some k else none
  | _ => none

/-- The decrements that reach a node in one router cycle, summed: those of its own job; the others are rejected. -/
def evNodeDecrement (d n : Nat) (s : State) : Out :=
  .next (
    let all := (s.dieAt d).intake.filterMap fun c => (c.trigOf n).map fun k => (c.job, k)
    let s := s.updDie d fun x => { x with intake := x.intake.filter fun c => (c.trigOf n).isNone }
    let mineJob := match tfind (s.dieAt d).nodes n with
      | some x => fun j => x.job == j
      | none => fun _ => true
    let bad := all.filter fun y => !(mineJob y.1)
    let good := all.filter fun y => mineJob y.1
    let s := bad.foldl (fun s y => s.rejectCmd d y.1 n 0 n) s
    if good.isEmpty then s else s.decNode d n ((good.map Prod.snd).sum) (s.tenantOf ((good.map Prod.fst).headD 0)))

/-! Phases (R258). -/

/-- Opens the next phase of a job on all dies: its DEFERRED nodes become READY.  A phase that completed FAILED first cancels
every later one (R254). -/
def evPhaseOpen (j : Nat) (s : State) : Out :=
  .next (
    let b := s.job j
    if b.st != .running || !b.phaseDone then s
    else
      let s := if tget CStatus.ok b.phSt b.phase = .failed then s.cancelPhases 4 j (b.phase + 1) 0 else s
      let b := s.job j
      if b.st != .running then s
      else
        let p := b.phase + 1
        let s := s.updJob j fun b => { b with phase := p, phaseDone := false, phaseClosed := b.closed }
        let s := (List.range 4).foldl (fun s d =>
          ((s.dieAt d).nodes.filter fun y => y.2.job == j && y.2.st == .deferred).foldl (fun s y =>
            if s.nodePhase d y.1 = p then s.nodeZero d y.1 else s) s) s
        s.phaseEnd j)

/-! Launches (R261 to R265). -/

/-- Rejects a launch (R262, R268, R359): LAUNCH_REJECTED with a status, and the node completes FAILED. -/
def State.rejectLaunch (s : State) (d n st : Nat) : State :=
  let x := s.node d n
  (s.report x.job rkLaunchRejected st (lnchOf x.graph n).toNat 0 0 0 0).completeNode d n .failed

/-- What is wrong with a launch whose header stands verified: ENTRY outside the code (R354), or an urgent launch without PERM
bit 8 (R359). -/
def State.launchFault (s : State) (x : Node) : Option Nat :=
  match x.lrec with
  | none => none
  | some r =>
    match s.progOf (s.job x.job).asid (lrProg r) with
    | none => none
    | some p =>
      let c := codeBase (lrProg r)
      if !(decide (c.toNat ≤ (lrEntry r).toNat) && decide ((lrEntry r).toNat ≤ c.toNat + 512 * shCodeBlk p.header - 64)) then some 3
      else if lrPrio r = 0 && !((s.job x.job).perm.getLsbD 8) then some 1
      else none

/-- Whether the header of a launch stands verified. -/
def State.headerStands (s : State) (x : Node) : Bool :=
  match x.lrec with
  | none => false
  | some r => (s.progOf (s.job x.job).asid (lrProg r)).isSome

/-- The next linear index of a launch that CANC has not removed (R295). -/
def skipTo (skip : List Nat) : Nat → Nat → Nat
  | 0, i => i
  | f + 1, i => if skip.contains i then skipTo skip f (i + 1) else i

/-- CANC's removal of a task of a launch that has not been expanded (R295): it counts as ended, and is reported. -/
def State.removeTask (s : State) (d n : Nat) (ident : Word) (i : Nat) : State :=
  let x := s.node d n
  let total := match x.lrec with | some r => lrTasks r | none => 0
  let s := s.updNode d n fun y => { y with skip := y.skip ++ [i], left := y.left - 1, bad := true
                                           next := if y.next ≤ i then skipTo (y.skip ++ [i]) total y.next else y.next }
  s.reportOpen x.job rkTaskKilled (lnchOf x.graph n).toNat i (killCause 0x11 0x01).toNat ident.toNat 0

/-- The removals that came before the record was read (R295): an index beyond the grid is recorded as stale. -/
def State.removeEarly (s : State) (d n : Nat) : State :=
  let x := s.node d n
  let total := match x.lrec with | some r => lrTasks r | none => 0
  let s := s.updNode d n fun y => { y with canc := [] }
  x.canc.foldl (fun s (i, v) =>
    if (s.node d n).skip.contains i then s
    else if i < total then s.removeTask d n v i
    else s.rejectCmd d x.job v.toNat 3 n) s

/-- The Hearth reads and checks the launch record of a READY node (R262); what TASKS and CANC have said of the launch before stands. -/
def evLaunchReady (d n : Nat) (s : State) : Out :=
  .next (
    let x := s.node d n
    if x.kind != .launch || !(x.st == .ready || x.st == .suspended) || x.lrec.isSome then s
    else
      match (if x.recAddr.toNat % 128 ≠ 0 then (s, .inl ([], true)) else s.engRead d (s.jobX x.job) x.recAddr 128) with
      | (s, .inl (bs, false)) =>
        let r : BitVec 1024 := BitVec.ofNat 1024 (ofBytes bs)
        if lrBad r then s.rejectLaunch d n 3
        else
          let s := s.updNode d n fun y => { y with
            lrec := some r, level := y.pri.getD (lrPrio r), left := lrTasks r, next := 0, aged := if y.pri.isSome then y.aged else s.now }
          match s.launchFault (s.node d n) with
          | some st => s.rejectLaunch d n st
          | none => s.removeEarly d n
      | (s, _) => s.rejectLaunch d n 3)

/-- Sniras finishes verifying the header of a launch held READY (R354); a full table makes it wait. -/
def evSealedHeaderVerified (d n : Nat) (s : State) : Out :=
  .next (
    let x := s.node d n
    match x.lrec with
    | none => s
    | some r =>
      if !(x.st == .ready || x.st == .suspended) || s.headerStands x || decide (256 ≤ s.progs.length) then s
      else
        match s.tenantKey (s.job x.job).tenant with
        | none => s
        | some owner => match s.verifyHeader d x.job owner (lrProg r) with
        | (s, none) => s.rejectLaunch d n 3
        | (s, some h) =>
          let s := { s with progs := s.progs ++ [(⟨lrProg r, (s.job x.job).asid, x.job, h⟩ : Prog)] }
          match s.launchFault (s.node d n) with
          | some st => s.rejectLaunch d n st
          | none => s)

/-- Free barriers, rendezvous groups and window units of a cluster. -/
def Cluster.freeBars (c : Cluster) : List Nat := (List.range 16).filter fun b => !(c.binds.any fun y => y.bars.contains b)
def Cluster.freeGroup (c : Cluster) : Option Nat := (List.range 8).find? fun g => !(c.binds.any fun y => y.rdv == some g)
/-- The lowest base of a free run of cluster-shared units of 2 KiB. -/
def Cluster.freeWin (c : Cluster) (n : Nat) : Option Nat :=
  if n = 0 then some 0
  else (List.range (2049 - n)).find? fun b =>
    !(c.binds.any fun y => y.wins.any fun w => decide (w.2 < (b + n) * 2048) && decide (b * 2048 < w.2 + y.clSize))

/-- The window base of a further task of a launch on a cluster (R233; log entry 96): with SPSH the one that its tasks there have, else a run of its own. -/
def Cluster.winFor (c : Cluster) (wins : List (Nat × Nat)) (r : BitVec 1024) : Option Nat :=
  match (if lrSpsh r then wins.head? else none) with
  | some w => some w.2
  | none => (c.freeWin (lrClwin r)).map fun u => u * 2048

/-- The binding of a launch on a cluster once its task i goes there (R233, R236, R240). -/
def Cluster.bindFor (c : Cluster) (l : BitVec 32) (j : Nat) (r : BitVec 1024) (i : Nat) : Option Bind :=
  match c.binds.find? fun b => b.lnch == l with
  | some b => (c.winFor b.wins r).map fun w => { b with wins := b.wins ++ [(i, w)] }
  | none =>
    if c.freeBars.length < lrNbar r then none
    else
      let g := if lrRdvg r then c.freeGroup else none
      if lrRdvg r && g.isNone then none
      else (c.winFor [] r).map fun w => ⟨l, j, c.freeBars.take (lrNbar r), g, [(i, w)], lrClwin r * 2048⟩

/-- Binds a launch on a cluster for one more task: window units that another job held are zeroed, and the barriers of a launch new there
start empty (R236, R267). -/
def State.bindLaunch (s : State) (cl : Nat) (b : Bind) : State :=
  let c := s.clusterAt cl
  let base := ((b.wins.getLast?).map Prod.snd).getD 0
  let units := (List.range (b.clSize / 2048)).map fun i => base / 2048 + i
  let s := units.foldl (fun s u =>
      match tfind c.clJob u with
      | some j => if j = b.job then s else
          { s with mem := memZero s.mem (clBase cl + u * 2048) 2048, poison := clearUnits s.poison (clBase cl + u * 2048) 2048 }
      | none => s) s
  let s := s.updCluster cl fun k => { k with clJob := units.foldl (fun t u => tset t u b.job) k.clJob }
  if c.binds.any fun y => y.lnch == b.lnch then
    s.updCluster cl fun k => { k with binds := k.binds.map fun y => if y.lnch == b.lnch then b else y }
  else
    s.updCluster cl fun k => { k with
      binds := k.binds ++ [b]
      bars := b.bars.foldl (fun t i => tset t i Barrier.zero) k.bars }

/-- Queued tasks and non-FREE ordinary contexts of a cluster (R265). -/
def State.clusterLoad (s : State) (cl : Nat) : Nat :=
  (s.clusterAt cl).ready.length +
    ((List.range 8).map fun i => ((List.range 4).filter fun k => (s.ctxAt (cl * 8 + i) k).stat != .free).length).sum

/-- Whether a cluster may hold task i of a launch, its queue apart (R265). -/
def State.eligible (s : State) (cl : Nat) (x : Node) (n : Nat) (r : BitVec 1024) (i : Nat) : Bool :=
  let c := s.clusterAt cl
  bitsOf (lrAff r) (cl % 8) (cl % 8) == 1 && (!c.nomx || lrNomx r) && (c.bindFor (lnchOf x.graph n) x.job r i).isSome

/-- The cluster that an expanded task goes to (R265). -/
def State.pickCluster (s : State) (d : Nat) (x : Node) (n : Nat) (r : BitVec 1024) : Option Nat :=
  let ok := (List.range 8).filter fun k =>
    let cl := 8 * d + k
    s.eligible cl x n r (skipTo x.skip (lrTasks r) x.next) && decide ((s.clusterAt cl).ready.length < 32)
  match ok with
  | [] => none
  | k :: t => some (8 * d + t.foldl (fun b k => if s.clusterLoad (8 * d + k) < s.clusterLoad (8 * d + b) then k else b) k)

/-- A launch that may expand: its node, and the cluster for its next task; a stalled Hearth expands none (R337). -/
def State.canExpand (s : State) (d n : Nat) : Option Nat :=
  let x := s.node d n
  match x.lrec with
  | none => none
  | some r =>
    if s.stalled (srcHearth d) || !(x.st == .ready || x.st == .active) || x.susp || x.dying || x.level == 0 || !s.headerStands x || decide (lrTasks r ≤ x.next) then none
    else s.pickCluster d x n r

/-- The launch served next: the lowest level, then the order of service within it (R264). -/
def State.nextLaunch (s : State) (d : Nat) : Option (Nat × Nat) :=
  let xs := (s.dieAt d).nodes.filterMap fun (y : Nat × Node) => (s.canExpand d y.1).map fun cl => (y.1, cl)
  match xs with
  | [] => none
  | h :: t => some (t.foldl (fun b y =>
      let p := s.node d b.1
      let q := s.node d y.1
      if q.level < p.level || (q.level == p.level && decide (q.order < p.order)) then y else b) h)

/-- A ready queue is ordered by level, then by expansion (R265). -/
def readyIns (t : ReadyTask) : List ReadyTask → List ReadyTask
  | [] => [t]
  | u :: r => if t.level < u.level then t :: u :: r else u :: readyIns t r

/-- One expansion (R263 to R265): round robin within the level. -/
def State.expand (s : State) (d : Nat) : State :=
  match s.nextLaunch d with
  | none => s
  | some (n, cl) =>
    let x := s.node d n
    match x.lrec with
    | none => s
    | some r =>
      let i := skipTo x.skip (lrTasks r) x.next
      let o := (s.dieAt d).order
      let s := s.updDie d fun y => { y with order := o + 1 }
      let s := s.updNode d n fun y => { y with st := .active, next := skipTo x.skip (lrTasks r) (i + 1), order := o }
      if lrTasks r ≤ i then s
      else
        let l := lnchOf x.graph n
        let s := match (s.clusterAt cl).bindFor l x.job r i with
          | some b => s.bindLaunch cl b
          | none => s
        s.updCluster cl fun k => { k with ready := readyIns ⟨n, l, x.job, i, x.level, x.aged⟩ k.ready }

def evLaunchExpand (d : Nat) (s : State) : Out := .next (s.expand d)

/-- 100 µs in Bellows units of 1/16 ns. -/
def ageLimit : Nat := 1600000

/-- A launch that has waited 100 µs for expansion rises one level, down to 1 (R264). -/
def evLaunchAge (d n : Nat) (s : State) : Out :=
  .next (
    let x := s.node d n
    match x.lrec with
    | none => s
    | some r =>
      if !(x.st == .ready || x.st == .active) || x.susp || decide (lrTasks r ≤ x.next) || decide (x.level ≤ 1) ||
          decide (s.now < x.aged + ageLimit) then s
      else s.updNode d n fun y => { y with level := y.level - 1, aged := s.now })

/-! Dispatch (R206, R235, R267, R271). -/

/-- Scratchpad windows in use on a core: base and size. -/
def Core.spWins (k : Core) : List (Nat × Nat) :=
  k.ctxs.filterMap fun (y : Nat × Ctx) =>
    if y.2.stat = .free then none
    else match y.2.task with
      | some t => if y.2.csr.sup then none else some (t.spBase, t.spSize)
      | none => none

/-- The lowest free run of n 1 KiB units of a scratchpad. -/
def Core.freeSp (k : Core) (n : Nat) : Option Nat :=
  (List.range (385 - n)).find? fun b =>
    !(k.spWins.any fun w => decide (w.1 < (b + n) * 1024) && decide (b * 1024 < w.1 + w.2))

/-- Size of a task's window (R206). -/
def winSize (h : BitVec 3072) : Nat := (shBndhi h + 1 + 1023) / 1024 * 1024

/-- Whether a task of a launch is live on a core. -/
def Core.hosts (k : Core) (l : BitVec 32) : Bool :=
  k.ctxs.any fun (y : Nat × Ctx) => y.2.stat != .free && !y.2.csr.sup && (match y.2.task with | some t => t.lnch == l | none => false)

/-- The window base for a task on a core: with SPSH the one that its launch has had there, else the lowest that fits (R235, R267). -/
def Core.winFor (k : Core) (l : BitVec 32) (shared : Bool) (h : BitVec 3072) : Option Nat :=
  match (if shared then k.spShare.find? fun y => y.1 == l else none) with
  | some y =>
    if k.hosts l || !(k.spWins.any fun w => decide (w.1 < y.2 + winSize h) && decide (y.2 < w.1 + w.2)) then some y.2 else none
  | none => (k.freeSp (winSize h / 1024)).map fun b => b * 1024

/-- A launch with SPSH keeps its window base on a core (R267). -/
def Core.share (k : Core) (l : BitVec 32) (shared : Bool) (b : Nat) : Core :=
  if shared && !(k.spShare.any fun y => y.1 == l) then { k with spShare := k.spShare ++ [(l, b)] } else k

/-- The lowest FREE ordinary context of a core. -/
def Core.freeCtx? (k : Core) : Option Nat := (List.range 4).find? fun i => (k.ctxAt i).stat == .free

/-- Whether a core is a candidate for a task (R235): its context and window.  One that is still to be zeroed cannot be bound (R267). -/
def Core.candidate (k : Core) (t : ReadyTask) (r : BitVec 1024) (h : BitVec 3072) : Option (Nat × Nat) :=
  if k.zeroing || (match k.bound with | some j => j != t.job | none => false) || decide (k.omFree.length < lrNosl r) then none
  else match k.freeCtx?, k.winFor t.lnch (lrSpsh r) h with
    | some c, some b => some (c, b)
    | _, _ => none

/-- The candidate core with the fewest non-FREE ordinary contexts (R235): core, context, window base.  A no-matrix cluster takes only the
tasks of no-matrix launches (R251), and a stalled Hearth dispatches none (R337). -/
def State.placeFor (s : State) (cl : Nat) (t : ReadyTask) (r : BitVec 1024) (h : BitVec 3072) : Option (Nat × Nat × Nat) :=
  if ((s.clusterAt cl).nomx && !lrNomx r) || s.stalled (srcHearth (cl / 8)) then none else
  let busy (i : Nat) : Nat := ((List.range 4).filter fun k => (s.ctxAt i k).stat != .free).length
  let xs := (List.range 8).filterMap fun i =>
    ((s.coreAt (cl * 8 + i)).candidate t r h).map fun y => (cl * 8 + i, y.1, y.2)
  match xs with
  | [] => none
  | a :: rest => some (rest.foldl (fun b y => if busy y.1 < busy b.1 then y else b) a)

/-- The attributes of a task of a launch on a core; a task keeps the level at which it was expanded (R266). -/
def State.taskOf (s : State) (cl d n i level : Nat) (x : Node) (r : BitVec 1024) (h : BitVec 3072) (sp : Nat) (urgent : Bool) : Task :=
  let b := (s.clusterAt cl).binds.find? fun b => b.lnch == lnchOf x.graph n
  let w := b.bind fun b => b.wins.find? fun w => w.1 == i
  let j := s.job x.job
  { serial := s.nextSerial, job := x.job, lnch := lnchOf x.graph n, tidx := i, asid := j.asid, tenant := j.tenant
    prog := lrProg r, handler := lrHandler r, spBase := sp, spSize := winSize h
    clBase := (w.map Prod.snd).getD 0, clSize := (b.map Bind.clSize).getD 0
    hLo := lrHbase r, hCnt := lrHcnt r, bars := (b.map Bind.bars).getD [], rdv := (b.map Bind.rdv).getD none
    save := if lrSave r = 0 then 0 else BitVec.ofNat 64 (lrSave r + 32768 * i)
    nomx := lrNomx r, urgent := urgent, node := n, prio := level, phase := s.nodePhase d n }

/-- The context's state at dispatch (R83, R271). -/
def dispatchCtx (t : Task) (r : BitVec 1024) (h : BitVec 3072) (feat : BitVec 256) : Ctx :=
  let i := t.tidx
  let csr : Csr := { Csr.reset.put 0x23 (lrSeed r) with
    tcx := BitVec.ofNat 32 (i % lrGX r)
    tcy := BitVec.ofNat 32 (i / lrGX r % lrGY r)
    tcz := BitVec.ofNat 32 (i / (lrGX r * lrGY r))
    lnch := t.lnch
    bndlo := BitVec.ofNat 19 (shBndlo h)
    bndhi := BitVec.ofNat 19 (shBndhi h)
    segpc := lrEntry r
    feat := feat }
  { Ctx.reset with
    sRegs := (List.range 4).foldl (fun t j => tset t (j + 1) (lrArg r j)) []
    csr := csr
    pc := lrEntry r
    task := some t }

/-- An idle core's cycles run on to cycle n, period by period: its matrix engine's are charged, and each period of 65,536 cycles ends with
its MXSUM (R341). -/
def State.idleTo (s : State) (core n : Nat) : Nat → State
  | 0 => s
  | f + 1 =>
    let at0 := (s.coreAt core).cycle
    if n ≤ at0 then s
    else
      let at1 := Min.min n ((at0 / 65536 + 1) * 65536)
      let (cls, ctx, bidx, tenant) := s.mxClass core
      let s := (s.count tenant (dieOf core) (4 + cls) (at1 - at0)).updCore core fun k =>
        { k with mxSum := mxAdd k.mxSum cls (at1 - at0) ctx bidx tenant, cycle := at1 }
      let s := if at1 % 65536 = 0 then s.mxFlush core false fun _ => true else s
      State.idleTo s core n f

/-- A core on which no context is active has kept no time: its cycles run on to the present. -/
def State.catchUp (s : State) (core : Nat) : State :=
  let k := s.coreAt core
  let n := s.elapsed / 4
  if k.ctxs.any (fun y => y.2.stat != .free) || !k.mq.isEmpty then s else s.idleTo core n (n / 65536 + 1)

/-- Puts a task into a context (R271): state, operand slots, constants (R356), TASK_START.  The core's L1 empties, so that its loads find
what the work before the task has written (R310; DEDUCED). -/
def State.startTask (s : State) (core ctx d n i level : Nat) (x : Node) (r : BitVec 1024) (h : BitVec 3072) (sp : Nat) (urgent : Bool) : State :=
  let s := s.catchUp core
  let cl := clusterOf core
  let t := s.taskOf cl d n i level x r h sp urgent
  let c := dispatchCtx t r h s.feat
  let s := { s with nextSerial := s.nextSerial + 1 }
  let s := s.setCtxAt core ctx { c with preempt := x.susp }
  let s := s.updCore core fun k => { (k.share t.lnch (lrSpsh r) sp) with bound := some (k.bound.getD x.job), l1 := [] }
  let s := (s.mapSlots core ctx (List.range (lrNosl r))).makeReady core ctx
  let s := s.updNode d n fun y => { y with serials := y.serials ++ [t.serial] }
  let s := s.emitX (srcCore core) t.tenant 0x01 (taskPayload (s.ctxAt core ctx) ctx) 0 0 0
  match s.placeConsts core (s.jobX x.job) (lrProg r) h (spBase core + sp) with
  | (s, none) => s
  | (s, some a) => s.fetchFail (dieOf core) x.job t.serial a

/-- The task of a ready-queue entry, with its record and header, when its launch still stands. -/
def State.readyInfo (s : State) (d : Nat) (t : ReadyTask) : Option (Node × BitVec 1024 × BitVec 3072) :=
  let x := s.node d t.node
  match x.lrec with
  | none => none
  | some r => (s.progOf (s.job x.job).asid (lrProg r)).map fun p => (x, r, p.header)

/-- Whether a job's dispatching stands still: its reports are held for want of buffer (R367). -/
def State.dispatchHeld (s : State) (j : Nat) : Bool :=
  !s.dmaOn && (s.rptQueue.drop rptMax).contains j

/-- What a cluster places next: the first entry of its ready queue that has a candidate core, with its record and place (R265, R235). -/
def State.dispatchNext (s : State) (cl : Nat) : Option (ReadyTask × Node × BitVec 1024 × BitVec 3072 × Nat × Nat × Nat) :=
  (s.clusterAt cl).ready.findSome? fun t =>
    if s.dispatchHeld t.job then none
    else match s.readyInfo (cl / 8) t with
      | none => none
      | some (x, r, h) => (s.placeFor cl t r h).map fun p => (t, x, r, h, p)

/-- The entry that a cluster dispatches next. -/
def State.dispatchPick (s : State) (cl : Nat) : Option ReadyTask := (s.dispatchNext cl).map Prod.fst

def State.dispatchOne (s : State) (cl : Nat) : State :=
  let d := cl / 8
  match s.dispatchNext cl with
  | none => s
  | some (t, x, r, h, core, ctx, sp) =>
    (s.updCluster cl fun k => { k with ready := k.ready.erase t }).startTask core ctx d t.node t.tidx t.level x r h sp false

def evTaskDispatch (cl : Nat) (s : State) : Out := .next (s.dispatchOne cl)

/-- The tail that a cluster may steal from another (R266): of the longest queue whose tail it can take.  An owner that would dispatch
its last entry now wins it. -/
def State.stealFrom (s : State) (cl : Nat) : Option (Nat × ReadyTask × Node × BitVec 1024 × BitVec 3072 × Nat × Nat × Nat) :=
  let d := cl / 8
  if !(s.clusterAt cl).ready.isEmpty then none
  else
    let xs := (List.range 8).filterMap fun k =>
      let o := 8 * d + k
      if o = cl then none
      else match (s.clusterAt o).ready.getLast? with
        | none => none
        | some t =>
          match s.readyInfo d t with
          | none => none
          | some (x, r, h) =>
            let ownerWins := s.dispatchPick o == some t
            if ownerWins || !s.eligible cl x t.node r t.tidx || s.dispatchHeld t.job then none
            else (s.placeFor cl t r h).map fun p => (o, t, x, r, h, p)
    match xs with
    | [] => none
    | a :: rest => some (rest.foldl (fun b y =>
        if (s.clusterAt b.1).ready.length < (s.clusterAt y.1).ready.length then y else b) a)

def evTaskSteal (cl : Nat) (s : State) : Out :=
  .next (match s.stealFrom cl with
    | none => s
    | some (o, t, x, r, h, core, ctx, sp) =>
      let d := cl / 8
      let s := s.updCluster o fun k => { k with ready := k.ready.dropLast }
      let s := match (s.clusterAt cl).bindFor t.lnch x.job r t.tidx with
        | some b => s.bindLaunch cl b
        | none => s
      (s.startTask core ctx d t.node t.tidx t.level x r h sp false).unbindLaunch o t.lnch)

/-- An urgent launch asks for partition X of its core (R268); one whose launch cannot yet be bound on the cluster waits, as does one with
matrix commands for a no-matrix cluster (R251) or for a core that is still to be zeroed (R267). -/
def evUrgentDispatch (d n : Nat) (s : State) : Out :=
  .next (
    let x := s.node d n
    match x.lrec with
    | none => s
    | some r =>
      if s.stalled (srcHearth d) || s.dispatchHeld x.job || x.st != .ready || x.susp || x.dying || x.level != 0 || lrPrio r != 0 || !s.headerStands x || decide (x.next ≠ 0) then s
      else
        let core := 64 * d + lrUcore r
        let cl := clusterOf core
        if (match (s.coreAt core).bound with | some j => j != x.job | none => false) then s.rejectLaunch d n 3
        else if (s.coreAt core).zeroing || ((s.clusterAt cl).nomx && !lrNomx r) then s
        else
          match (s.clusterAt cl).bindFor (lnchOf x.graph n) x.job r 0 with
          | none => s
          | some b =>
            let s := s.bindLaunch cl b
            let s := s.updNode d n fun y => { y with st := .active, next := 1 }
            s.updCore core fun k => { k with bound := some x.job, xqueue := k.xqueue ++ [.urgent (lnchOf x.graph n)] })

/-- Zeroes a range of the model's places. -/
def State.zeroRange (s : State) (a n : Nat) : State := { s with mem := memZero s.mem a n, poison := clearUnits s.poison a n }

/-- Commands of a core that an engine has still to take: they run on to their completion (R272), and may read the core's stores. -/
def State.sentLeft (s : State) (core : Nat) : Bool :=
  let mine (i : CopyIn) : Bool := i.node.isNone && i.core == core
  (s.clusterAt (clusterOf core)).intake.any mine || s.fab.pktq.any mine || (s.fab.unsent.map Unsent.inp).any mine || s.fab.remq.any mine || s.fab.remote.any (fun o => mine o.inp)

/-- Whether the stores of a core are at rest: no routine in partition X and no request for it, no command queued or still to take. -/
def State.coreQuiet (s : State) (core : Nat) : Bool :=
  let k := s.coreAt core
  k.xrole == .none && k.xqueue.isEmpty && k.mq.isEmpty && k.mmaWait.isEmpty && !s.sentLeft core

/-- A core unbinds once every ordinary context is FREE and no handle is FILLING or DRAINING, and its handles return to FREE (R267).  One that an urgent task is asked for
stays bound to its job.  Its stores are zeroed before it can be bound again: once the commands that have been sent have run to their completion (R272). -/
def evCoreUnbind (core : Nat) (s : State) : Out :=
  .next (
    let k := s.coreAt core
    if k.zeroing then
      if s.coreQuiet core then
        let s := s.setCore core { k with zeroing := false, unbindJob := none, tiles := [], omFree := List.range 64, omLate := [] }
        let s := (s.zeroRange (spBase core) 0x60000).zeroRange (lsBase core 0) 0x10000
        (s.zeroRange (omBase core 0) 0x40000).zeroRange (tileBase core 0) 0x8000
      else s
    else if k.bound.isNone || k.xqueue.any (fun q => match q with | .urgent _ => true | _ => false) || k.ctxs.any (fun y => decide (y.1 < 4) && y.2.stat != .free) ||
        k.handles.any (fun y => y.2.st == .filling || y.2.st == .draining) then s
    else s.setCore core { k with bound := none, handles := [], spShare := [], zeroing := true, unbindJob := k.bound })

/-! Completion (R253, R272, R310). -/

/-- Takes the ended tasks of a launch whose stores are performed off its counter. -/
def State.countEnded (s : State) (d n : Nat) : State :=
  let mine := (s.dieAt d).ended.filter fun e => e.1 == n && !(s.storesLeft e.2.1)
  let s := s.updDie d fun x => { x with ended := x.ended.filter fun e => !(e.1 == n && !(s.storesLeft e.2.1)) }
  s.updNode d n fun y => { y with left := y.left - mine.length, bad := y.bad || mine.any fun e => e.2.2 }

/-- Copies of a node still in an engine. -/
def State.nodeCopies (s : State) (d n : Nat) : Bool :=
  s.clusters.any fun (y : Nat × Cluster) =>
    y.2.copies.any (fun c => c.inp.node == some (d, n)) || y.2.intake.any (fun c => c.node == some (d, n))

/-- A node whose work is over completes (R254): a READY gate, a launch whose counter is zero and whose engine commands have
completed, a copy that a cancel has stopped. -/
def evNodeComplete (d n : Nat) (s : State) : Out :=
  .next (
    if (tfind (s.dieAt d).nodes n).isNone then s
    else
      let x := s.node d n
      match x.kind with
      | .gate => if x.st = .ready then s.completeNode d n .ok else s
      | .copy => if x.st = .active && x.dying && !s.nodeCopies d n then s.completeNode d n .cancelled else s
      | .launch =>
        if x.lrec.isNone || x.st.complete then s
        else
          let s := s.countEnded d n
          let x := s.node d n
          let total := match x.lrec with | some r => lrTasks r | none => 0
          if x.left ≠ 0 || decide (x.next < total) || (s.dieAt d).ended.any (fun e => e.1 == n) || s.engineBusy x.serials then s
          else s.completeNode d n (if x.bad then .failed else if x.dying then .cancelled else .ok))

/-! Commands of tasks (R293 to R295). -/

/-- The die and node of a launch that belongs to a job. -/
def State.launchOf (s : State) (l : BitVec 32) (j : Nat) : Option (Nat × Nat) :=
  let d := lnchDie l
  let n := lnchNode l
  match tfind (s.dieAt d).nodes n with
  | none => none
  | some x => if x.kind == .launch && x.job == j && lnchOf x.graph n == l then some (d, n) else none

/-- PREEMPT (R339). -/
def State.emitPreempt (s : State) (core ctx resume : Nat) : State :=
  let c := s.ctxAt core ctx
  s.emitCtx core ctx 0x07 (ctx + resume * 8 + c.pc.toNat / 64 * 64 + c.tk.lnch.toNat * 2 ^ 64) 0

/-- An ordinary pre-emption takes effect (R223): FROZEN with DONE = 0, nothing held, nothing in flight. -/
def State.freezeOrd (s : State) (core ctx : Nat) : State :=
  let s := s.updCtxAt core ctx fun c => { c with
    stat := .frozen, freeze := .hearth, frozenN := 0, preempt := false, stallN := 0, csr := { c.csr with done := 0 } }
  let s := s.updCore core fun k => { k with port := if k.port = some ctx then none else k.port }
  s.emitPreempt core ctx 0

/-- The Hearth releases a context (R223, R269): it resumes with "continue"; one that was WAITING waits on. -/
def State.releaseOrd (s : State) (core ctx : Nat) : State :=
  let c := s.ctxAt core ctx
  if c.stat = .frozen && c.freeze = .hearth then
    let s := s.emitPreempt core ctx 1
    (s.updCtxAt core ctx fun c => { c with preempt := false }).thaw core ctx
  else s.updCtxAt core ctx fun c => { c with preempt := false }

/-- A frozen context leaves by a fate, coded as RESUME.ACT. -/
def State.resumeCtx (s : State) (core ctx act : Nat) : State :=
  let c := s.ctxAt core ctx
  if c.stat != .frozen || act = 0 then s
  else
    let s := if c.debugStopped then s.emitCtx core ctx 0x39 (ctx + act * 8 + c.pc.toNat / 64 * 64) 0 else s
    let s := s.updCtxAt core ctx fun c => { c with act := 0 }
    let s := s.releaseDeferred core ctx
    match act with
    | 1 => (s.rewindCtx core ctx 4).thaw core ctx
    | 2 => (s.updCtxAt core ctx fun c => { c with dbgSkip := if c.debugStopped then some c.pc else c.dbgSkip }).thaw core ctx
    | _ => s.killTask core ctx c.csr.trapc c.csr.trapv

/-- The contexts that the tasks of a launch occupy: an urgent one partition X, whose other routines are not the task's own context. -/
def State.launchCtxs (s : State) (l : BitVec 32) : List (Nat × Nat) := s.ctxsWhere fun _ k t => t.lnch == l && (decide (k < 4) || t.urgent)

/-- Suspends a launch (R269). -/
def State.suspend (s : State) (d n : Nat) : State :=
  let x := s.node d n
  let l := lnchOf x.graph n
  let s := s.updNode d n fun y => { y with susp := true, st := if y.st = .ready || y.st = .active then .suspended else y.st }
  (s.launchCtxs l).foldl (fun s (i, k) =>
    let c := s.ctxAt i k
    if c.stat = .waiting then s.freezeOrd i k else s.updCtxAt i k fun c => { c with preempt := true }) s

/-- Resumes a suspended launch (R269): one that returns to READY arrives there now (R264). -/
def State.unsuspend (s : State) (d n : Nat) : State :=
  let x := s.node d n
  let l := lnchOf x.graph n
  let o := (s.dieAt d).order
  let s := if x.st = .suspended then s.updDie d fun y => { y with order := o + 1 } else s
  let s := s.updNode d n fun y => { y with
    susp := false, st := if y.st = .suspended then .ready else y.st, order := if y.st = .suspended then o else y.order }
  (s.launchCtxs l).foldl (fun s (i, k) => s.releaseOrd i k) s

/-- TASKS (R294): an identifier of another job, or of no launch, is recorded and ignored. -/
def State.tasksCmd (s : State) (d : Nat) (c : HCmd) (l : BitVec 32) (f : State → Nat → Nat → State) : State :=
  match s.launchOf l c.job with
  | none => s.rejectCmd d c.job l.toNat 2 (lnchNode l)
  | some (e, n) => if (s.node e n).st.complete then s else s.acrossDies d e fun s => f s e n

/-- CANC.task (R295): a task on a core is killed and its copies stop, one not yet there is removed; while the launch's record is unread the
removal waits for it. -/
def State.cancTask (s : State) (d n : Nat) (ident : Word) (i : Nat) : State :=
  let x := s.node d n
  let l := lnchOf x.graph n
  if x.lrec.isNone then s.updNode d n fun y => { y with canc := y.canc ++ [(i, ident)] }
  else
    let live := s.ctxsWhere fun _ _ t => t.lnch == l && t.tidx == i
    match live with
    | _ :: _ =>
      let serials := live.map fun (c, k) => (s.ctxAt c k).tk.serial
      let s := s.stopCopies fun y => y.node.isNone && serials.contains y.serial
      live.foldl (fun s (c, k) => s.killTask c k (killCause 0x11 0x01) ident) s
    | [] =>
      let total := match x.lrec with | some r => lrTasks r | none => 0
      let queued := s.clusters.any fun (y : Nat × Cluster) => y.2.ready.any fun t => t.lnch == l && t.tidx == i
      let asked := i == 0 && s.cores.any fun (y : Nat × Core) => y.2.xqueue.contains (.urgent l)
      if x.skip.contains i || !(queued || asked || (decide (x.next ≤ i) && decide (i < total))) then s
      else
        let s := s.mapClusters fun c => { c with ready := c.ready.filter fun t => !(t.lnch == l && t.tidx == i) }
        let s := { s with cores := s.cores.map fun (y : Nat × Core) =>
          (y.1, { y.2 with xqueue := y.2.xqueue.filter fun q => q != XReq.urgent l }) }
        (s.removeTask d n ident i).unbindAll l

/-- CANC (R295) at levels task, launch, graph, phase and job. -/
def State.cancCmd (s : State) (d : Nat) (c : HCmd) (level : Nat) (ident tidx : Word) : State :=
  let l : BitVec 32 := ident.setWidth 32
  let v : Word := if level < 3 then l.setWidth 64 else ident.setWidth 32 |>.setWidth 64
  let stale := s.rejectCmd d c.job ident.toNat 3 (lnchNode l)
  let b := s.job c.job
  match level with
  | 0 | 1 =>
    match s.launchOf l c.job with
    | none => stale
    | some (e, n) =>
      if level = 1 then s.acrossDies d e fun s => s.cancelNode e n v
      else if (s.node e n).st.complete then s
      else if (match (s.node e n).lrec with | some r => decide (lrTasks r ≤ tidx.toNat) | none => false) then stale
      else s.acrossDies d e fun s => s.cancTask e n v tidx.toNat
  | 2 =>
    let e := lnchDie l
    if (s.dieAt e).graphs.any fun g => g.id == l && g.job == c.job then s.acrossDies d e fun s => s.cancelGraph e l v else stale
  | 3 =>
    if b.phase ≤ ident.toNat && !(b.phaseDone && b.phase == ident.toNat) then s.cancelPhases d c.job ident.toNat v else stale
  | _ => s.killJob d c.job 0x11 0x01 v

/-- The decrement that goes before a cancel at the head of an intake (R260): the node of the first TRIG. -/
def Die.trigFirst (x : Die) : Option Nat :=
  match x.intake with
  | c :: rest => (match c.kind with
    | .canc _ _ _ => rest.findSome? fun c => match c.kind with | .trig n _ => some n | _ => none
    | _ => none)
  | [] => none

/-- The Hearth takes the oldest command of its intake; decrements go before a cancel (R260; log entry 206). -/
def State.hearthStep (s : State) (d : Nat) : State :=
  match (s.dieAt d).trigFirst with
  | some n => (match evNodeDecrement d n s with | .next t => t | _ => s)
  | none =>
  match (s.dieAt d).intake with
  | [] => s
  | c :: rest =>
    let s' := s.updDie d fun x => { x with intake := rest }
    match c.kind with
    | .trig n _ => match evNodeDecrement d n s with | .next t => t | _ => s
    | .taskl graph a res => if (tfind s.jobs c.job).isNone then s' else s'.submitGraph d c.job c.serial a (some c.phase) res (!graph)
    | .setpri l lv => s'.tasksCmd d c l fun s e n => s.updNode e n fun y => { y with level := lv, aged := s.now, pri := if y.lrec.isNone then some lv else y.pri }
    | .susp l => s'.tasksCmd d c l State.suspend
    | .resume l => s'.tasksCmd d c l State.unsuspend
    | .canc lv a t => s'.cancCmd d c lv a t

/-! The events, at the place and with the arguments in focus. -/

def execGraphAdmit (s : State) : Out := evGraphAdmit (s.arg 0) s
def execNodeDecrement (s : State) : Out := evNodeDecrement (s.arg 0) (s.arg 1) s
def execPhaseOpen (s : State) : Out := evPhaseOpen (s.arg 0) s
def execLaunchReady (s : State) : Out := evLaunchReady (s.arg 0) (s.arg 1) s
def execSealedHeaderVerified (s : State) : Out := evSealedHeaderVerified (s.arg 0) (s.arg 1) s
def execLaunchExpand (s : State) : Out := evLaunchExpand (s.arg 0) s
def execLaunchAge (s : State) : Out := evLaunchAge (s.arg 0) (s.arg 1) s
def execTaskDispatch (s : State) : Out := evTaskDispatch (s.arg 0) s
def execTaskSteal (s : State) : Out := evTaskSteal (s.arg 0) s
def execUrgentDispatch (s : State) : Out := evUrgentDispatch (s.arg 0) (s.arg 1) s
def execCoreUnbind (s : State) : Out := evCoreUnbind s.cur.core s
def execNodeComplete (s : State) : Out := evNodeComplete (s.arg 0) (s.arg 1) s

end Sys2Proof.Machine
end

