-- ==== Sys2Proof/Machine/Scalar.lean ====
section
/-! DEFINITION. The S slot's scalar, predicate and control-register operations (R109 to R117). -/

namespace Sys2Proof.Machine

/-- A scalar operation on XA and XB (R109): latency 1, guard on bit 0. -/
def scalar2 (op : ROp) (s : State) (f : Word → Word → Word × Flags) : Out :=
  let g := s.ctx.guard op.pred op.pn
  s.sources partS [(.s, op.xa), (.s, op.xb)] none fun c =>
    let r := f (c.srcS s.cur op.xa) (c.srcS s.cur op.xb)
    s.putS partS 1 g op.nw op.dst.toNat r.1 r.2

/-- A scalar operation on XA alone. -/
def scalar1 (op : ROp) (s : State) (f : Word → Word) : Out :=
  let g := s.ctx.guard op.pred op.pn
  s.sources partS [(.s, op.xa)] none fun c =>
    s.putS partS 1 g op.nw op.dst.toNat (f (c.srcS s.cur op.xa)) 0

/-- A predicate operation (R116). -/
def pred2 (op : ROp) (s : State) (f : Word → Word → Word) : Out :=
  let g := s.ctx.guard op.pred op.pn
  s.sources partS [(.p, op.xa), (.p, op.xb)] none fun c =>
    if g then s.putP partS 1 allOnes op.nw op.dst.toNat (f (c.pGet (selNum op.xa)) (c.pGet (selNum op.xb))) else s

/-! R110. -/

/-- DIV and REM truncate toward zero, with R110's corner cases. -/
def divS (a b : Word) : Word × Flags := if b = 0 then (allOnes, fZD) else (BitVec.ofInt 64 (a.toInt.tdiv b.toInt), 0)
def divU (a b : Word) : Word × Flags := if b = 0 then (allOnes, fZD) else (BitVec.ofNat 64 (a.toNat / b.toNat), 0)
def remS (a b : Word) : Word × Flags := if b = 0 then (a, fZD) else (BitVec.ofInt 64 (a.toInt.tmod b.toInt), 0)

/-- b[5:0], the shift count. -/
def sh6 (b : Word) : Nat := b.toNat % 64

/-- Number of leading zero bits among the low n. -/
def clzN (x : Nat) : Nat → Nat
  | 0 => 0
  | n + 1 => if x / 2 ^ n % 2 = 1 then 0 else 1 + clzN x n

def minS (a b : Word) : Word := if b.slt a then b else a
def maxS (a b : Word) : Word := if a.slt b then b else a
def minUns (a b : Word) : Word := if b.ult a then b else a
def maxUns (a b : Word) : Word := if a.ult b then b else a
/-- (a × b)[127:64], signed and unsigned. -/
def mulHigh (a b : Word) : Word := BitVec.ofInt 64 (a.toInt * b.toInt / 2 ^ 64)
def mulHighU (a b : Word) : Word := BitVec.ofNat 64 (a.toNat * b.toNat / 2 ^ 64)
def sraW (a b : Word) : Word := a.sshiftRight (sh6 b)
def rotW (a b : Word) : Word := a.rotateLeft (sh6 b)

def execAdd (op : ROp) (s : State) : Out := scalar2 op s fun a b => (a + b, 0)
def execSub (op : ROp) (s : State) : Out := scalar2 op s fun a b => (a - b, 0)
def execMul (op : ROp) (s : State) : Out := scalar2 op s fun a b => (a * b, 0)
def execMulh (op : ROp) (s : State) : Out := scalar2 op s fun a b => (mulHigh a b, 0)
def execMulhu (op : ROp) (s : State) : Out := scalar2 op s fun a b => (mulHighU a b, 0)
def execDiv (op : ROp) (s : State) : Out := scalar2 op s divS
def execDivu (op : ROp) (s : State) : Out := scalar2 op s divU
def execRem (op : ROp) (s : State) : Out := scalar2 op s remS
def execAnd (op : ROp) (s : State) : Out := scalar2 op s fun a b => (a &&& b, 0)
def execOr (op : ROp) (s : State) : Out := scalar2 op s fun a b => (a ||| b, 0)
def execXor (op : ROp) (s : State) : Out := scalar2 op s fun a b => (a ^^^ b, 0)
def execAndn (op : ROp) (s : State) : Out := scalar2 op s fun a b => (a &&& ~~~ b, 0)
def execShl (op : ROp) (s : State) : Out := scalar2 op s fun a b => (a <<< sh6 b, 0)
def execShr (op : ROp) (s : State) : Out := scalar2 op s fun a b => (a >>> sh6 b, 0)
def execSra (op : ROp) (s : State) : Out := scalar2 op s fun a b => (sraW a b, 0)
def execRot (op : ROp) (s : State) : Out := scalar2 op s fun a b => (rotW a b, 0)
def execClz (op : ROp) (s : State) : Out := scalar1 op s fun a => BitVec.ofNat 64 (clzN a.toNat 64)
def execPopc (op : ROp) (s : State) : Out := scalar1 op s fun a => BitVec.ofNat 64 (popcnt a.toNat 64)
def execMin (op : ROp) (s : State) : Out := scalar2 op s fun a b => (minS a b, 0)
def execMax (op : ROp) (s : State) : Out := scalar2 op s fun a b => (maxS a b, 0)
def execMinu (op : ROp) (s : State) : Out := scalar2 op s fun a b => (minUns a b, 0)
def execMaxu (op : ROp) (s : State) : Out := scalar2 op s fun a b => (maxUns a b, 0)

/-- ADDI (R111). -/
def execAddi (op : RIOp) (s : State) : Out :=
  let g := s.ctx.guard op.pred op.pn
  s.sources partS [(.s, op.xa)] none fun c =>
    s.putS partS 1 g op.nw op.dst.toNat (c.srcS s.cur op.xa + op.imm.signExtend 64) 0

/-- LEA, based or bundle-relative by MOD[3] (R111). -/
def execLea (op : RIOp) (s : State) : Out :=
  let g := s.ctx.guard op.pred op.pn
  s.sources partS [(.s, op.xa)] none fun c =>
    let base := if op.md.getLsbD 3 then s.cur.addr else c.srcS s.cur op.xa
    s.putS partS 1 g op.nw op.dst.toNat (base + (op.imm.signExtend 64 <<< bitsOf op.md.toNat 2 0)) 0

/-- MOVI (R112). -/
def execMovi (op : I32Op) (s : State) : Out :=
  let g := s.ctx.guard op.pred op.pn
  s.sources partS [] none fun _ =>
    s.putS partS 1 g op.nw op.dst.toNat
      (if op.md.getLsbD 0 then op.imm.setWidth 64 else op.imm.signExtend 64) 0

/-- MOVHI (R112): keeps bits 31:0 as visible to the bundle. -/
def execMovhi (op : I32Op) (s : State) : Out :=
  let g := s.ctx.guard op.pred op.pn
  s.sources partS [(.s, .reg op.dst)] none fun c =>
    s.putS partS 1 g op.nw op.dst.toNat
      ((op.imm.setWidth 64 <<< 32) ||| (c.sGet op.dst.toNat &&& 0xFFFFFFFF#64)) 0

/-- BFX's field (R113). -/
def bfx (a b c : Word) (sx : Bool) : Word :=
  let p := sh6 b
  let w := Min.min c.toNat 64
  let f := (a.toNat / 2 ^ p) % 2 ^ w
  if sx && decide (w > 0) then BitVec.ofInt 64 (sextN w f) else BitVec.ofNat 64 f

def execBfx (op : ROp) (s : State) : Out :=
  let g := s.ctx.guard op.pred op.pn
  s.sources partS [(.s, op.xa), (.s, op.xb), (.s, op.xc)] none fun c =>
    s.putS partS 1 g op.nw op.dst.toNat
      (bfx (c.srcS s.cur op.xa) (c.srcS s.cur op.xb) (c.srcS s.cur op.xc) (op.md.getLsbD 0)) 0

/-- BFI (R113): bits p to min(p + w − 1, 63) of a replaced by the low bits of b. -/
def bfi (a b c : Word) (w : Nat) : Word :=
  let p := sh6 c
  let m : Word := BitVec.ofNat 64 ((2 ^ w - 1) * 2 ^ p)
  (a &&& ~~~ m) ||| ((b <<< p) &&& m)

def execBfi (op : ROp) (s : State) : Out :=
  let g := s.ctx.guard op.pred op.pn
  s.sources partS [(.s, op.xa), (.s, op.xb), (.s, op.xc)] none fun c =>
    s.putS partS 1 g op.nw op.dst.toNat
      (bfi (c.srcS s.cur op.xa) (c.srcS s.cur op.xb) (c.srcS s.cur op.xc) (bitsOf op.md.toNat 6 0)) 0

/-- SEL (R114). -/
def execSel (op : ROp) (s : State) : Out :=
  let g := s.ctx.guard op.pred op.pn
  s.sources partS [(.s, op.xa), (.s, op.xb), (.p, op.xc)] none fun c =>
    s.putS partS 1 g op.nw op.dst.toNat
      (if (c.pGet (selNum op.xc)).getLsbD 0 then c.srcS s.cur op.xa else c.srcS s.cur op.xb) 0

/-- The conditions of R115. -/
def condS (cc : Nat) (a b : Word) : Bool :=
  match cc with
  | 0 => a == b
  | 1 => a != b
  | 2 => a.slt b
  | 3 => a.sle b
  | 4 => a.ult b
  | 5 => a.ule b
  | _ => false

/-- CMP (R115): all 64 bits of the predicate take the outcome. -/
def execCmp (op : ROp) (s : State) : Out :=
  let g := s.ctx.guard op.pred op.pn
  s.sources partS [(.s, op.xa), (.s, op.xb)] none fun c =>
    if g then
      s.putP partS 1 allOnes op.nw op.dst.toNat
        (if condS (bitsOf op.md.toNat 2 0) (c.srcS s.cur op.xa) (c.srcS s.cur op.xb) then allOnes else 0)
    else s

def execPand (op : ROp) (s : State) : Out := pred2 op s fun a b => a &&& b
def execPor (op : ROp) (s : State) : Out := pred2 op s fun a b => a ||| b
def execPxor (op : ROp) (s : State) : Out := pred2 op s fun a b => a ^^^ b
def execPnot (op : ROp) (s : State) : Out :=
  let g := s.ctx.guard op.pred op.pn
  s.sources partS [(.p, op.xa)] none fun c =>
    if g then s.putP partS 1 allOnes op.nw op.dst.toNat (~~~ c.pGet (selNum op.xa)) else s

/-- CSRR (R85, R117): its result goes to the s file, so that it pushes a latch entry like every such operation of the S slot
(R93, R109; log entry 26). -/
def execCsrr (op : RIOp) (s : State) : Out :=
  let g := s.ctx.guard op.pred op.pn
  s.sources partS [] none fun c =>
    s.putS partS 1 g op.nw op.dst.toNat (csrGet s.cur.core s.cur.ctx c.csr op.imm.toNat) 0

/-- CSRW (R85, R117): the value rules raise ILL for a true guard only (R444). -/
def execCsrw (op : RIOp) (s : State) : Out :=
  let g := s.ctx.guard op.pred op.pn
  let x := s.ctx.srcS s.cur op.xa
  let own : Option Trap :=
    if g && !csrValueOk op.imm.toNat x then
      some ⟨partS, 0x01, 0x05, BitVec.ofNat 64 (s.cur.addr.toNat / 64 * 64 + partS)⟩
    else none
  s.sources partS [(.s, op.xa)] own fun _ =>
    if g then s.post 0 1 [.csr op.imm.toNat x] none 0 false else s

end Sys2Proof.Machine
end

