-- ==== Sys2Proof/Machine/Select.lean ====
section
/-! DEFINITION. Source selectors as ten bits (R56), and the compact form of CHK (R133). -/

namespace Sys2Proof.Machine

/-- The selector that ten bits encode; nothing for a reserved pattern (R56). -/
def selOfBits (x : BitVec 10) : Option Sel :=
  let v := x.toNat
  match v / 256 with
  | 0 => some (.reg (BitVec.ofNat 8 v))
  | 1 =>
    let p := v % 256
    match p / 64 with
    | 0 => if p % 16 = 0 then some (.latch 0 (BitVec.ofNat 2 (p / 16))) else none
    | 1 => if p % 16 = 0 then some (.latch 1 (BitVec.ofNat 2 (p / 16))) else none
    | 2 => if p % 16 = 0 then some (.latch 2 (BitVec.ofNat 2 (p / 16))) else none
    | _ => none
  | 2 => if v % 256 = 0 then some (.queue false) else if v % 256 = 1 then some (.queue true) else none
  | _ => some (.const (BitVec.ofNat 8 v))

/-- The first operand of CHK from YR (R133). -/
def chkFirst (y : BitVec 8) : Option Sel :=
  let v := y.toNat
  if v < 64 then some (.reg y)
  else if v < 128 then
    (if v % 4 ≠ 0 then none
    else match v % 64 / 16 with
      | 0 => some (.latch 0 (BitVec.ofNat 2 (v / 4)))
      | 1 => some (.latch 1 (BitVec.ofNat 2 (v / 4)))
      | 2 => some (.latch 2 (BitVec.ofNat 2 (v / 4)))
      | _ => none)
  else none

end Sys2Proof.Machine
end

