-- ==== Sys2Proof/Machine/Sync.lean ====
section
/-! DEFINITION. The Y slot (R128 to R138, R237, R238, R242). -/

namespace Sys2Proof.Machine

def Ctx.guardY (c : Ctx) (op : YOp) : Bool := c.guard op.pred op.pn

/-! Waits: the bundle closes its segment, and the wait is evaluated at step 5 (R105). -/

def State.setWait (s : State) (g : Bool) (w : Wait) : State :=
  if g then s.updCtx fun c => { c with waitOp := some w, waitHit := false } else s

/-- Handle states by code (R129). -/
def hstateOf (x : Nat) : HState := match x with | 0 => .free | 1 => .filling | 2 => .full | _ => .draining

/-- WAITH (R129): the handle's ownership is checked whatever the guard. -/
def execWaith (op : YOp) (s : State) : Out :=
  let c := s.ctx
  let h := op.yr.toNat
  let own : Option Trap := if c.ownsHandle h then none else some ⟨partY, 0x09, 0x02, BitVec.ofNat 64 h⟩
  s.sources partY [] own fun c => s.setWait (c.guardY op) (.handle h (hstateOf (bitsOf op.imm.toNat 1 0)) s.cur.scope)

/-- Counters that a context's job owns (R405); the supervisor has every counter. -/
def Ctx.ownsCounter (c : Ctx) (n : Nat) : Bool :=
  match c.task with
  | none => decide (n < 4096)
  | some t => decide (64 * t.job ≤ n) && decide (n < 64 * t.job + 64)

/-- WAITC (R130). -/
def execWaitc (op : YOp) (s : State) : Out :=
  let c := s.ctx
  let k := bitsOf op.imm.toNat 11 0
  let own : Option Trap := if c.ownsCounter k then none else some ⟨partY, 0x09, 0x03, BitVec.ofNat 64 k⟩
  s.sources partY [(.s, .reg op.yr)] own fun c =>
    s.setWait (c.guardY op) (.counter k (c.sGet op.yr.toNat).toNat s.cur.scope)

/-! Ordering (R131, R305, R306). -/

/-- Loads and atomics of the context that have not returned their data. -/
def Ctx.loadsOut (c : Ctx) : Bool :=
  c.q0.ents.any (fun e => e.stat == .pending) || c.q1.ents.any (fun e => e.stat == .pending || e.stat == .atomic)

/-- Core-path stores of a context that are not performed. -/
def Core.storesOut (k : Core) (ctx serial : Nat) : Bool := k.stq.any fun p => p.ctx == ctx && p.serial == serial

/-- Whether an access through an aperture writes. -/
def ApWait.writes (a : ApWait) : Bool := match a.kind with | .store | .atomic _ => true | _ => false

/-- Whether a place lies behind an aperture. -/
def onAperture (a : Nat) : Bool := match plocOf a with | .aperture _ => true | _ => false

/-- Whether a store of a context through an aperture is still to leave, or a write of it is still to be acknowledged: what its queue
orders after is performed later (R304, R417). -/
def State.apWaits (s : State) (core ctx : Nat) : Bool :=
  let k := s.coreAt core
  let serial := (s.ctxAt core ctx).tk.serial
  k.acks.any (fun a => a.ctx == ctx && a.serial == serial && a.writes) ||
    k.stq.any fun p => p.ctx == ctx && p.serial == serial && p.units.any fun u => onAperture u.pa

/-- The condition of ACQ: earlier loads and atomics have returned. -/
def State.acqHolds (s : State) (core ctx : Nat) : Bool := !(s.ctxAt core ctx).loadsOut

/-- The fabric scope (R48). -/
def scopeFabric : Nat := 4

/-- Whether every store of a context is performed at a scope: at fabric scope those through an aperture are acknowledged too (R417). -/
def State.storesDone (s : State) (core ctx scope : Nat) : Bool :=
  let k := s.coreAt core
  let serial := (s.ctxAt core ctx).tk.serial
  !(k.storesOut ctx serial) && (decide (scope < scopeFabric) || !(k.acks.any fun a => a.ctx == ctx && a.serial == serial && a.writes))

/-- The condition of REL and FENCE at a scope: every earlier core-path access is performed there. -/
def State.relHolds (s : State) (core ctx scope : Nat) : Bool := !(s.ctxAt core ctx).loadsOut && s.storesDone core ctx scope

/-- The release condition of a BARA at its close (R237, R239): it leaves out the atomic of its segment, which is not performed before step 3
of the close and issues no earlier than the BARA. -/
def State.baraHolds (s : State) (core ctx scope : Nat) : Bool :=
  let c := s.ctxAt core ctx
  !(c.q0.ents.any (fun e => e.stat == .pending) || c.q1.ents.any fun e => e.stat == .pending) && s.storesDone core ctx (Max.max 1 scope)

/-- Whether FENCEX names the core path. -/
def namesCore (imm : Nat) : Bool := bitsOf imm 2 0 == 0 || bitsOf imm 5 3 == 0

/-- The condition of FENCEX: engine paths make their writes visible when they complete, the core path when its stores are
performed. -/
def State.fencexHolds (s : State) (core ctx scope : Nat) (imm : Nat) : Bool := !(namesCore imm) || s.storesDone core ctx scope

/-- An acquire at a scope wider than core empties the L1 (R210). -/
def State.dropL1 (s : State) (core scope : Nat) : State :=
  if scope = 0 then s else s.updCore core fun k => { k with l1 := [] }

/-- Whether a core lies in the instance of a scope that contains another core (R298). -/
def inScope (scope core i : Nat) : Bool :=
  match scope with
  | 0 => core == i
  | 1 => clusterOf core == clusterOf i
  | 2 => dieOf core == dieOf i
  | _ => true

/-- The L1s of a scope instance empty: what FENCEX makes visible to the core path must reach its core-scope loads too (R306; DEDUCED, since
R210 names no FENCEX). -/
def State.dropL1s (s : State) (core scope : Nat) : State :=
  { s with cores := s.cores.map fun (y : Nat × Core) => (y.1, if inScope scope core y.1 then { y.2 with l1 := [] } else y.2) }

/-- An ordering operation whose condition holds: it ends the race-detection region (R131, R245).  One whose condition does not
hold keeps its bundle. -/
def orderOp (op : YOp) (s : State) (holds : Bool) (after : State → State) : Out :=
  .next (if !s.ctx.guardY op || !holds then s else after (s.endRegion s.cur.core s.cur.ctx))

def execAcq (op : YOp) (s : State) : Out := orderOp op s (s.acqHolds s.cur.core s.cur.ctx) fun t => t.dropL1 s.cur.core s.cur.scope
def execRel (op : YOp) (s : State) : Out := orderOp op s (s.relHolds s.cur.core s.cur.ctx s.cur.scope) id
def execFence (op : YOp) (s : State) : Out := orderOp op s (s.relHolds s.cur.core s.cur.ctx s.cur.scope) id
def execFencex (op : YOp) (s : State) : Out :=
  orderOp op s (s.fencexHolds s.cur.core s.cur.ctx s.cur.scope op.imm.toNat) fun t =>
    if namesCore op.imm.toNat then t.dropL1s s.cur.core s.cur.scope else t

/-! CHK (R133). -/

/-- The entry that a source supplies, with the width of its result. -/
def Ctx.srcVal (c : Ctx) (cur : Cur) : Sel → LatchVal
  | .reg n => .scalar (c.sGet n.toNat)
  | .latch slot depth => (c.latchAt slot.val depth.toNat).getD (.scalar 0)
  | .queue q => match cur.head q with
    | some e => if e.vec then .vector e.data else .scalar (e.data.setWidth 64)
    | none => .scalar 0
  | .const k => .scalar (constS k)

/-- The comparison of CHK: whole patterns for EQ and NE, 64-bit scalars otherwise. -/
def chkHolds (cc : Nat) (a b : LatchVal) : Bool :=
  if cc < 2 then
    let same := match a, b with
      | .scalar x, .scalar y => x == y
      | _, _ => a.asVector == b.asVector
    if cc = 0 then same else !same
  else condS cc a.asScalar b.asScalar

def execChk (op : YOp) (s : State) : Out :=
  let c := s.ctx
  let g := c.guardY op
  let ya := (chkFirst op.yr).getD (.reg 0)
  let xb := (selOfBits (BitVec.ofNat 10 (bitsOf op.imm.toNat 12 3))).getD (.reg 0)
  let holds := chkHolds (bitsOf op.imm.toNat 2 0) (c.srcVal s.cur ya) (c.srcVal s.cur xb)
  s.sources partY [(.s, ya), (.s, xb)] (if g && !holds then some ⟨partY, 0x0D, 0, 0⟩ else none) fun _ => s

/-- YLD (R134): acts at the context's next segment close. -/
def execYld (op : YOp) (s : State) : Out := .next (if s.ctx.guardY op then s.updCtx fun c => { c with yld := true } else s)

/-- BRK (R135): the Y slot alone is marked done. -/
def execBrk (op : YOp) (s : State) : Out :=
  .next (if s.ctx.guardY op then s.takeTrap ⟨partY, 0x03, 0x01, op.imm.setWidth 64⟩ 0x080 else s)

/-- A command that the Y slot holds with the C slot's (R136, R237). -/
def State.holdY (s : State) (kind : CKind) (op : YOp) (a : Word) : State :=
  s.holdC { kind := kind, a := a, b := op.yr.setWidth 64, c := op.imm.setWidth 64, md := op.imm.toNat, scope := s.cur.scope, addr := s.cur.addr }

/-- TRIG (R136). -/
def execTrig (op : YOp) (s : State) : Out :=
  let g := s.ctx.guardY op
  s.sources partY [(.s, .reg op.yr)] none fun c => if g then s.holdY .trig op (c.sGet op.yr.toNat) else s

/-- FPCLR (R137). -/
def execFpclr (op : YOp) (s : State) : Out :=
  .next (if s.ctx.guardY op then s.post 6 1 [.fpclr (op.imm.setWidth 7)] none 0 false else s)

/-- FPSNAP (R138). -/
def execFpsnap (op : YOp) (s : State) : Out :=
  let c := s.ctx
  let y := op.yr.toNat
  .next (
    if c.guardY op then
      s.post 6 1 ([.s y (c.csr.fpstat.setWidth 64), .s (y + 1) c.csr.fprec] ++ if op.imm.getLsbD 0 then [.fpclr 0x7F] else []) none 0 false
    else s)

/-! Barriers and rendezvous (R237 to R242). -/

/-- A barrier name that the launch has not declared makes the bundle ILL (R237). -/
def State.barTrap (s : State) (c : Ctx) (k : Nat) : Option Trap :=
  if k < c.tk.bars.length then none else some (illTrap s partY 0x06)

/-- BARA (R237): held like TRIG. -/
def execBara (op : YOp) (s : State) : Out :=
  let g := s.ctx.guardY op
  s.sources partY [] (s.barTrap s.ctx op.yr.toNat) fun _ => if g then s.holdY .bara op 0 else s

/-- BARW (R238). -/
def execBarw (op : YOp) (s : State) : Out :=
  let g := s.ctx.guardY op
  s.sources partY [] (s.barTrap s.ctx op.yr.toNat) fun _ => s.setWait g (.barrier op.yr.toNat s.cur.scope)

/-- RDV (R242). -/
def execRdv (op : YOp) (s : State) : Out := .next (s.setWait (s.ctx.guardY op) (.rdv s.cur.scope))

end Sys2Proof.Machine
end

