-- ==== Sys2Proof/Machine/ClusterEvents.lean ====
section
/-! DEFINITION. Barriers, rendezvous groups, the waits of a context, and drowsy banks (R97, R129, R130, R236 to R249, R308, R309). -/

namespace Sys2Proof.Machine

/-! Barriers (R237). -/

/-- The context that a context slot of a cluster names: core and context. -/
def slotCtx (cl n : Nat) : Nat × Nat := (8 * cl + n / 5, n % 5)

/-- One arrival at a physical barrier from a context slot with its expected count: the barrier, and the slots that it completes. -/
def Barrier.arrive (b : Barrier) (slot e : Nat) : Barrier × List Nat :=
  let exp := if b.cnt = 0 then e else b.exp
  let mask := if b.mask.contains slot then b.mask else b.mask ++ [slot]
  if b.cnt + 1 = exp then (⟨exp, 0, []⟩, mask) else (⟨exp, b.cnt + 1, mask⟩, [])

def setBit16 (x : BitVec 16) (k : Nat) (on : Bool) : BitVec 16 := if on then x ||| (1#16 <<< k) else x &&& ~~~ (1#16 <<< k)

/-- An accepted arrival of a context at its barrier name k (R237); it ends the region (R245). -/
def State.acceptBara (s : State) (core ctx k e : Nat) : State :=
  let cl := clusterOf core
  match (s.ctxAt core ctx).tk.bars[k]? with
  | none => s
  | some p =>
    let (b, done) := (tget Barrier.zero (s.clusterAt cl).bars p).arrive (ctxSlot core ctx) e
    let s := s.updCluster cl fun c => { c with bars := tset c.bars p b }
    let s := s.updCtxAt core ctx fun c => { c with arr := setBit16 c.arr k true, comp := setBit16 c.comp k false }
    let s := done.foldl (fun s n => s.updCtxAt (slotCtx cl n).1 (slotCtx cl n).2 fun c => { c with comp := setBit16 c.comp k true }) s
    s.endRegion core ctx

/-- The barrier unit takes an arrival once the release condition holds for its context; until then nothing happens. -/
def evBaraAccept (core ctx k e scope : Nat) (s : State) : Out :=
  .next (if s.baraHolds core ctx scope then s.acceptBara core ctx k e else s)

/-! Rendezvous (R241, R242). -/

/-- The other members of a context's rendezvous group on its cluster, by context slot: a trap handler, which has its victim's task, is none. -/
def State.members (s : State) (core ctx g : Nat) : List Nat :=
  (List.range 40).filter fun n =>
    let c := s.ctxAt (slotCtx (clusterOf core) n).1 (slotCtx (clusterOf core) n).2
    n != ctxSlot core ctx && c.stat != .free && c.tk.rdv == some g && (n % 5 != 4 || c.tk.urgent)

/-- The group of which a context is a member. -/
def Ctx.member (c : Ctx) (ctx : Nat) : Option Nat := if ctx = 4 && !c.tk.urgent then none else c.tk.rdv

/-- An error rewind of a member sets the hold of every other member on it. -/
def State.rdvHold (s : State) (core ctx : Nat) : State :=
  match (s.ctxAt core ctx).member ctx with
  | none => s
  | some g =>
    let j := ctxSlot core ctx
    let new := (s.members core ctx g).map fun m => (g, m, j)
    s.updCluster (clusterOf core) fun k => { k with holds := k.holds ++ new.filter fun h => !(k.holds.contains h) }

/-- The evaluation of an RDV clears the holds that others keep on the member. -/
def State.rdvEval (s : State) (core ctx : Nat) : State :=
  match (s.ctxAt core ctx).member ctx with
  | none => s
  | some g => s.updCluster (clusterOf core) fun k => { k with holds := k.holds.filter fun h => !(h.1 == g && h.2.2 == ctxSlot core ctx) }

/-- Whether a member has no hold left. -/
def State.rdvFree (s : State) (core ctx g : Nat) : Bool :=
  !((s.clusterAt (clusterOf core)).holds.any fun h => h.1 == g && h.2.1 == ctxSlot core ctx)

/-! Waits. -/

/-- Whether what a wait names has come about (R129, R130, R238, R242); once a handle or a counter has met its wait, that stands. -/
def State.waitMet (s : State) (core ctx : Nat) (w : Wait) : Bool :=
  let c := s.ctxAt core ctx
  match w with
  | .handle h st _ => c.waitHit || ((s.coreAt core).handle h).st == st
  | .counter k t _ => c.waitHit || decide (t ≤ (tget 0 s.fab.dctr k).toNat)
  | .barrier k _ => !c.arr.getLsbD k || c.comp.getLsbD k
  | .rdv _ => match c.member ctx with
    | none => true
    | some g => s.rdvFree core ctx g

/-- Whether a wait is satisfied.  One that acts as an acquire also waits for the loads before it, an RDV for the whole core path, in a
group or not (R239, R308, R309). -/
def State.waitHolds (s : State) (core ctx : Nat) (w : Wait) : Bool :=
  s.waitMet core ctx w &&
  match w with
  | .handle _ st _ => st != HState.full || s.acqHolds core ctx
  | .counter _ _ _ | .barrier _ _ => s.acqHolds core ctx
  | .rdv scope => s.relHolds core ctx (Max.max 1 scope)

/-- What a satisfied wait does: it ends the region (R245), an acquire at a scope wider than core empties the L1 (R210), and a
barrier's bits clear (R238). -/
def State.waitDone (s : State) (core ctx : Nat) (w : Wait) : State :=
  let s := s.endRegion core ctx
  let s := match w with
    | .handle _ st scope => if st = HState.full then s.dropL1 core scope else s
    | .counter _ _ scope => s.dropL1 core scope
    | .barrier _ scope => s.dropL1 core (Max.max 1 scope)
    | .rdv scope => s.dropL1 core (Max.max 1 scope)
  s.updCtxAt core ctx fun c =>
    let c := match w with
      | .barrier k _ => { c with arr := setBit16 c.arr k false, comp := setBit16 c.comp k false }
      | _ => c
    { c with waitOp := none, waitHit := false }

/-! Drowsy banks (R247). -/

/-- Whether the copy of a frozen context's registers into partition X is still to come (R215, R247). -/
def Core.copyDue (k : Core) (ctx : Nat) : Bool := k.xqueue.contains (.trap ctx)

/-- After 256 cycles FROZEN, and after the copy of R215, every bank of a context is DROWSY. -/
def evBankDrowsy (core ctx : Nat) (s : State) : Out :=
  let c := s.ctxAt core ctx
  .next (if c.stat = .frozen && decide (256 ≤ c.frozenN) && c.drowsy != 0xFF#8 && !((s.coreAt core).copyDue ctx) then
      s.updCtxAt core ctx fun c => { c with drowsy := 0xFF }
    else s)

/-! The events, at the place and with the arguments in focus. -/

def execBaraAccept (s : State) : Out := evBaraAccept s.cur.core s.cur.ctx (s.arg 0) (s.arg 1) (s.arg 2) s
def execBankDrowsy (s : State) : Out := evBankDrowsy s.cur.core s.cur.ctx s

end Sys2Proof.Machine
end

