-- ==== Sys2Proof/Machine/FabricCmds.lean ====
section
/-! DEFINITION. The C slot's fabric and collective commands at issue (R409 to R415, R428): their checks, and the command kept for
the close. -/

namespace Sys2Proof.Machine

/-- An opcode of a feature that is not accepted is undefined (R363, R72). -/
def State.featTrap (s : State) (part bit : Nat) : Option Trap :=
  if s.feat.getLsbD bit then none else some (illTrap s part 0x01)

/-- The first of two traps that stands. -/
def firstTrap (a b : Option Trap) : Option Trap := match a with | some t => some t | none => b

/-- Feature and permission class of a fabric command (R409). -/
def State.fabTrap (s : State) (feat perm : Nat) : Option Trap := firstTrap (s.featTrap partC feat) (s.permTrap partC perm)

/-- The handle that CC names lies in the launch's range (R409). -/
def Ctx.handleTrap (c : Ctx) (h : Nat) : Option Trap :=
  if c.ownsHandle h then none else some ⟨partC, 0x09, 0x02, BitVec.ofNat 64 h⟩

/-- A fabric address names a node of the domain (R385, R409). -/
def State.fabAddrTrap (s : State) (a : Word) : Option Trap :=
  if bitsOf a.toNat 63 63 == 1 || !inDomain s.nodecfg s.domain (bitsOf a.toNat 62 48) then some ⟨partC, 0x08, 0x03, a⟩ else none

def alignTrap (a : Word) (n : Nat) : Option Trap := if a.toNat % n = 0 then none else some ⟨partC, 0x07, 0x02, a⟩

/-- Bounds of a local range; `g` is translated as the engine moves it (R413). -/
def State.localTrap (s : State) (sp : Space) (a : Word) (n : Nat) : Option Trap :=
  if sp = .g || s.inBounds s.cur.core s.ctx sp a.toNat n then none else some ⟨partC, 0x07, 0x01, a⟩

/-- Keeps a command for step 3 of the close (R68, R409). -/
def State.keepIrrev (s : State) (k : CCmd) : State := s.updCtx fun c => { c with irrev := c.irrev ++ [.c k] }

/-- A command of a form: its encoding checks stand whatever the guard, its value checks only with it (R444).  CC names a handle,
but for FAA, where it is a register (R414). -/
def fabOp (kind : CKind) (op : COp) (s : State) (srcs : List (SKind × Sel)) (enc val : Option Trap) (irrev : Bool) : Out :=
  let c := s.ctx
  let g := c.guard op.pred op.pn
  let k0 := copCmd op kind c s.cur.scope s.cur.addr
  let k := if kind = .faa then k0 else { k0 with c := BitVec.ofNat 64 op.cc.toNat }
  let own := match enc with
    | some t => if t.cause = 0x01 then some t else lowerTrap (some t) (if g then val else none)
    | none => if g then val else none
  s.sources partC srcs own fun _ => if !g then s else if irrev then s.keepIrrev k else s.holdC k

/-- PKB's reads meet the watchpoints of its context at issue (R343, R410): the image, and the payload bytes that the image gives as it
then stands (DEDUCED). -/
def State.pkbWatch (s : State) (sp : Space) (a b : Word) : Option Trap :=
  let core := s.cur.core
  let n := if s.inBounds core s.ctx sp a.toNat 112 then ofBytes (s.placeBytes 0 ((s.window core s.ctx sp).1 + a.toNat + 8) 2) % 1024 else 0
  if s.ctx.skips then none
  else (s.watch core s.cur.ctx sp true false ((0, a, 112) :: if n = 0 then [] else [(0, b, n)])).map fun x =>
    ⟨partC, 0x03, 0x03, BitVec.ofNat 64 x⟩

/-- PKB (R410). -/
def execPkb (op : COp) (s : State) : Out :=
  let c := s.ctx
  let a := c.sGet op.ca.toNat
  let b := c.sGet op.cb.toNat
  fabOp .pkb op s [(.s, .reg op.ca), (.s, .reg op.cb)] (s.fabTrap 4 2)
    (lowerTrap (s.pkbWatch (spaceOf (bitsOf op.md.toNat 4 3)) a b)
      (lowerTrap (lowerTrap (alignTrap a 16) (alignTrap b 16)) (s.localTrap (spaceOf (bitsOf op.md.toNat 4 3)) a 112))) false

/-- PKSND (R411). -/
def execPksnd (op : COp) (s : State) : Out :=
  fabOp .pksnd op s [(.s, .reg op.ca), (.s, .reg op.cb)] (s.fabTrap 4 2) none true

/-- PKPRK (R412): the record of `.copy` and `.take`. -/
def pkprkOp (kind : CKind) (record : Bool) (op : COp) (s : State) : Out :=
  let c := s.ctx
  let a := c.sGet op.ca.toNat
  fabOp kind op s [(.s, .reg op.ca), (.s, .reg op.cb)]
    (lowerTrap (s.fabTrap 4 2) (if (s.fabTrap 4 2).isSome then none else c.handleTrap op.cc.toNat))
    (if record then lowerTrap (alignTrap a 64) (s.localTrap (spaceOf (bitsOf op.md.toNat 3 2)) a 640) else none) true

def execPkprkCopy (op : COp) (s : State) : Out := pkprkOp .pkprkCopy true op s
def execPkprkTake (op : COp) (s : State) : Out := pkprkOp .pkprkTake true op s
def execPkprkRetry (op : COp) (s : State) : Out := pkprkOp .pkprkRetry false op s
def execPkprkDrop (op : COp) (s : State) : Out := pkprkOp .pkprkDrop false op s

/-- RLD and RST (R413): the fabric address, then the local one. -/
def remoteOp (kind : CKind) (op : COp) (s : State) (fab loc : Word) : Out :=
  let c := s.ctx
  let n := 16 * (bitsOf op.md.toNat 7 0 + 1)
  fabOp kind op s [(.s, .reg op.ca), (.s, .reg op.cb)]
    (firstTrap (s.featTrap partC 3) (lowerTrap (s.permTrap partC 0) (c.handleTrap op.cc.toNat)))
    (lowerTrap (lowerTrap (alignTrap fab 16) (alignTrap loc 16))
      (lowerTrap (s.localTrap (spaceOf (bitsOf op.md.toNat 9 8)) loc n) (s.fabAddrTrap fab))) true

def execRld (op : COp) (s : State) : Out := remoteOp .rld op s (s.ctx.sGet op.ca.toNat) (s.ctx.sGet op.cb.toNat)
def execRst (op : COp) (s : State) : Out := remoteOp .rst op s (s.ctx.sGet op.cb.toNat) (s.ctx.sGet op.ca.toNat)

/-- FAA's CC register: result address and handle (R414). -/
def faaDst (x : Word) : Nat := bitsOf x.toNat 18 0
def faaHnd (x : Word) : Nat := bitsOf x.toNat 38 32
def faaBad (x : Word) : Bool := bitsOf x.toNat 31 19 != 0 || bitsOf x.toNat 63 39 != 0

/-- FAA (R414). -/
def execFaa (op : COp) (s : State) : Out :=
  let c := s.ctx
  let a := c.sGet op.ca.toNat
  let x := c.sGet op.cc.toNat
  let r : Word := BitVec.ofNat 64 (faaDst x)
  fabOp .faa op s [(.s, .reg op.ca), (.s, .reg op.cb), (.s, .reg op.cc)]
    (firstTrap (s.featTrap partC 3) (s.permTrap partC 1))
    (if faaBad x then some (illTrap s partC 0x05)
     else lowerTrap (lowerTrap (alignTrap a (if op.md.getLsbD 0 then 4 else 8)) (alignTrap r 8))
      (lowerTrap (s.localTrap .sp r 8) (lowerTrap (s.fabAddrTrap a) (c.handleTrap (faaHnd x))))) true

/-- FFN (R415). -/
def execFfn (op : COp) (s : State) : Out :=
  let c := s.ctx
  let a := c.sGet op.ca.toNat
  fabOp .ffn op s [(.s, .reg op.ca), (.s, .reg op.cb)]
    (firstTrap (s.featTrap partC 3) (lowerTrap (s.permTrap partC 1) (c.handleTrap op.cc.toNat)))
    (lowerTrap (alignTrap a 8) (s.fabAddrTrap a)) true

/-! Collectives (R428). -/

/-- COLL and RESH: the record address over n bytes. -/
def collOp (kind : CKind) (n : Nat) (op : COp) (s : State) : Out :=
  let a := s.ctx.sGet op.ca.toNat
  let sp := spaceOf (bitsOf op.md.toNat 1 0)
  let val := match alignTrap a 64 with
    | some t => some t
    | none =>
      if sp = .g then
        match (s.xlate s.cur.core (s.xctxOf s.ctx) .read a).2 with
        | .fault cs sub => some ⟨partC, cs, sub, a⟩
        | .ok _ =>
          if n ≤ 64 then none
          else match (s.xlate s.cur.core (s.xctxOf s.ctx) .read (a + 64#64)).2 with
            | .fault cs sub => some ⟨partC, cs, sub, a + 64#64⟩
            | .ok _ => none
      else s.localTrap sp a n
  fabOp kind op s [(.s, .reg op.ca)] (s.fabTrap 5 3) val false

def execColl (op : COp) (s : State) : Out := collOp .coll 64 op s
def execResh (op : COp) (s : State) : Out := collOp .resh 128 op s

/-- CBKT: the bucket lies in 0 to 15. -/
def execCbkt (op : COp) (s : State) : Out :=
  fabOp .cbkt op s [(.s, .reg op.ca), (.s, .reg op.cb)] (s.fabTrap 5 3)
    (if decide (15 < (s.ctx.sGet op.cb.toNat).toNat) then some (illTrap s partC 0x05) else none) false

/-- CWGT's value (R431). -/
def cwgtOk (x : Word) : Bool :=
  x.toNat < 2 ^ 12 && bitsOf x.toNat 3 0 != 0 && bitsOf x.toNat 7 4 != 0 && bitsOf x.toNat 11 8 != 0

def execCwgt (op : COp) (s : State) : Out :=
  fabOp .cwgt op s [(.s, .reg op.ca)] (s.fabTrap 5 4)
    (if cwgtOk (s.ctx.sGet op.ca.toNat) then none else some (illTrap s partC 0x05)) false

end Sys2Proof.Machine
end

