-- ==== Sys2Proof/Machine/Close.lean ====
section
/-! DEFINITION. The close of a segment (R105, R445): the drain, the held commands, the irrevocable operation, queue space and the
wait; and the performance of core-path stores (R299 to R304). -/

namespace Sys2Proof.Machine

/-! Core-path stores. -/

/-- The own core's copy of a line takes the bytes that a store of the core writes (R210). -/
def Core.l1Put (k : Core) (u : SUnit) : Core :=
  match tfind k.l1 (u.pa / 64) with
  | none => k
  | some l =>
    let off := u.pa % 64
    { k with l1 := tset k.l1 (u.pa / 64) (l.zipIdx.map fun (y : Byte × Nat) =>
        if off ≤ y.2 ∧ y.2 < off + u.bytes.length then
          let b := u.bytes.getD (y.2 - off) (0, 0)
          (y.1 &&& ~~~ b.2) ||| (b.1 &&& b.2)
        else y.1) }

/-- An access through an aperture is to be answered by its target (R417). -/
def State.owesAck (s : State) (core : Nat) (a : ApWait) : State :=
  if onAperture a.place then s.updCore core fun k => { k with acks := k.acks ++ [a] } else s

/-- Ends the q1 entry of a performed atomic. -/
def Ctx.fillAtomic (c : Ctx) (d : Vec) (st : QStat) : Ctx :=
  match c.q1.ents.findIdx? fun e => e.stat == .atomic with
  | none => c
  | some i => { c with q1 := { c.q1 with ents := c.q1.ents.modify i fun e => { e with data := d, stat := st } } }

/-- The poisoned q1 entry of an atomic (R220). -/
def atomPoison : QStat := .faulted ⟨partT, 0x0C, 0x02, poisonVal 4 1⟩

/-- What the target's answer does (R386, R417): a load's data are here, or its poison; an atomic's old value, which is free, is here with its flags, or
its poison; a write refused for its key is a machine check of its job (R221, R351).  The codes: 1 done, 2 refused, 3 poisoned. -/
def State.endAck (s : State) (core : Nat) (a : ApWait) (code : Nat) : State :=
  let s := s.updCore core fun k => { k with acks := k.acks.erase a }
  let mine := (s.ctxAt core a.ctx).task.isSome && (s.ctxAt core a.ctx).tk.serial == a.serial
  let check (s : State) : State :=
    if code = 2 then s.engineCheck (dieOf core) a.job a.serial (0x0E, 0x01, BitVec.ofNat 64 (a.place % 2 ^ 38)) else s
  match a.kind with
  | .store => check s
  | .load ch => if mine then s.updCore core fun k => { k with acks := k.acks ++ [{ a with kind := .back ch (code != 1) }] } else s
  | .back _ _ => s
  | .atomic m =>
    if !mine then check s
    else if code = 2 then check (s.updCtxAt core a.ctx fun c => c.fillAtomic 0 .ready)
    else if code = 3 then s.updCtxAt core a.ctx fun c => c.fillAtomic 0 atomPoison
    else
      let old := ofBytes (s.placeBytes m.key m.place m.n)
      let fl := (amoNew m.kind m.n m.uns old m.opnd.toNat m.cmp.toNat).2
      s.draw.updCtxAt core a.ctx fun c => (c.fillAtomic (BitVec.ofNat 2048 old) .ready).engineFlags 5 fl m.bundle

/-- A target answers an access of a context, of those that are out the one at an index. -/
def State.takeAck (s : State) (core ctx i code : Nat) : State :=
  let mine := (s.coreAt core).acks.filter fun a => a.ctx == ctx && (match a.kind with | .back _ _ => false | _ => true)
  match mine[i % mine.length]? with
  | some a => s.endAck core a code
  | none => s

/-- An access through an aperture that was discarded is answered no more (R404): it ends as if it had been. -/
def State.dropAck (s : State) (node addr : Nat) : State :=
  let is (a : ApWait) : Bool := apNode a.place == node && a.place % 2 ^ 38 == addr
  match s.cores.find? fun y => y.2.acks.any is with
  | some (i, k) => (match k.acks.find? is with | some a => s.endAck i a 1 | none => s)
  | none => s

/-- One unit of a store is performed at its home (R301); one that goes under an EMPTY key is a machine check (R221, R351). -/
def State.performUnit (s : State) (core : Nat) (p : PStore) (u : SUnit) : State :=
  if s.keyDead u.key u.pa then s.engineCheck (dieOf core) p.job p.serial (0x0E, 0x01, BitVec.ofNat 64 u.pa)
  else ((s.putUnit u).updCore core fun k => k.l1Put u).owesAck core ⟨p.ctx, p.serial, p.job, u.pa, .store⟩

/-- A store that is performed makes the flags of its conversion visible (R187), while its task still holds the context. -/
def State.storeFlags (s : State) (core : Nat) (p : PStore) : State :=
  let c := s.ctxAt core p.ctx
  if p.fl = 0 || c.task.isNone || c.tk.serial != p.serial then s
  else s.updCtxAt core p.ctx fun c => { c with late := c.late ++ [⟨(s.coreAt core).cycle, p.fl, p.addr, p.opn⟩] }

/-- All the units of a store are performed. -/
def State.performAll (s : State) (core : Nat) (p : PStore) : State :=
  (p.units.foldl (fun s u => s.performUnit core p u) s).storeFlags core p

/-- The first store of a context in its T queue performs the unit at an index, once what its task has written through an aperture before is
acknowledged (R304, R417); a store with no unit left leaves the queue. -/
def State.performStore (s : State) (core ctx i : Nat) : State :=
  match (s.coreAt core).stq.find? fun p => p.ctx == ctx with
  | none => s
  | some p =>
    if (s.coreAt core).acks.any fun a => a.ctx == ctx && a.serial == p.serial && a.writes then s
    else
    let rest (q : List PStore) : List PStore :=
      let us := p.units.eraseIdx (i % p.units.length)
      let at1 := q.takeWhile fun x => x != p
      at1 ++ (if us.isEmpty then [] else [{ p with units := us }]) ++ q.drop (at1.length + 1)
    let s := s.updCore core fun k => { k with stq := rest k.stq }
    let s := match p.units[i % p.units.length]? with
      | none => s
      | some u => s.performUnit core p u
    if p.units.length ≤ 1 then s.storeFlags core p else s

/-- Every store of a context's T queue is performed, in queue order (R304). -/
def State.flushStores (s : State) (core ctx : Nat) : State :=
  let mine := (s.coreAt core).stq.filter fun p => p.ctx == ctx
  let s := s.updCore core fun k => { k with stq := k.stq.filter fun p => p.ctx != ctx }
  mine.foldl (fun s p => s.performAll core p) s

/-- Whether a place lies in cluster-shared memory. -/
def inCl (core a : Nat) : Bool := decide (clBase (clusterOf core) ≤ a) && decide (a < clBase (clusterOf core) + 0x40_0000)

/-- The stores of a context's T queue up to its last one to cluster-shared memory are performed, so that a held command that follows them
sees them (R190, R304, R307). -/
def State.flushCl (s : State) (core ctx : Nat) : State :=
  let mine := (s.coreAt core).stq.filter fun p => p.ctx == ctx
  let tail := (mine.reverse.takeWhile fun p => !(p.units.any fun u => inCl core u.pa)).reverse
  let s := s.updCore core fun k => { k with stq := k.stq.filter (fun p => p.ctx != ctx) ++ tail }
  (mine.take (mine.length - tail.length)).foldl (fun s p => s.performAll core p) s

/-! The receivers' room (R445). -/

def CKind.toCopy : CKind → Bool
  | .copy | .copym | .gath | .scad | .hrel => true
  | _ => false
def CKind.toHearth : CKind → Bool
  | .trig | .taskl | .tasksSetpri | .tasksSusp | .tasksResume | .canc => true
  | _ => false
def CKind.toPacket : CKind → Bool
  | .pkb | .pksnd | .pkprkCopy | .pkprkTake | .pkprkRetry | .pkprkDrop => true
  | _ => false
def CKind.toRemote : CKind → Bool
  | .rld | .rst | .faa | .ffn => true
  | _ => false
def CKind.toColl : CKind → Bool
  | .coll | .resh | .cwgt => true
  | _ => false
/-- Commands that name a handle, so that a release waits for them (R282). -/
def CKind.usesHandle : CKind → Bool
  | .copy | .copym | .gath | .scad | .pkprkCopy | .pkprkTake | .pkprkRetry | .pkprkDrop | .rld | .rst | .faa | .ffn => true
  | _ => false

/-- Whether a die's collective of a number is active, so that a CBKT for it is not one that is kept (R429). -/
def State.collHere (s : State) (die job cnum : Nat) : Bool :=
  s.fab.colls.any fun c => c.job == job && c.cnum == cnum && c.dies.any fun d => d.die == die

/-- The receivers that count their room. -/
inductive Recv where
  | matrix | copy | hearth | packet | remote | coll | kept
  deriving DecidableEq, Repr

def Recv.all : List Recv := [.matrix, .copy, .hearth, .packet, .remote, .coll, .kept]

/-- The whole room of a receiver. -/
def Recv.cap : Recv → Nat
  | .matrix => 16 | .copy => 32 | .hearth => 16 | .packet => 8 | .remote => 1024 | .coll => 16 | .kept => 64

/-- The receiver of a command, if it counts its room. -/
def Held.recv : Held → Option Recv
  | .m _ => some .matrix
  | .a _ => none
  | .c k =>
    if k.kind.toCopy then some .copy
    else if k.kind.toHearth then some .hearth
    else if k.kind.toPacket then some .packet
    else if k.kind.toRemote then some .remote
    else if k.kind.toColl then some .coll
    else if k.kind = .cbkt then some .kept
    else none

/-- How many of a context's commands go to a receiver. -/
def Recv.want (r : Recv) (l : List Held) : Nat := (l.filter fun h => h.recv == some r).length

/-- What a receiver holds for a context; the MMA of a COPYM that waits takes its entry first (R284). -/
def State.roomUsed (s : State) (core ctx : Nat) (r : Recv) : Nat :=
  let die := dieOf core
  match r with
  | .matrix => (s.coreAt core).mq.length + (s.coreAt core).mmaWait.length
  | .copy => ((s.clusterAt (clusterOf core)).intake.filter fun i => i.core == core && i.node.isNone).length
  | .hearth => ((s.dieAt die).intake.filter fun i => i.core == core).length
  | .packet => (s.fab.pktq.filter fun i => i.core == core && i.ctx == ctx).length
  | .remote => s.fab.remq.length + s.fab.remote.length
  | .coll => (s.fab.collq.filter fun i => dieOf i.core == die).length
  | .kept => (s.fab.cbkts.filter fun b => b.1 == die && !(s.collHere die b.2.1 b.2.2.1)).length

/-- Commands that a context still holds, in the order in which they leave: the held ones, then the irrevocable one. -/
def Ctx.toSend (c : Ctx) : List Held := c.held ++ c.irrev

/-- Whether another close feeds a receiver that it shares with a core, so that the room which frees there goes to that close. -/
def State.fedElsewhere (s : State) (core ctx : Nat) (r : Recv) : Bool :=
  s.cores.any fun (y : Nat × Core) => y.2.ctxs.any fun (z : Nat × Ctx) =>
    z.2.feeding && (y.1, z.1) != (core, ctx) && r.want z.2.toSend != 0 &&
    (match r with
      | .remote => true
      | .coll | .kept => dieOf y.1 == dieOf core
      | _ => false)

/-- Whether a receiver has room for what a context holds: all of it, or an empty intake where it exceeds the whole room. -/
def State.roomOk (s : State) (core ctx : Nat) (r : Recv) : Bool :=
  let n := r.want (s.ctxAt core ctx).toSend
  let used := s.roomUsed core ctx r
  n == 0 || (!(s.fedElsewhere core ctx r) && (decide (used + n ≤ r.cap) || (decide (r.cap < n) && used == 0)))

/-- The widest scope of the arrivals that a context holds. -/
def baraScope (l : List Held) : Option Nat :=
  l.foldl (fun m h => match h with
    | .c k => if k.kind = .bara then some (Max.max (m.getD 0) k.scope) else m
    | _ => m) none

/-- Held commands that the stores of their context come before: an atomic (R186), and a matrix command that reads cluster-shared memory (R190). -/
def heldOrdered (core : Nat) : Held → Bool
  | .a _ => true
  | .m c => (match c.kind with | .omld _ | .tld => inCl core c.place | _ => false)
  | .c _ => false

/-- Whether step 2 may begin: every receiver has room for what a context holds, its writes through apertures are acknowledged where held
commands come after them (R304, R417), an arrival at a barrier is accepted (R237), and TMRK has
its credit (R337). -/
def State.closeRoom (s : State) (core ctx : Nat) : Bool :=
  let c := s.ctxAt core ctx
  let src := s.source (srcCore core)
  Recv.all.all (fun r => s.roomOk core ctx r) && !(c.toSend.any (heldOrdered core) && s.apWaits core ctx) &&
  (match baraScope c.toSend with | some sc => s.baraHolds core ctx sc | none => true) &&
  (!(c.toSend.any fun h => match h with | .c k => k.kind == .tmrk | _ => false) ||
    !s.lossless (s.stream (sinkOf (srcCore core)) c.tk.tenant) || (decide (src.used < 8) && src.waiting.isEmpty))

/-! Step 2: the held commands leave in issue order. -/

/-- What an engine sees of the issuer (R280): the supervisor names every handle. -/
def State.viewOf (s : State) (core ctx : Nat) : View :=
  let c := s.ctxAt core ctx
  { bndlo := c.csr.bndlo.toNat, bndhi := c.csr.bndhi.toNat, sp := (s.window core c .sp).1
    cl := s.window core c .cl, ds := s.window core c .ds, omap := c.omap, x := s.xctxOf c
    perm := (s.job c.tk.job).perm, hLo := c.tk.hLo, hCnt := if c.task.isNone then 128 else c.tk.hCnt }

/-- A command as an engine outside the core receives it, with its number among the handle-using commands of the core. -/
def State.engineCmd (s : State) (core ctx : Nat) (k : CCmd) : State × CopyIn :=
  let c := s.ctxAt core ctx
  let n := (s.coreAt core).cmdSeq
  let i : CopyIn := { cmd := k, core := core, ctx := ctx, serial := c.tk.serial, job := c.jobOf, view := s.viewOf core ctx
                      num := n, node := none, phase := c.tk.phase, sent := s.nowOf (srcCore core) }
  if k.kind.usesHandle then
    (s.updCore core fun x => { x with cmdSeq := n + 1, cmdBusy := x.cmdBusy ++ [n] }, i)
  else (s, i)

/-- The Hearth's reading of a command (R289, R136). -/
def hearthKind (k : CCmd) : HKind :=
  match k.kind with
  | .trig => .trig (k.a.toNat % 4096) (k.md % 256)
  | .taskl => .taskl (k.md % 2 == 1) k.a k.b
  | .tasksSetpri => .setpri (k.a.setWidth 32) (bitsOf k.md 3 2)
  | .tasksSusp => .susp (k.a.setWidth 32)
  | .tasksResume => .resume (k.a.setWidth 32)
  | _ => .canc (bitsOf k.md 2 0) k.a k.b

/-- One held command of the C or Y slot is sent to its receiver. -/
def State.sendC (s : State) (core ctx : Nat) (k : CCmd) : State :=
  let (s, i) := s.engineCmd core ctx k
  if k.kind.toCopy then
    let s := s.updCluster (clusterOf core) fun x => { x with intake := x.intake ++ [i] }
    if k.kind = .copym then s.updCore core fun x => { x with resv := x.resv ++ [(ctx, i.serial, mdTile k.b.toNat)] } else s
  else if k.kind.toHearth then
    s.updDie (dieOf core) fun d => { d with intake := d.intake ++ [⟨hearthKind k, core, i.job, i.phase, i.serial⟩] }
  else if k.kind.toPacket then { s with fab := { s.fab with pktq := s.fab.pktq ++ [i] } }
  else if k.kind.toRemote then { s with fab := { s.fab with remq := s.fab.remq ++ [i] } }
  else if k.kind.toColl then { s with fab := { s.fab with collq := s.fab.collq ++ [i] } }
  else
    match k.kind with
    | .bara => s.acceptBara core ctx k.b.toNat (bitsOf k.md 5 0)
    | .cbkt =>
      let b := (dieOf core, i.job, k.a.toNat % 2 ^ 32, k.b.toNat)
      if s.fab.cbkts.contains b then s else { s with fab := { s.fab with cbkts := s.fab.cbkts ++ [b] } }
    | .tmrk =>
      s.inLast core fun s => s.emitCtx core ctx (0x70 + bitsOf k.md 10 8) (k.b.toNat * 2 ^ 64 + k.a.toNat) (k.md % 256)
    | _ => s

/-- One held M command enters the matrix queue (R193, R194); an OMREL unmaps its names (R189), and a read of cluster-shared memory sees the
context's stores there (R190). -/
def State.sendM (s : State) (core ctx : Nat) (c : MCmd) : State :=
  let s := match c.kind with
    | .omld _ | .tld => if inCl core c.place then s.flushCl core ctx else s
    | _ => s
  let k := s.coreAt core
  let e := MQEntry.new c k.cycle
  let s := s.setCore core { k with mq := k.mq ++ [e] }
  match c.kind with
  | .omrel names _ => s.updCtxAt core ctx fun x => { x with omap := x.omap.filter fun y => !(names.contains y.1) }
  | _ => s

/-! Step 3: atomics (R186, R299, R304). -/

/-- An atomic through an aperture leaves for its location's home, which performs it (R312); its entry waits for the answer. -/
def State.sendAtomic (s : State) (core ctx : Nat) (a : ACmd) : State :=
  let t := (s.ctxAt core ctx).tk
  (s.sendAp a.key a.place (.atomic a.kind a.n a.uns a.opnd a.cmp)).owesAck core ⟨ctx, t.serial, t.job, a.place, .atomic a⟩

/-- An atomic is performed behind the stores of its queue: it reads and writes its location indivisibly. -/
def State.performAtomic (s : State) (core ctx : Nat) (a : ACmd) : State :=
  let s := s.flushStores core ctx
  let c := s.ctxAt core ctx
  if onAperture a.place then s.sendAtomic core ctx a
  else if s.keyDead a.key a.place then
    (s.updCtxAt core ctx fun c => c.fillAtomic 0 .ready).engineCheck (dieOf core) c.tk.job c.tk.serial (0x0E, 0x01, BitVec.ofNat 64 a.place)
  else
    let mat := s.matOf a.key
    let old := ofBytes (s.bytesAt mat a.place a.n)
    let (new, fl) := amoNew a.kind a.n a.uns old a.opnd.toNat a.cmp.toNat
    let bad := s.isPoisoned a.place a.n
    let s := s.updCore core fun k => { k with l1 := terase k.l1 (a.place / 64) }
    let write (s : State) (x : Nat) : State :=
      s.putUnit ⟨a.place, (toBytes x a.n).map fun b => (b, 0xFF#8), a.key, a.mlog⟩
    if bad then
      let s := if a.kind = .axch && a.n == 8 then write s (new.getD 0) else s
      s.updCtxAt core ctx fun c => c.fillAtomic 0 atomPoison
    else
      let s := match new with | some x => write s x | none => s
      s.updCtxAt core ctx fun c => (c.fillAtomic (BitVec.ofNat 2048 old) .ready).engineFlags 5 fl a.bundle

def State.sendHeld (s : State) (core ctx : Nat) (h : Held) : State :=
  match h with
  | .m c => s.sendM core ctx c
  | .c k => s.sendC core ctx k
  | .a a => s.performAtomic core ctx a

/-! Steps 4 and 5. -/

/-- The entries popped in the segment leave, and the positions start again (R95, R96). -/
def QChan.close (x : QChan) : QChan := ⟨x.ents.drop x.popped, 0, 0, []⟩

def Ctx.closed (c : Ctx) : Ctx :=
  { c with
    q0 := c.q0.close
    q1 := c.q1.close
    held := []
    irrev := []
    late := c.late.map fun l => { l with opn := false }
    segOpen := false
    segN := 0
    replay := false
    errN := 0
    closing := false
    feeding := false }

/-- The stores of a closed segment lie beyond every rewind. -/
def Core.closeStores (k : Core) (ctx : Nat) : Core :=
  { k with stq := k.stq.map fun p => if p.ctx == ctx then { p with opn := false } else p }

/-- The port is given up, and the latches empty (R94, R98). -/
def State.giveUp (s : State) (core ctx : Nat) : State :=
  let s := s.updCtxAt core ctx fun c => { c with latS := [], latA := [], latB := [], stallN := 0 }
  s.updCore core fun k => if k.port = some ctx then { k with port := none, gap := 0 } else k

/-- Step 5: an unsatisfied wait makes the context WAITING, once the gap cycles that remain have run (R50); a handle or a counter that has met
the wait at its evaluation has met it, whatever else the wait still waits for (R129, R130). -/
def State.closeWait (s : State) (core ctx : Nat) : State :=
  match (s.ctxAt core ctx).waitOp with
  | none => s
  | some w =>
    let s := match w with | .rdv _ => s.rdvEval core ctx | _ => s
    if s.waitHolds core ctx w then s.waitDone core ctx w
    else
      let met := s.waitMet core ctx w
      let s := s.updCtxAt core ctx fun c => { c with waitHit := match w with
        | .handle _ _ _ | .counter _ _ _ => met
        | _ => false }
      ((s.runGap core ctx).giveUp core ctx).updCtxAt core ctx fun c => { c with stat := .waiting }

/-- Cycles that the close waits: they add to the count, and any GAP of the closing bundle runs with them (R50, R91). -/
def State.closeCycles (s : State) (core ctx n : Nat) : State :=
  (s.countCycles core ctx n).updCore core fun k => { k with gap := k.gap - n }

/-- Step 1: the results of the segment still in flight become visible (R91, R105). -/
def State.drainClose (s : State) (core ctx : Nat) : State :=
  let c := s.ctxAt core ctx
  (s.closeCycles core ctx ((c.pend.foldl (fun m p => Max.max m p.due) c.count) - c.count)).updCtxAt core ctx Ctx.settle

/-- Steps 2 and 3: commands leave in issue order while the receiver of the next one has room. -/
def State.feed (s : State) (core ctx : Nat) : Nat → State
  | 0 => s
  | n + 1 =>
    let c := s.ctxAt core ctx
    match c.toSend with
    | [] => s
    | h :: _ =>
      if (h.recv.map fun r => decide (r.cap ≤ s.roomUsed core ctx r)).getD false then s
      else
        let s := s.updCtxAt core ctx fun c =>
          if c.held.isEmpty then { c with irrev := c.irrev.tail } else { c with held := c.held.tail }
        let s := s.sendHeld core ctx h
        if (s.ctxAt core ctx).stat = .issuing then State.feed s core ctx n else s

/-- The close of the segment of a context whose closing bundle has issued.  Steps 2 and 3 begin when every receiver has room, and nothing
stops them then (R219); while they have not begun or are not over the close waits a cycle at a time, which counts (R91, R445). -/
def State.closeSegment (s : State) (core ctx : Nat) : State :=
  let c := s.ctxAt core ctx
  if !c.closing || c.stat = .frozen || c.stat = .free then s
  else
    let s := s.drainClose core ctx
    if !(c.feeding || s.closeRoom core ctx) then s.closeCycles core ctx 1
    else
      let s := (s.updCtxAt core ctx fun c => { c with feeding := true }).feed core ctx ((s.ctxAt core ctx).toSend.length)
      let c := s.ctxAt core ctx
      if c.stat != .issuing then s
      else if !c.toSend.isEmpty then s.closeCycles core ctx 1
      else ((s.updCore core fun k => k.closeStores ctx).updCtxAt core ctx Ctx.closed).closeWait core ctx

end Sys2Proof.Machine
end

