-- ==== Sys2Proof/Machine/Control.lean ====
section
/-! DEFINITION. Control flow of the S slot (R118 to R124), and the supervisor forms (R125 to R127). -/

namespace Sys2Proof.Machine

/-- The next bundle is the target (R118). -/
def State.goTo (s : State) (a : Word) : State := s.updCur fun c => { c with next := a }

/-- A target that lies a signed number of bundles away (R47). -/
def State.offset (s : State) (n : Int) : Word := s.cur.addr + BitVec.ofInt 64 (64 * n)

/-- BR (R119). -/
def execBr (op : I32Op) (s : State) : Out :=
  let g := s.ctx.guard op.pred op.pn
  .next (if g then s.goTo (s.offset op.imm.toInt) else s)

/-- BRC's conditions on a source compared with zero (R119). -/
def condZero (cc : Nat) (a : Word) : Bool := condS cc a 0

/-- BRC (R119). -/
def execBrc (op : RIOp) (s : State) : Out :=
  let g := s.ctx.guard op.pred op.pn
  s.sources partS [(.s, op.xa)] none fun c =>
    if g && condZero (bitsOf op.md.toNat 2 0) (c.srcS s.cur op.xa) then s.goTo (s.offset op.imm.toInt) else s

/-- CALL (R120): the return address enters the latch even when DST is s0. -/
def execCall (op : I32Op) (s : State) : Out :=
  let g := s.ctx.guard op.pred op.pn
  let s' := s.putS partS 1 g op.nw op.dst.toNat (s.cur.addr + 64#64) 0
  .next (if g then s'.goTo (s.offset op.imm.toInt) else s')

/-- RET (R120). -/
def execRet (op : ROp) (s : State) : Out :=
  let g := s.ctx.guard op.pred op.pn
  s.sources partS [(.s, op.xa)] none fun c =>
    if g then s.goTo (c.srcS s.cur op.xa &&& ~~~ 63#64) else s

/-- Physical number of architectural p(12+i) under a given ROTP (R84). -/
def stagePhys (rotp : Nat) (i : Nat) : Nat := 8 + (4 + i + (8 - rotp % 8)) % 8

/-- LOOPM (R121). -/
def execLoopm (op : RIOp) (s : State) : Out :=
  let g := s.ctx.guard op.pred op.pn
  s.sources partS [(.s, op.xa)] none fun c =>
    if !g then s
    else
      let n := (c.srcS s.cur op.xa).toNat
      let st := bitsOf op.md.toNat 1 0 + 1
      let rot := c.csr.rotp.toNat
      let ec : Word := BitVec.ofNat 64 ((st - 1) * 16)
      let stage (i : Nat) (x : Word) : Write := .p (stagePhys rot i) allOnes x
      if n ≥ 1 then
        s.post 0 1 [.csr 0x12 (BitVec.ofNat 64 (Min.min (n + st - 1) (2 ^ 64 - 1))), .csr 0x13 ec,
          stage 0 allOnes, stage 1 0, stage 2 0, stage 3 0] none 0 false
      else
        (s.post 0 1 [.csr 0x12 0, .csr 0x13 ec, stage 0 0, stage 1 0, stage 2 0, stage 3 0] none 0 false).goTo
          (s.offset (op.imm.toNat + 1 : Nat))

/-- BRLC: one sequencer step (R107, R122); the stage predicates go through the new ROTP. -/
def execBrlc (op : I32Op) (s : State) : Out :=
  let g := s.ctx.guard op.pred op.pn
  let c := s.ctx
  .next (
    if !g then s
    else
      let lc := c.csr.lc - 1
      if lc = 0 then s.post 0 1 [.csr 0x12 lc] none 0 false
      else
        let st := bitsOf c.csr.ec.toNat 5 4 + 1
        let d := Min.min (bitsOf c.csr.ec.toNat 1 0 + 1) 3
        let rotv := (c.csr.rotv.toNat + 1) % 32
        let rotp := (c.csr.rotp.toNat + 1) % 8
        let stage (i : Nat) : Write :=
          .p (stagePhys rotp i) allOnes
            (if i ≤ st - 1 ∧ i ≤ d ∧ i + lc.toNat ≥ st then allOnes else 0)
        (s.post 0 1 [.csr 0x12 lc, .csr 0x13 (BitVec.ofNat 64 ((st - 1) * 16 + d)),
          .csr 0x10 (BitVec.ofNat 64 rotv), .csr 0x11 (BitVec.ofNat 64 rotp),
          stage 0, stage 1, stage 2, stage 3] none 0 false).goTo (s.offset op.imm.toInt))

/-- TRAP (R123): the bundle commits and the context stops after it, when the bundle has issued (R213). -/
def execTrap (op : I32Op) (s : State) : Out :=
  let g := s.ctx.guard op.pred op.pn
  .next (if g then s.updCur fun c => { c with swTrap := some (op.imm.setWidth 64) } else s)

/-- END (R124): takes effect once its bundle has closed the segment. -/
def execEndTask (op : ROp) (s : State) : Out :=
  let g := s.ctx.guard op.pred op.pn
  .next (if g then s.updCtx fun c => { c with endReq := some .endTask } else s)

/-- ERET (R127): takes effect after its bundle's close. -/
def execEret (op : ROp) (s : State) : Out :=
  let g := s.ctx.guard op.pred op.pn
  .next (if g then s.updCtx fun c => { c with endReq := some .eret } else s)

/-! XRD and XWR (R125, R126). -/

/-- What IMM20's REG names (R125). -/
inductive XReg where
  | ctl (num : Nat) | sreg (k : Nat) | preg (k : Nat) | nreg (k : Nat) | resume | vreg (k j : Nat) | dreg (k j : Nat)
  deriving DecidableEq, Repr

/-- The register of a REG value; reserved values name none (R125). -/
def xregOf (r : Nat) : Option XReg :=
  if r < 0x1000 then (if csrListed r then some (.ctl r) else none)
  else if r < 0x1040 then some (.sreg (r - 0x1000))
  else if r < 0x1050 then some (.preg (r - 0x1040))
  else if 0x1080 ≤ r ∧ r < 0x10A0 then some (.nreg (r - 0x1080))
  else if r = 0x10C0 then some .resume
  else if 0x2000 ≤ r ∧ r < 0x2800 then some (.vreg ((r - 0x2000) / 32) ((r - 0x2000) % 32))
  else if 0x3000 ≤ r ∧ r < 0x3400 then some (.dreg ((r - 0x3000) / 32) ((r - 0x3000) % 32))
  else none

/-- The word of the register files that holds a register; control registers lie in none. -/
def XReg.word (c : Ctx) : XReg → Option (Nat × Nat × Nat)
  | .sreg k => some (0, k, 0)
  | .preg k => some (1, c.pPhys k, 0)
  | .vreg k j => some (2, c.vPhys k, j)
  | .dreg k j => some (3, k, j)
  | .nreg k => some (4, k, 0)
  | _ => none

/-- The bank that holds a register (R247). -/
def XReg.bank (c : Ctx) (r : XReg) : Option Nat := (r.word c).map fun w => wordBank w.1 w.2.1

/-- The value visible to the target's next bundle (R126). -/
def XReg.read (core ctx : Nat) (c : Ctx) : XReg → Word
  | .ctl n => csrGet core ctx c.csr n
  | .sreg k => c.sGet k
  | .preg k => c.pGet k
  | .nreg k => (c.nGet k).setWidth 64
  | .resume => 0
  | .vreg k j => ((c.vGet k) >>> (64 * j)).setWidth 64
  | .dreg k j => ((c.dGet k) >>> (64 * j)).setWidth 64

/-- Replaces chunk j of a wide register. -/
def setChunk (x : Vec) (j : Nat) (w : Word) : Vec :=
  (x &&& ~~~ ((allOnes.setWidth 2048) <<< (64 * j))) ||| ((w.setWidth 2048) <<< (64 * j))

/-- Whether a write in flight goes to the register that XWR writes (R126). -/
def XReg.same (c : Ctx) (r : XReg) (w : Write) : Bool :=
  match r, w with
  | .ctl n, .csr m _ => n == m
  | .sreg k, .s j _ => k == j
  | .preg k, .p j _ _ => c.pPhys k == j
  | .nreg k, .pair j _ _ => k == j
  | .nreg k, .norm j _ => k == j
  | .vreg k _, .v j _ _ => c.vPhys k == j
  | .dreg k _, .pair j _ _ => k == j
  | .dreg k _, .norm j _ => k == j
  | _, _ => false

/-- What is in flight to a register is cancelled (R126), with a double-bit error of its word (R249). -/
def XReg.cancel (c : Ctx) (r : XReg) : Ctx :=
  { c with
    pend := c.pend.map fun p => { p with writes := p.writes.filter fun w => !(r.same c w) }
    ecc := match r.word c with
      | some (kind, num, j) => c.ecc.filter fun e => !(e.1 == kind && e.2.1 == num && e.2.2.1 == j)
      | none => c.ecc }

/-- XWR's effect on its target (R126): cancels what is in flight to the register, then writes it. -/
def XReg.write (c : Ctx) (r : XReg) (x : Word) : Ctx :=
  let c := r.cancel c
  match r with
  | .ctl n =>
    let c := { c with csr := c.csr.put n x }
    if n = 0x20 then { c with save := { c.save with fpstat := c.csr.fpstat } }
    else if n = 0x21 then { c with save := { c.save with fprec := c.csr.fprec } }
    else c
  | .sreg k => c.apply false (.s k x)
  | .preg k => c.apply false (.p (c.pPhys k) allOnes x)
  | .nreg k => c.apply false (.norm k (x.setWidth 32))
  | .resume => if c.stat = .frozen then { c with act := x.setWidth 2 } else c
  | .vreg k j => { c with vRegs := tset c.vRegs (c.vPhys k) (setChunk (c.vGet k) j x), bad := setBad c.bad 2 (c.vPhys k) false }
  | .dreg k j => { c with dRegs := tset c.dRegs k (setChunk (c.dGet k) j x), bad := setBad c.bad 3 k false }

/-- The value rules that bind XWR (R126): those of R85, SEGPC's low bits, reserved fields and
codes of the mapped registers, and the reserved feature bits of FEAT0 to FEAT3 (R89, R363). -/
def XReg.valueOk (r : XReg) (x : Word) : Bool :=
  match r with
  | .ctl n =>
    csrValueOk n x &&
    (if n = 0x40 then decide (x.toNat % 64 = 0)
     else if n = 0x20 then (x &&& 0xC0C0C0C0C0C0#64) == 0
     else if n = 0x33 then !(x.getLsbD 3)
     else if n = 0x21 then bitsOf x.toNat 5 3 != 6 && decide (bitsOf x.toNat 2 0 < 6)
     else if n = 0x50 then decide (x.toNat < 2 ^ 7)
     else if 0x51 ≤ n ∧ n ≤ 0x53 then x == 0
     else if 8 ≤ n ∧ n ≤ 0xF then
       x == 0 || (decide (bitsOf x.toNat 13 12 = 0) && (bitsOf x.toNat 11 10 == 1 || bitsOf x.toNat 11 10 == 2))
     else true)
  | .resume => decide (x.toNat < 4)
  | .nreg _ => decide (x.toNat < 2 ^ 32)
  | _ => true

/-- A register of a bank that is gated, whose context is FREE (R247). -/
def XReg.gated (c : Ctx) (r : XReg) : Bool := c.stat == .free && (r.bank c).isSome

/-- A drowsy bank that an access names wakes, with the check of R249 (R126, R248). -/
def State.wakeBank (s : State) (core part : Nat) (b : Option Nat) : State :=
  match b with
  | none => s
  | some i =>
    if (s.ctxAt core part).drowsy.getLsbD i then
      (s.updCtxAt core part fun c => { c with drowsy := c.drowsy &&& ~~~ (1#8 <<< i), frozenN := 0 }).checkBanks core part (1#8 <<< i)
    else s

/-- The 20 cycles that an access to a bank that is not awake takes; they add nothing to the issuer's count (R126, R248). -/
def State.wakeWait (s : State) (core part : Nat) (r : XReg) : State :=
  let t := s.ctxAt core part
  let b := r.bank t
  if r.gated t then s.cycles core 20
  else if (b.map fun i => t.drowsy.getLsbD i).getD false then (s.cycles core 20).wakeBank core part b
  else s

/-- What a read of a partition's register returns: zero from a gated bank (R248) and from a word with a double-bit error (R249). -/
def State.xread (s : State) (core part : Nat) (r : XReg) : Word :=
  let t := s.ctxAt core part
  let bad := match r.word t with
    | some (kind, num, j) => t.ecc.contains (kind, num, j, true)
    | none => false
  if r.gated t || bad then 0 else r.read core part t

/-- XRD (R126). -/
def execXrd (op : RIOp) (s : State) : Out :=
  let g := s.ctx.guard op.pred op.pn
  let part := bitsOf op.imm.toNat 19 17
  match xregOf (bitsOf op.imm.toNat 16 0) with
  | none => .next s
  | some r =>
    let s := if g then s.wakeWait s.cur.core part r else s
    .next (s.putS partS 1 g op.nw op.dst.toNat (s.xread s.cur.core part r) 0)

/-- A write to the issuing partition's own register: latency 1, and what was in flight to it is cancelled (R126). -/
def State.xwriteOwn (s : State) (r : XReg) (x : Word) : State :=
  let t := s.ctx
  let s := s.setCtx (r.cancel t)
  match r with
  | .ctl n => s.post 0 1 [.csr n x] none 0 false
  | .sreg k => s.post 0 1 (if k = 0 then [] else [.s k x]) none 0 false
  | .preg k => s.post 0 1 (if k = 0 then [] else [.p (t.pPhys k) allOnes x]) none 0 false
  | .nreg k => s.post 0 1 [.norm k (x.setWidth 32)] none 0 false
  | .vreg k j => s.post 0 1 [.v (t.vPhys k) (BitVec.ofNat 64 (3 * 4 ^ j)) (setChunk 0 j x)] none 0 false
  | .dreg k j => s.post 0 1 [.pair k (setChunk (t.dGet k) j x) (t.nGet k)] none 0 false
  | .resume => s

/-- XWR (R126): bad values raise ILL; a gated bank takes no write (R248); a write to its own partition has latency 1. -/
def execXwr (op : RIOp) (s : State) : Out :=
  let g := s.ctx.guard op.pred op.pn
  let part := bitsOf op.imm.toNat 19 17
  match xregOf (bitsOf op.imm.toNat 16 0) with
  | none => .next s
  | some r =>
    let x := s.ctx.srcS s.cur op.xa
    let own : Option Trap :=
      if g && !r.valueOk x then
        some ⟨partS, 0x01, 0x05, BitVec.ofNat 64 (s.cur.addr.toNat / 64 * 64 + partS)⟩
      else none
    s.sources partS [(.s, op.xa)] own fun _ =>
      if !g then s
      else
        let s := s.wakeWait s.cur.core part r
        if r.gated (s.ctxAt s.cur.core part) then s
        else if part = s.cur.ctx then s.xwriteOwn r x
        else s.updCtxAt s.cur.core part fun c => r.write c x

end Sys2Proof.Machine
end

