-- ==== Sys2Proof/Machine/Legal.lean ====
section
/-! DEFINITION. The opcode maps (R63 to R70) and, for every opcode, which values of its fields are legal: the ILL conditions of
R72 that the bits of one slot decide.  Reason 0 means that none is found. -/

namespace Sys2Proof.Machine

/-- The slots of a bundle (R46). -/
inductive SlotId where
  | s | a | b | m | l | t | c | y
  deriving DecidableEq, Repr

/-- The part code of a slot (R73). -/
def SlotId.part : SlotId → Nat
  | .s => 1 | .a => 2 | .b => 3 | .m => 4 | .l => 5 | .t => 6 | .c => 7 | .y => 8

def unitSlot : VUnit → SlotId | .a => .a | .b => .b

/-- The lowest reason of a list, 0 for none (R73). -/
def low (l : List Nat) : Nat :=
  l.foldl (fun acc x => if x = 0 then acc else if acc = 0 then x else Min.min acc x) 0

/-- Reason 0x04 for a field that must be zero (R71). -/
def zero4 (x : Nat) : Nat := if x = 0 then 0 else 4
/-- Reason 0x05 for a value that the instruction leaves undefined. -/
def bad5 (ok : Bool) : Nat := if ok then 0 else 5
def bad6 (ok : Bool) : Nat := if ok then 0 else 6

/-- Roles of a source selector (R56). -/
inductive SRole where
  /-- unused -/
  | z
  /-- every class; registers of a file of 64 (s and v) -/
  | any
  | p | d | t | w | o
  /-- two consecutive v registers (R164) -/
  | pair
  /-- the first of eight directions (R166) -/
  | d8
  deriving DecidableEq, Repr

/-- Roles of DST. -/
inductive DRole where
  | z | s | v | p | d | n | t | w | o
  /-- two consecutive v registers (R164) -/
  | pair
  /-- a channel with its VEC bit (R176), and a channel alone -/
  | qv | q
  deriving DecidableEq, Repr

/-- Register numbers of a class 00 source. -/
def SRole.limit : SRole → Nat
  | .z => 0 | .any => 64 | .p => 16 | .d => 32 | .t => 8 | .w => 8 | .o => 64 | .pair => 63 | .d8 => 25

/-- The reason of a selector in a role (R56, R57, R72). -/
def selReason (r : SRole) (bits : Nat) : Nat :=
  if r = .z then zero4 bits
  else match selOfBits (BitVec.ofNat 10 bits) with
    | none => 2
    | some (.reg n) => bad6 (decide (n.toNat < r.limit))
    | some _ => if r = .any then 0 else 2

/-- The reason of DST in a role. -/
def dstReason (r : DRole) (k : Nat) : Nat :=
  match r with
  | .z => zero4 k
  | .s | .v | .o => bad6 (decide (k < 64))
  | .p => bad6 (decide (k < 16))
  | .d | .n => bad6 (decide (k < 32))
  | .t | .w => bad6 (decide (k < 8))
  | .pair => bad6 (decide (k < 63))
  | .qv => zero4 (k / 4)
  | .q => zero4 (k / 2)

/-- Whether NW may stand: a register result that is not directional, with DST zero (R55). -/
def nwReason (r : DRole) (nw : Bool) (k : Nat) : Nat :=
  if !nw then 0
  else match r with
    | .s | .v | .p | .pair => if k = 0 then 0 else 7
    | _ => 7

/-- The fields of a slot of the R, RI or I32 form below bit 48: selectors as ten bits, the immediate, MOD. -/
structure Raw where
  dst : Nat
  xa : Nat
  xb : Nat
  xc : Nat
  imm : Nat
  md : Nat
  /-- SHAPE.ETYPE, which TYPE 0x0 selects (R139); 0 where it is not known -/
  et : Nat
  deriving DecidableEq, Repr

/-- What an opcode makes of its fields: the roles, and the lowest reason that MOD and the immediate give. -/
structure Sig where
  dst : DRole
  a : SRole
  b : SRole
  c : SRole
  why : Nat
  deriving DecidableEq, Repr

/-- The form of an opcode with its constructor (R52, R53). -/
inductive Mk where
  | r (f : ROp → Instr)
  | ri (f : RIOp → Instr)
  | i32 (f : I32Op → Instr)

structure Row where
  make : Mk
  sig : Raw → Sig

/-! MOD rules that several instructions share. -/

/-- MOD is zero. -/
def plain (d : DRole) (a b c : SRole) : Raw → Sig := fun r => ⟨d, a, b, c, zero4 r.md⟩

/-- A TYPE field with SHAPE's type put in for 0 (R139). -/
def typeOf (et t : Nat) : Nat := if t = 0 then et else t

/-- A resolved type among the accepted codes, wherever it came from (R139); 0 stands for SHAPE's where that is not known. -/
def typeReason (ok : List Nat) (t : Nat) : Nat := bad5 (t == 0 || ok.contains t)

def allTypes : List Nat := [1, 2, 3, 4, 5, 6, 7, 8, 9]

/-- cc and the bits above it (R70, R115). -/
def ccWhy (md : Nat) : Nat := low [zero4 (md / 8), bad5 (decide (md % 8 < 6))]

/-- R143's MOD. -/
def arithWhy (et md : Nat) : Nat :=
  let t := typeOf et (md % 16)
  let int := t == 7 || t == 8
  let rm := bitsOf md 7 5
  low [zero4 (bitsOf md 4 4), typeReason [1, 2, 3, 7, 8] t,
    bad5 !((bitsOf md 9 9 == 1 && !int && t != 0) || (bitsOf md 8 8 == 1 && int) || (bitsOf md 8 8 == 0 && rm != 0) || decide (4 < rm))]

/-- VCVT's widths by PAIR (R147): source, destination. -/
def cvtPairTypes (pair : Nat) : Nat × Nat :=
  if pair ≤ 80 then (pair / 9 + 1, pair % 9 + 1)
  else match pair with
    | 81 => (1, 6) | 82 => (1, 9) | 83 => (7, 6) | 84 => (7, 9) | 85 => (6, 1) | 86 => (6, 7) | 87 => (9, 1) | _ => (9, 7)

/-- VCVT's MOD (R147). -/
def cvtWhy (md : Nat) : Nat :=
  let pair := bitsOf md 9 3
  let (sx, dx) := cvtPairTypes pair
  let ws := typeWidth sx
  let wd := typeWidth dx
  bad5 (decide (pair ≤ 88) && (decide (80 < pair) || decide (md % 4 * Min.min ws wd < Max.max ws wd)))

/-- VQNT's and VDQNT's MOD (R150). -/
def qntWhy (et md : Nat) : Nat :=
  let t := typeOf et (md % 16)
  let part := bitsOf md 6 4
  low [zero4 (bitsOf md 9 7), typeReason [1, 2, 3] t, bad5 (decide (part ≤ (if t = 2 ∨ t = 3 then 2 else 5)))]

/-- VCMP's MOD (R152). -/
def vcmpWhy (et md : Nat) : Nat :=
  let t := typeOf et (bitsOf md 9 6)
  low [bad5 (decide (md % 8 < 6)), zero4 (bitsOf md 3 3), typeReason [1, 2, 3, 4, 5, 7, 8] t,
    bad5 (t == 0 || decide (bitsOf md 5 4 < 32 / typeWidth t))]

/-- VRED's and VSCAN's MOD (R157, R158). -/
def redWhy (scan : Bool) (et md : Nat) : Nat :=
  low [zero4 (bitsOf md 5 5), bad5 (decide (md % 8 < 3)), bad5 !(scan && bitsOf md 4 4 == 1),
    typeReason (if scan then [1, 7] else [1, 2, 3, 7, 8]) (typeOf et (bitsOf md 9 6))]

/-- VDOT2's MOD (R159). -/
def dot2Why (md : Nat) : Nat :=
  let rm := bitsOf md 7 5
  low [zero4 (bitsOf md 9 9), zero4 (md % 32), bad5 !((bitsOf md 8 8 == 0 && rm != 0) || decide (4 < rm))]

/-- The scalar memory MOD (R171). -/
def smodWhy (store : Bool) (md : Nat) : Nat :=
  low [zero4 (md % 32), bad5 !(bitsOf md 5 5 == 1 && (store || bitsOf md 7 6 == 3))]

/-- The vector memory MOD (R171). -/
def vmodWhy (md : Nat) : Nat :=
  let f := md % 16
  let t := bitsOf md 7 4
  bad5 (if f = 0 then t == 0
    else decide (t ≤ 9) && (if bitsOf md 9 8 = 3 then f == 15 else decide (f ≤ 9)))

/-- SPACE 00 to 10 with MOD[7:0] zero (R190, R203). -/
def moveWhy (md : Nat) : Nat := low [zero4 (md % 256), bad5 (decide (md / 256 < 3))]

/-- An atomic's MOD (R185). -/
def atomWhy (u word : Bool) (md : Nat) : Nat :=
  let sz := bitsOf md 7 6
  low [zero4 (md % 32), bad5 (decide (2 ≤ sz) && (u || bitsOf md 5 5 == 0) && (!word || sz == 2))]

/-- MMA's MOD (R200). -/
def mmaWhy (md : Nat) : Nat :=
  let fa := md % 16
  let fb := bitsOf md 7 4
  low [zero4 (bitsOf md 9 9), bad5 (mmaClass fa != 0 && mmaClass fa == mmaClass fb)]

/-- A range of operand slots (R189). -/
def rangeWhy (xa md : Nat) : Nat :=
  let n := md % 128
  low [zero4 (md / 128), bad6 (decide (1 ≤ n) && decide (n ≤ 64) && decide (xa % 256 + n ≤ 64))]

/-! S slot (R63). -/

def aSS : Raw → Sig := plain .s .any .any .z

def rowS (o : Nat) : Option Row :=
  match o with
  | 0x001 => some ⟨.r .add, aSS⟩
  | 0x002 => some ⟨.r .sub, aSS⟩
  | 0x003 => some ⟨.ri .addi, plain .s .any .z .z⟩
  | 0x004 => some ⟨.r .mul, aSS⟩
  | 0x005 => some ⟨.r .mulh, aSS⟩
  | 0x006 => some ⟨.r .mulhu, aSS⟩
  | 0x007 => some ⟨.r .div, aSS⟩
  | 0x008 => some ⟨.r .divu, aSS⟩
  | 0x009 => some ⟨.r .rem, aSS⟩
  | 0x010 => some ⟨.r .and, aSS⟩
  | 0x011 => some ⟨.r .or, aSS⟩
  | 0x012 => some ⟨.r .xor, aSS⟩
  | 0x013 => some ⟨.r .andn, aSS⟩
  | 0x014 => some ⟨.r .shl, aSS⟩
  | 0x015 => some ⟨.r .shr, aSS⟩
  | 0x016 => some ⟨.r .sra, aSS⟩
  | 0x017 => some ⟨.r .rot, aSS⟩
  | 0x018 => some ⟨.r .clz, plain .s .any .z .z⟩
  | 0x019 => some ⟨.r .popc, plain .s .any .z .z⟩
  | 0x020 => some ⟨.r .min, aSS⟩
  | 0x021 => some ⟨.r .max, aSS⟩
  | 0x022 => some ⟨.r .minu, aSS⟩
  | 0x023 => some ⟨.r .maxu, aSS⟩
  | 0x024 => some ⟨.r .sel, plain .s .any .any .p⟩
  | 0x028 => some ⟨.r .cmp, fun r => ⟨.p, .any, .any, .z, ccWhy r.md⟩⟩
  | 0x030 => some ⟨.r .pand, plain .p .p .p .z⟩
  | 0x031 => some ⟨.r .por, plain .p .p .p .z⟩
  | 0x032 => some ⟨.r .pxor, plain .p .p .p .z⟩
  | 0x033 => some ⟨.r .pnot, plain .p .p .z .z⟩
  | 0x040 => some ⟨.i32 .movi, fun r => ⟨.s, .z, .z, .z, zero4 (r.md / 2)⟩⟩
  | 0x041 => some ⟨.i32 .movhi, plain .s .z .z .z⟩
  | 0x042 => some ⟨.ri .lea, fun r => ⟨.s, .any, .z, .z,
      low [zero4 (r.md / 16), bad5 (decide (r.md % 8 ≠ 7) && (r.md / 8 % 2 == 0 || (r.xa == 0 && r.md % 8 == 6)))]⟩⟩
  | 0x043 => some ⟨.r .bfx, fun r => ⟨.s, .any, .any, .any, zero4 (r.md / 2)⟩⟩
  | 0x044 => some ⟨.r .bfi, fun r => ⟨.s, .any, .any, .any,
      low [zero4 (r.md / 128), bad5 (decide (1 ≤ r.md % 128) && decide (r.md % 128 ≤ 64))]⟩⟩
  | 0x050 => some ⟨.ri .csrr, fun r => ⟨.s, .z, .z, .z, low [zero4 r.md, bad5 (csrListed r.imm)]⟩⟩
  | 0x051 => some ⟨.ri .csrw, fun r => ⟨.z, .any, .z, .z, low [zero4 r.md, bad5 (csrWritable r.imm)]⟩⟩
  | 0x060 => some ⟨.i32 .br, plain .z .z .z .z⟩
  | 0x061 => some ⟨.ri .brc, fun r => ⟨.z, .any, .z, .z, ccWhy r.md⟩⟩
  | 0x062 => some ⟨.i32 .call, plain .s .z .z .z⟩
  | 0x063 => some ⟨.r .ret, plain .z .any .z .z⟩
  | 0x064 => some ⟨.ri .loopm, fun r => ⟨.z, .any, .z, .z, low [zero4 (r.md / 4), bad5 (decide (r.imm ≠ 0))]⟩⟩
  | 0x065 => some ⟨.i32 .brlc, plain .z .z .z .z⟩
  | 0x070 => some ⟨.i32 .trap, plain .z .z .z .z⟩
  | 0x071 => some ⟨.r .endTask, plain .z .z .z .z⟩
  | 0x3F0 => some ⟨.r .eret, plain .z .z .z .z⟩
  | 0x3F1 => some ⟨.ri .xrd, fun r => ⟨.s, .z, .z, .z,
      low [zero4 r.md, bad5 (decide (bitsOf r.imm 19 17 < 5) && (xregOf (bitsOf r.imm 16 0)).isSome)]⟩⟩
  | 0x3F2 => some ⟨.ri .xwr, fun r => ⟨.z, .any, .z, .z,
      low [zero4 r.md, bad5 (decide (bitsOf r.imm 19 17 < 5) && (xregOf (bitsOf r.imm 16 0)).isSome)]⟩⟩
  | _ => none

/-! A and B slots (R64). -/

def arith2 : Raw → Sig := fun r => ⟨.v, .any, .any, .z, arithWhy r.et r.md⟩
def arith3 : Raw → Sig := fun r => ⟨.v, .any, .any, .any, arithWhy r.et r.md⟩
def arith1 : Raw → Sig := fun r => ⟨.v, .any, .z, .z, arithWhy r.et r.md⟩
def typed (ok : List Nat) (d : DRole) (a b c : SRole) : Raw → Sig :=
  fun r => ⟨d, a, b, c, low [zero4 (r.md / 16), typeReason ok (typeOf r.et (r.md % 16))]⟩

def rowV (u : VUnit) (o : Nat) : Option Row :=
  match o with
  | 0x001 => some ⟨.r (.vadd u), arith2⟩
  | 0x002 => some ⟨.r (.vsub u), arith2⟩
  | 0x003 => some ⟨.r (.vmul u), arith2⟩
  | 0x004 => some ⟨.r (.vfma u), arith3⟩
  | 0x005 => some ⟨.r (.vfms u), arith3⟩
  | 0x006 => some ⟨.r (.vnfma u), arith3⟩
  | 0x007 => some ⟨.r (.vmin u), arith2⟩
  | 0x008 => some ⟨.r (.vmax u), arith2⟩
  | 0x009 => some ⟨.r (.vabs u), arith1⟩
  | 0x00A => some ⟨.r (.vneg u), arith1⟩
  | 0x010 => some ⟨.r (.vsf u), fun r => ⟨.v, .any, .z, .z,
      low [zero4 (bitsOf r.md 9 8), bad5 (decide (r.md % 16 < 9)), typeReason [1, 2, 3] (typeOf r.et (bitsOf r.md 7 4))]⟩⟩
  | 0x018 => some ⟨.r (.vcvt u), fun r => ⟨.v, .any, if bitsOf r.md 2 2 = 1 then .any else .z, .z, cvtWhy r.md⟩⟩
  | 0x019 => some ⟨.r (.vqnt u), fun r => ⟨.v, .any, .any, .z, qntWhy r.et r.md⟩⟩
  | 0x01A => some ⟨.r (.vdqnt u), fun r => ⟨.v, .any, .any, .z, qntWhy r.et r.md⟩⟩
  | 0x020 => some ⟨.r (.vand u), plain .v .any .any .z⟩
  | 0x021 => some ⟨.r (.vor u), plain .v .any .any .z⟩
  | 0x022 => some ⟨.r (.vxor u), plain .v .any .any .z⟩
  | 0x023 => some ⟨.r (.vnot u), plain .v .any .z .z⟩
  | 0x024 => some ⟨.r (.vshl u), typed [7, 8] .v .any .any .z⟩
  | 0x025 => some ⟨.r (.vshr u), typed [7, 8] .v .any .any .z⟩
  | 0x026 => some ⟨.r (.vsra u), typed [7, 8] .v .any .any .z⟩
  | 0x028 => some ⟨.r (.vcmp u), fun r => ⟨.p, .any, .any, .z, vcmpWhy r.et r.md⟩⟩
  | 0x029 => some ⟨.r (.vsel u), plain .v .any .any .p⟩
  | 0x02A => some ⟨.r (.vmov u), plain .v .any .z .z⟩
  | 0x02B => some ⟨.r (.vbcast u), typed allTypes .v .any .z .z⟩
  | 0x02C => some ⟨.r (.viota u), typed [7, 8] .v .any .z .z⟩
  | 0x030 => some ⟨.r (.vshuf u), fun r => ⟨.v, .any, .any, .z, low [zero4 (r.md / 4), bad5 (decide (r.md % 4 ≠ 3))]⟩⟩
  | 0x031 => some ⟨.r (.vrowm u), plain .v .any .any .z⟩
  | 0x032 => some ⟨.r (.vcolm u), plain .v .any .any .z⟩
  | 0x033 => some ⟨.r (.vtrn u), plain .v .any .z .z⟩
  | 0x038 => some ⟨.r (.vred u), fun r => ⟨if bitsOf r.md 4 4 = 1 then .s else .v, .any, .z, .z, redWhy false r.et r.md⟩⟩
  | 0x039 => some ⟨.r (.vscan u), fun r => ⟨.v, .any, .z, .z, redWhy true r.et r.md⟩⟩
  | 0x03C => some ⟨.r (.vdot2 u), fun r => ⟨.v, .any, .any, .any, dot2Why r.md⟩⟩
  | 0x040 => some ⟨.r (.vext u), typed allTypes .s .any .any .z⟩
  | 0x041 => some ⟨.r (.vins u), typed allTypes .v .any .any .any⟩
  | 0x042 => some ⟨.r (.vlds u), fun r => ⟨.v, .any, .any, .z, low [zero4 (r.md / 8), bad5 (decide (r.md % 4 ≠ 3))]⟩⟩
  | 0x043 => some ⟨.r (.vsts u), fun r => ⟨.z, .any, .any, .any, low [zero4 (r.md / 4), bad5 (decide (r.md % 4 ≠ 3))]⟩⟩
  | 0x048 => some ⟨.r (.sadd u), aSS⟩
  | 0x049 => some ⟨.r (.ssub u), aSS⟩
  | 0x04A => some ⟨.r (.smul u), aSS⟩
  | 0x04B => some ⟨.r (.smin u), aSS⟩
  | 0x04C => some ⟨.r (.smax u), aSS⟩
  | 0x04D => some ⟨.r (.sand u), aSS⟩
  | 0x04E => some ⟨.r (.sor u), aSS⟩
  | 0x04F => some ⟨.r (.sxor u), aSS⟩
  | 0x080 => some ⟨.r (.dnrm u), fun r => ⟨.d, if r.md % 2 = 1 then .pair else .any, .z, .z, zero4 (r.md / 2)⟩⟩
  | 0x081 => some ⟨.r (.dexp u), fun r => ⟨if r.md % 2 = 1 then .pair else .v, .d, .z, .z, zero4 (r.md / 2)⟩⟩
  | 0x082 => some ⟨.r (.ddot u), fun r => ⟨if r.md % 2 = 1 then .s else .v, .d, .d, .z, zero4 (r.md / 2)⟩⟩
  | 0x083 => some ⟨.r (.ddot8 u), plain .v .d .d8 .z⟩
  | 0x084 => some ⟨.r (.dscl u), plain .d .d .any .z⟩
  | 0x085 => some ⟨.r (.dnget u), plain .s .d .z .z⟩
  | 0x086 => some ⟨.r (.dnset u), plain .n .any .z .z⟩
  | 0x087 => some ⟨.r (.dadd u), plain .d .d .d .z⟩
  | 0x088 => some ⟨.r (.dsub u), plain .d .d .d .z⟩
  | 0x089 => some ⟨.r (.dneg u), plain .d .d .z .z⟩
  | 0x08A => some ⟨.r (.dmulv u), fun r => ⟨.d, .d, if r.md % 2 = 1 then .pair else .any, .z, zero4 (r.md / 2)⟩⟩
  | 0x08B => some ⟨.r (.dlerp u), plain .d .d .d .any⟩
  | 0x08C => some ⟨.r (.dmov u), plain .d .d .z .z⟩
  | 0x08D => some ⟨.r (.dcvt u), fun r => ⟨if r.md % 4 = 2 then .pair else .v, .d, .z, .z,
      low [zero4 (r.md / 4), bad5 (decide (r.md % 4 ≠ 3))]⟩⟩
  | _ => none

/-! M slot (R65). -/

/-- TROW and TCOL by W (R202). -/
def rowColSig : Raw → Sig := fun r =>
  if r.md % 2 = 1 then ⟨.t, .any, .any, .z, zero4 (r.md / 2)⟩ else ⟨.v, .t, .any, .z, zero4 (r.md / 2)⟩

def rowM (o : Nat) : Option Row :=
  match o with
  | 0x001 => some ⟨.r .omclaim, fun r => ⟨.s, .o, .z, .z, rangeWhy r.xa r.md⟩⟩
  | 0x002 => some ⟨.r .omrel, fun r => ⟨.z, .o, .z, .z, rangeWhy r.xa r.md⟩⟩
  | 0x003 => some ⟨.r .omld, fun r => ⟨.o, .any, .any, .z, moveWhy r.md⟩⟩
  | 0x004 => some ⟨.r .omst, fun r => ⟨.z, .any, .any, .o, moveWhy r.md⟩⟩
  | 0x010 => some ⟨.r .mma, fun r => ⟨.t, .o, .o, .any, mmaWhy r.md⟩⟩
  | 0x011 => some ⟨.r .mmaq, fun r => ⟨.t, .o, .o, .any, low [zero4 (bitsOf r.md 9 9), zero4 (r.md % 256)]⟩⟩
  | 0x020 => some ⟨.r .tzero, plain .t .z .z .z⟩
  | 0x021 => some ⟨.r .tcfg, plain .t .any .z .z⟩
  | 0x022 => some ⟨.r (fun op => if op.md.getLsbD 0 then .trowW op else .trow op), rowColSig⟩
  | 0x023 => some ⟨.r (fun op => if op.md.getLsbD 0 then .tcolW op else .tcol op), rowColSig⟩
  | 0x024 => some ⟨.r .tld, fun r => ⟨.t, .any, .any, .z, moveWhy r.md⟩⟩
  | 0x025 => some ⟨.r .tst, fun r => ⟨.z, .any, .any, .t, moveWhy r.md⟩⟩
  | 0x026 => some ⟨.r .tdrain, fun r => ⟨.z, .t, .any, .any, zero4 (r.md / 2)⟩⟩
  | 0x027 => some ⟨.r .tsave, plain .z .t .z .z⟩
  | 0x028 => some ⟨.r .tstat, fun r => ⟨.s, .t, .z, .z, zero4 (r.md / 2)⟩⟩
  | _ => none

/-! L slot (R66). -/

/-- LDX and LDG: VEC must be zero, and SZ is not 11 (R177). -/
def perLaneLoad : Raw → Sig := fun r =>
  ⟨.qv, .any, .any, .z, low [smodWhy false r.md, bad5 (decide (bitsOf r.md 7 6 ≠ 3)), bad5 (decide (r.dst / 2 % 2 = 0))]⟩

def rowL (o : Nat) : Option Row :=
  match o with
  | 0x001 => some ⟨.ri .lda, fun r => ⟨.qv, .any, .z, .z, if r.dst / 2 % 2 = 1 then vmodWhy r.md else smodWhy false r.md⟩⟩
  | 0x002 => some ⟨.r .ldw, plain .q .w .z .z⟩
  | 0x003 => some ⟨.r .lds, fun r => ⟨.s, .any, .any, .z, low [smodWhy false r.md, bad5 (decide (r.md / 256 = 0))]⟩⟩
  | 0x004 => some ⟨.r .ldv, fun r => ⟨.v, .any, .any, .z, low [vmodWhy r.md, bad5 (decide (r.md / 256 = 0))]⟩⟩
  | 0x005 => some ⟨.r .ldg, perLaneLoad⟩
  | 0x006 => some ⟨.r .ldx, perLaneLoad⟩
  | 0x008 => some ⟨.r .pft, fun r => ⟨.z, .any, .any, .z,
      low [zero4 (bitsOf r.md 7 2), bad5 (decide (r.md / 256 = 3) && decide (r.md % 4 < 2))]⟩⟩
  | 0x009 => some ⟨.r .qdrop, fun r => ⟨.q, .z, .z, .z,
      low [zero4 (bitsOf r.md 9 6), bad5 (decide (1 ≤ r.md % 64) && decide (r.md % 64 ≤ 32))]⟩⟩
  | 0x010 => some ⟨.r .wset, fun r => ⟨.w, .any, .any, .z, low [zero4 (r.md % 256), bad5 (decide (r.md / 256 = 0))]⟩⟩
  | 0x011 => some ⟨.r .wadv, plain .z .w .any .z⟩
  | 0x012 => some ⟨.r .csel, fun r => ⟨.s, .w, .z, .z, zero4 (r.md / 8)⟩⟩
  | _ => none

/-! T slot (R67). -/

def atomSig (cas u word : Bool) : Raw → Sig := fun r => ⟨.z, .any, if cas then .any else .z, .any, atomWhy u word r.md⟩

def rowT (o : Nat) : Option Row :=
  match o with
  | 0x001 => some ⟨.r .sts, fun r => ⟨.z, .any, .any, .any, smodWhy true r.md⟩⟩
  | 0x002 => some ⟨.r .stv, fun r => ⟨.z, .any, .any, .any, vmodWhy r.md⟩⟩
  | 0x003 => some ⟨.r .stw, plain .z .w .z .any⟩
  | 0x004 => some ⟨.r .stg, fun r => ⟨.z, .any, .any, .any, low [smodWhy true r.md, bad5 (decide (bitsOf r.md 7 6 ≠ 3))]⟩⟩
  | 0x005 => some ⟨.r .stp, fun r => ⟨.z, .any, .any, .p, low [smodWhy true r.md, bad5 (decide (bitsOf r.md 7 6 = 3))]⟩⟩
  | 0x010 => some ⟨.r .aadd, atomSig false false false⟩
  | 0x011 => some ⟨.r .afadd, atomSig false false true⟩
  | 0x012 => some ⟨.r .amin, atomSig false true false⟩
  | 0x013 => some ⟨.r .amax, atomSig false true false⟩
  | 0x014 => some ⟨.r .axch, atomSig false false false⟩
  | 0x015 => some ⟨.r .acas, atomSig true false false⟩
  | 0x016 => some ⟨.r .aand, atomSig false false false⟩
  | 0x017 => some ⟨.r .aor, atomSig false false false⟩
  | 0x018 => some ⟨.r .axor, atomSig false false false⟩
  | _ => none

/-- The opcode map of a slot of the R form. -/
def rowOf (sl : SlotId) (o : Nat) : Option Row :=
  match sl with
  | .s => rowS o
  | .a => rowV .a o
  | .b => rowV .b o
  | .m => rowM o
  | .l => rowL o
  | .t => rowT o
  | _ => none

/-- The lowest reason that the fields of one slot give under an opcode. -/
def Row.reason (w : Row) (nw : Bool) (r : Raw) : Nat :=
  let g := w.sig r
  low [dstReason g.dst r.dst, selReason g.a r.xa, selReason g.b r.xb, selReason g.c r.xc, nwReason g.dst nw r.dst, g.why]

/-! C slot (R68, R289, R410 to R415, R428). -/

/-- Roles of CA, CB and CC: unused, an s register, a handle (R61). -/
inductive CRole where
  | z | s | h
  deriving DecidableEq, Repr

def cReason (r : CRole) (k : Nat) : Nat :=
  match r with
  | .z => zero4 k
  | .s => bad6 (decide (k < 64))
  | .h => bad6 (decide (k < 128))

structure CRow where
  make : COp → Instr
  a : Nat → CRole
  b : Nat → CRole
  c : CRole
  why : Nat → Nat
  /-- the feature without which the opcode is undefined (R363) -/
  feat : Option Nat

def always (r : CRole) : Nat → CRole := fun _ => r

def rowC (o : Nat) : Option CRow :=
  match o with
  | 0x01 => some ⟨.copy, always .s, always .s, .s, fun m => zero4 (m / 4), none⟩
  | 0x02 => some ⟨.copym, always .s, always .s, .s, fun m => zero4 (m / 4), none⟩
  | 0x03 => some ⟨.gath, always .s, always .z, .z, fun m => zero4 (m / 4), none⟩
  | 0x04 => some ⟨.scad, always .s, always .z, .z, fun m => zero4 (m / 4), none⟩
  | 0x05 => some ⟨.hrel, always .z, always .z, .h, zero4, none⟩
  | 0x06 => some ⟨.taskl, always .s, always .s, .z, fun m => zero4 (m / 2), none⟩
  | 0x07 => some ⟨fun op => if op.md.toNat % 4 = 0 then .tasksSetpri op else if op.md.toNat % 4 = 1 then .tasksSusp op else .tasksResume op,
      always .s, always .z, .z, fun m => low [zero4 (m / 16), if m % 4 = 0 then 0 else zero4 (m / 4 % 4),
        bad5 (decide (m % 4 ≠ 3) && (decide (m % 4 ≠ 0) || decide (m / 4 % 4 ≠ 0)))], none⟩
  | 0x08 => some ⟨.canc, always .s, fun m => if m % 8 = 0 then .s else .z, .z,
      fun m => low [zero4 (m / 8), bad5 (decide (m % 8 < 5))], none⟩
  | 0x09 => some ⟨.tmrk, always .s, always .s, .z, fun _ => 0, none⟩
  | 0x20 => some ⟨.pkb, always .s, always .s, .z, fun m => low [zero4 (m / 32), bad5 (decide (m / 8 % 4 ≠ 3))], some 4⟩
  | 0x21 => some ⟨.pksnd, fun m => if m / 8 % 2 = 1 then .s else .z, fun m => if m / 16 % 2 = 1 then .s else .z, .z,
      fun m => zero4 (m / 64), some 4⟩
  | 0x22 => some ⟨fun op => match op.md.toNat % 4 with
        | 0 => .pkprkCopy op | 1 => .pkprkTake op | 2 => .pkprkRetry op | _ => .pkprkDrop op,
      fun m => if m % 4 < 2 then .s else .z, always .s, .h,
      fun m => low [zero4 (m / 1024), if m % 4 = 2 then 0 else zero4 (m / 16 % 64),
        if m % 4 < 2 then bad5 (decide (m / 4 % 4 ≠ 3)) else zero4 (m / 4 % 4)], some 4⟩
  | 0x23 => some ⟨.rld, always .s, always .s, .h, fun m => zero4 (m / 1024), some 3⟩
  | 0x24 => some ⟨.rst, always .s, always .s, .h, fun m => zero4 (m / 1024), some 3⟩
  | 0x25 => some ⟨.faa, always .s, always .s, .s, fun m => zero4 (m / 2), some 3⟩
  | 0x26 => some ⟨.ffn, always .s, always .s, .h, zero4, some 3⟩
  | 0x40 => some ⟨.coll, always .s, always .z, .z, fun m => zero4 (m / 4), some 5⟩
  | 0x41 => some ⟨.resh, always .s, always .z, .z, fun m => zero4 (m / 4), some 5⟩
  | 0x42 => some ⟨.cbkt, always .s, always .s, .z, zero4, some 5⟩
  | 0x43 => some ⟨.cwgt, always .s, always .z, .z, zero4, some 5⟩
  | _ => none

def CRow.reason (w : CRow) (a b c md : Nat) : Nat :=
  low [cReason (w.a md) a, cReason (w.b md) b, cReason w.c c, w.why md]

/-! Y slot (R69, R129 to R138, R237, R238, R242). -/

structure YRow where
  make : YOp → Instr
  /-- the lowest reason that YR and IMM13 give -/
  why : Nat → Nat → Nat

def yNone : Nat → Nat → Nat := fun y i => low [zero4 y, zero4 i]

def rowY (o : Nat) : Option YRow :=
  match o with
  | 0x01 => some ⟨.waith, fun y i => low [bad6 (decide (y < 128)), zero4 (i / 4)]⟩
  | 0x02 => some ⟨.waitc, fun y i => low [bad6 (decide (y < 64)), zero4 (i / 4096)]⟩
  | 0x03 => some ⟨.acq, yNone⟩
  | 0x04 => some ⟨.rel, yNone⟩
  | 0x05 => some ⟨.fence, yNone⟩
  | 0x06 => some ⟨.fencex, fun y i => low [zero4 y, zero4 (i / 64),
      bad5 (decide (i % 8 < 6) && decide (i / 8 % 8 < 6) && decide (i % 8 ≠ i / 8 % 8))]⟩
  | 0x07 => some ⟨.chk, fun y i => low [if (chkFirst (BitVec.ofNat 8 y)).isSome then 0 else 2, selReason .any (i / 8),
      bad5 (decide (i % 8 < 6))]⟩
  | 0x08 => some ⟨.yld, yNone⟩
  | 0x09 => some ⟨.brk, fun y _ => zero4 y⟩
  | 0x0A => some ⟨.trig, fun y i => low [bad6 (decide (y < 64)), zero4 (i / 256), bad5 (decide (i % 256 ≠ 0))]⟩
  | 0x0B => some ⟨.fpclr, fun y i => low [zero4 y, zero4 (i / 128)]⟩
  | 0x0C => some ⟨.fpsnap, fun y i => low [bad6 (decide (y % 2 = 0) && decide (2 ≤ y) && decide (y ≤ 62)), zero4 (i / 2)]⟩
  | 0x10 => some ⟨.bara, fun y i => low [bad6 (decide (y < 16)), zero4 (i / 64), bad5 (decide (1 ≤ i % 64) && decide (i % 64 ≤ 40))]⟩
  | 0x11 => some ⟨.barw, fun y i => low [bad6 (decide (y < 16)), zero4 i]⟩
  | 0x12 => some ⟨.rdv, yNone⟩
  | _ => none

/-! What an instruction is to the encoder: a slot with its opcode and operands, a packet instruction, or no code at all. -/

inductive Code where
  | r (sl : SlotId) (o : BitVec 10) (op : ROp)
  | ri (sl : SlotId) (o : BitVec 10) (op : RIOp)
  | i32 (sl : SlotId) (o : BitVec 10) (op : I32Op)
  | c (o : BitVec 8) (op : COp)
  | y (o : BitVec 6) (op : YOp)
  | pkt (w : BitVec 16)
  | event
  deriving DecidableEq, Repr

/-- The fields of an R operand record, as the encoding numbers them. -/
def rawR (op : ROp) : Raw :=
  ⟨op.dst.toNat, (selBits op.xa).toNat, (selBits op.xb).toNat, (selBits op.xc).toNat, 0, op.md.toNat, 0⟩
def rawRI (op : RIOp) : Raw := ⟨op.dst.toNat, (selBits op.xa).toNat, 0, 0, op.imm.toNat, op.md.toNat, 0⟩
def rawI32 (op : I32Op) : Raw := ⟨op.dst.toNat, 0, 0, 0, op.imm.toNat, op.md.toNat, 0⟩

/-- How an instruction is encoded (R63 to R69, R393 to R400). -/
def instrCode (i : Instr) : Code :=
  match i with
  | .add op => .r .s 0x001 op
  | .sub op => .r .s 0x002 op
  | .addi op => .ri .s 0x003 op
  | .mul op => .r .s 0x004 op
  | .mulh op => .r .s 0x005 op
  | .mulhu op => .r .s 0x006 op
  | .div op => .r .s 0x007 op
  | .divu op => .r .s 0x008 op
  | .rem op => .r .s 0x009 op
  | .and op => .r .s 0x010 op
  | .or op => .r .s 0x011 op
  | .xor op => .r .s 0x012 op
  | .andn op => .r .s 0x013 op
  | .shl op => .r .s 0x014 op
  | .shr op => .r .s 0x015 op
  | .sra op => .r .s 0x016 op
  | .rot op => .r .s 0x017 op
  | .clz op => .r .s 0x018 op
  | .popc op => .r .s 0x019 op
  | .min op => .r .s 0x020 op
  | .max op => .r .s 0x021 op
  | .minu op => .r .s 0x022 op
  | .maxu op => .r .s 0x023 op
  | .sel op => .r .s 0x024 op
  | .cmp op => .r .s 0x028 op
  | .pand op => .r .s 0x030 op
  | .por op => .r .s 0x031 op
  | .pxor op => .r .s 0x032 op
  | .pnot op => .r .s 0x033 op
  | .movi op => .i32 .s 0x040 op
  | .movhi op => .i32 .s 0x041 op
  | .lea op => .ri .s 0x042 op
  | .bfx op => .r .s 0x043 op
  | .bfi op => .r .s 0x044 op
  | .csrr op => .ri .s 0x050 op
  | .csrw op => .ri .s 0x051 op
  | .br op => .i32 .s 0x060 op
  | .brc op => .ri .s 0x061 op
  | .call op => .i32 .s 0x062 op
  | .ret op => .r .s 0x063 op
  | .loopm op => .ri .s 0x064 op
  | .brlc op => .i32 .s 0x065 op
  | .trap op => .i32 .s 0x070 op
  | .endTask op => .r .s 0x071 op
  | .eret op => .r .s 0x3F0 op
  | .xrd op => .ri .s 0x3F1 op
  | .xwr op => .ri .s 0x3F2 op
  | .omclaim op => .r .m 0x001 op
  | .omrel op => .r .m 0x002 op
  | .omld op => .r .m 0x003 op
  | .omst op => .r .m 0x004 op
  | .mma op => .r .m 0x010 op
  | .mmaq op => .r .m 0x011 op
  | .tzero op => .r .m 0x020 op
  | .tcfg op => .r .m 0x021 op
  | .trowW op => .r .m 0x022 op
  | .trow op => .r .m 0x022 op
  | .tcolW op => .r .m 0x023 op
  | .tcol op => .r .m 0x023 op
  | .tld op => .r .m 0x024 op
  | .tst op => .r .m 0x025 op
  | .tdrain op => .r .m 0x026 op
  | .tsave op => .r .m 0x027 op
  | .tstat op => .r .m 0x028 op
  | .lda op => .ri .l 0x001 op
  | .ldw op => .r .l 0x002 op
  | .lds op => .r .l 0x003 op
  | .ldv op => .r .l 0x004 op
  | .ldg op => .r .l 0x005 op
  | .ldx op => .r .l 0x006 op
  | .pft op => .r .l 0x008 op
  | .qdrop op => .r .l 0x009 op
  | .wset op => .r .l 0x010 op
  | .wadv op => .r .l 0x011 op
  | .csel op => .r .l 0x012 op
  | .sts op => .r .t 0x001 op
  | .stv op => .r .t 0x002 op
  | .stw op => .r .t 0x003 op
  | .stg op => .r .t 0x004 op
  | .stp op => .r .t 0x005 op
  | .aadd op => .r .t 0x010 op
  | .afadd op => .r .t 0x011 op
  | .amin op => .r .t 0x012 op
  | .amax op => .r .t 0x013 op
  | .axch op => .r .t 0x014 op
  | .acas op => .r .t 0x015 op
  | .aand op => .r .t 0x016 op
  | .aor op => .r .t 0x017 op
  | .axor op => .r .t 0x018 op
  | .vadd u op => .r (unitSlot u) 0x001 op
  | .vsub u op => .r (unitSlot u) 0x002 op
  | .vmul u op => .r (unitSlot u) 0x003 op
  | .vfma u op => .r (unitSlot u) 0x004 op
  | .vfms u op => .r (unitSlot u) 0x005 op
  | .vnfma u op => .r (unitSlot u) 0x006 op
  | .vmin u op => .r (unitSlot u) 0x007 op
  | .vmax u op => .r (unitSlot u) 0x008 op
  | .vabs u op => .r (unitSlot u) 0x009 op
  | .vneg u op => .r (unitSlot u) 0x00A op
  | .vsf u op => .r (unitSlot u) 0x010 op
  | .vcvt u op => .r (unitSlot u) 0x018 op
  | .vqnt u op => .r (unitSlot u) 0x019 op
  | .vdqnt u op => .r (unitSlot u) 0x01A op
  | .vand u op => .r (unitSlot u) 0x020 op
  | .vor u op => .r (unitSlot u) 0x021 op
  | .vxor u op => .r (unitSlot u) 0x022 op
  | .vnot u op => .r (unitSlot u) 0x023 op
  | .vshl u op => .r (unitSlot u) 0x024 op
  | .vshr u op => .r (unitSlot u) 0x025 op
  | .vsra u op => .r (unitSlot u) 0x026 op
  | .vcmp u op => .r (unitSlot u) 0x028 op
  | .vsel u op => .r (unitSlot u) 0x029 op
  | .vmov u op => .r (unitSlot u) 0x02A op
  | .vbcast u op => .r (unitSlot u) 0x02B op
  | .viota u op => .r (unitSlot u) 0x02C op
  | .vshuf u op => .r (unitSlot u) 0x030 op
  | .vrowm u op => .r (unitSlot u) 0x031 op
  | .vcolm u op => .r (unitSlot u) 0x032 op
  | .vtrn u op => .r (unitSlot u) 0x033 op
  | .vred u op => .r (unitSlot u) 0x038 op
  | .vscan u op => .r (unitSlot u) 0x039 op
  | .vdot2 u op => .r (unitSlot u) 0x03C op
  | .vext u op => .r (unitSlot u) 0x040 op
  | .vins u op => .r (unitSlot u) 0x041 op
  | .vlds u op => .r (unitSlot u) 0x042 op
  | .vsts u op => .r (unitSlot u) 0x043 op
  | .sadd u op => .r (unitSlot u) 0x048 op
  | .ssub u op => .r (unitSlot u) 0x049 op
  | .smul u op => .r (unitSlot u) 0x04A op
  | .smin u op => .r (unitSlot u) 0x04B op
  | .smax u op => .r (unitSlot u) 0x04C op
  | .sand u op => .r (unitSlot u) 0x04D op
  | .sor u op => .r (unitSlot u) 0x04E op
  | .sxor u op => .r (unitSlot u) 0x04F op
  | .dnrm u op => .r (unitSlot u) 0x080 op
  | .dexp u op => .r (unitSlot u) 0x081 op
  | .ddot u op => .r (unitSlot u) 0x082 op
  | .ddot8 u op => .r (unitSlot u) 0x083 op
  | .dscl u op => .r (unitSlot u) 0x084 op
  | .dnget u op => .r (unitSlot u) 0x085 op
  | .dnset u op => .r (unitSlot u) 0x086 op
  | .dadd u op => .r (unitSlot u) 0x087 op
  | .dsub u op => .r (unitSlot u) 0x088 op
  | .dneg u op => .r (unitSlot u) 0x089 op
  | .dmulv u op => .r (unitSlot u) 0x08A op
  | .dlerp u op => .r (unitSlot u) 0x08B op
  | .dmov u op => .r (unitSlot u) 0x08C op
  | .dcvt u op => .r (unitSlot u) 0x08D op
  | .copy op => .c 0x01 op
  | .copym op => .c 0x02 op
  | .gath op => .c 0x03 op
  | .scad op => .c 0x04 op
  | .hrel op => .c 0x05 op
  | .taskl op => .c 0x06 op
  | .tasksSetpri op => .c 0x07 op
  | .tasksSusp op => .c 0x07 op
  | .tasksResume op => .c 0x07 op
  | .canc op => .c 0x08 op
  | .tmrk op => .c 0x09 op
  | .pkb op => .c 0x20 op
  | .pksnd op => .c 0x21 op
  | .pkprkCopy op => .c 0x22 op
  | .pkprkTake op => .c 0x22 op
  | .pkprkRetry op => .c 0x22 op
  | .pkprkDrop op => .c 0x22 op
  | .rld op => .c 0x23 op
  | .rst op => .c 0x24 op
  | .faa op => .c 0x25 op
  | .ffn op => .c 0x26 op
  | .coll op => .c 0x40 op
  | .resh op => .c 0x41 op
  | .cbkt op => .c 0x42 op
  | .cwgt op => .c 0x43 op
  | .waith op => .y 0x01 op
  | .waitc op => .y 0x02 op
  | .acq op => .y 0x03 op
  | .rel op => .y 0x04 op
  | .fence op => .y 0x05 op
  | .fencex op => .y 0x06 op
  | .chk op => .y 0x07 op
  | .yld op => .y 0x08 op
  | .brk op => .y 0x09 op
  | .trig op => .y 0x0A op
  | .fpclr op => .y 0x0B op
  | .fpsnap op => .y 0x0C op
  | .bara op => .y 0x10 op
  | .barw op => .y 0x11 op
  | .rdv op => .y 0x12 op
  | .pktPshr n => .pkt (BitVec.ofNat 16 (0x0400 + n.toNat))
  | .pktPopr n => .pkt (BitVec.ofNat 16 (0x0800 + n.toNat))
  | .pktPshi i => .pkt (BitVec.ofNat 16 (0x0C00 + i.toNat))
  | .pktDup => .pkt (BitVec.ofNat 16 (0x1000))
  | .pktSwp => .pkt (BitVec.ofNat 16 (0x1400))
  | .pktDrp => .pkt (BitVec.ofNat 16 (0x1800))
  | .pktAdd => .pkt (BitVec.ofNat 16 (0x2000))
  | .pktSub => .pkt (BitVec.ofNat 16 (0x2400))
  | .pktMin => .pkt (BitVec.ofNat 16 (0x2800))
  | .pktMax => .pkt (BitVec.ofNat 16 (0x2C00))
  | .pktAnd => .pkt (BitVec.ofNat 16 (0x3000))
  | .pktOr => .pkt (BitVec.ofNat 16 (0x3400))
  | .pktXor => .pkt (BitVec.ofNat 16 (0x3800))
  | .pktShl => .pkt (BitVec.ofNat 16 (0x3C00))
  | .pktShr => .pkt (BitVec.ofNat 16 (0x4000))
  | .pktCeq => .pkt (BitVec.ofNat 16 (0x4400))
  | .pktClt => .pkt (BitVec.ofNat 16 (0x4800))
  | .pktLdw => .pkt (BitVec.ofNat 16 (0x6000))
  | .pktAdw => .pkt (BitVec.ofNat 16 (0x6400))
  | .pktXcw => .pkt (BitVec.ofNat 16 (0x6800))
  | .pktTsc => .pkt (BitVec.ofNat 16 (0x7000))
  | .pktInc n => .pkt (BitVec.ofNat 16 (0x7400 + n.toNat))
  | .pktNode => .pkt (BitVec.ofNat 16 (0x7800))
  | .pktHops => .pkt (BitVec.ofNat 16 (0x7C00))
  | .pktPld w => .pkt (BitVec.ofNat 16 (0x8000 + w.toNat))
  | .pktPaccI32 w => .pkt (BitVec.ofNat 16 (0x8400 + w.toNat))
  | .pktPaccF32 w => .pkt (BitVec.ofNat 16 (0x8480 + w.toNat))
  | .pktPaccMax w => .pkt (BitVec.ofNat 16 (0x8500 + w.toNat))
  | .pktJz t => .pkt (BitVec.ofNat 16 (0xA000 + t.toNat))
  | .pktJnz t => .pkt (BitVec.ofNat 16 (0xA400 + t.toNat))
  | .pktJmp t => .pkt (BitVec.ofNat 16 (0xA800 + t.toNat))
  | .pktRoutePort n d => .pkt (BitVec.ofNat 16 (0xC000 + n.toNat * 16 + d.toNat))
  | .pktRouteAuto n => .pkt (BitVec.ofNat 16 (0xC006 + n.toNat * 16))
  | .pktRoutePop n => .pkt (BitVec.ofNat 16 (0xC007 + n.toNat * 16))
  | .pktClone n m => .pkt (BitVec.ofNat 16 (0xC400 + n.toNat * 64 + m.toNat))
  | .pktDlvrCtr => .pkt (BitVec.ofNat 16 (0xC800))
  | .pktDlvrHnd => .pkt (BitVec.ofNat 16 (0xC801))
  | .pktDlvrNode => .pkt (BitVec.ofNat 16 (0xC802))
  | .pktDlvrGraph => .pkt (BitVec.ofNat 16 (0xC803))
  | .pktPark n => .pkt (BitVec.ofNat 16 (0xCC00 + n.toNat))
  | .pktDrop => .pkt (BitVec.ofNat 16 (0xD000))
  | _ => .event

end Sys2Proof.Machine
end

