-- ==== Sys2Proof/WellFormed.lean ====
section
/-! DEFINITION. Well-formed instructions: those that an encoding exists for.  The checks are those of R72 which one slot's bits
decide, of the opcode maps in Sys2Proof/Machine/Legal.lean. -/

namespace Sys2Proof

open Machine

/-- Directions of a ROUTE to a port (R397): 6 and 7 are the other two forms. -/
def pktWellFormed : Instr → Bool
  | .pktRoutePort _ d => decide (d.toNat < 6)
  | _ => true

/-- An instruction that its slot's encoding admits; a machine event has no encoding and is well formed as it stands. -/
def WellFormed (i : Instr) : Bool :=
  match instrCode i with
  | .r sl o op =>
    match rowOf sl o.toNat with
    | some w => (match w.make with | .r f => decide (f op = i) | _ => false) && w.reason op.nw (rawR op) == 0
    | none => false
  | .ri sl o op =>
    match rowOf sl o.toNat with
    | some w => (match w.make with | .ri f => decide (f op = i) | _ => false) && w.reason op.nw (rawRI op) == 0
    | none => false
  | .i32 sl o op =>
    match rowOf sl o.toNat with
    | some w => (match w.make with | .i32 f => decide (f op = i) | _ => false) && w.reason op.nw (rawI32 op) == 0
    | none => false
  | .c o op =>
    match rowC o.toNat with
    | some w => decide (w.make op = i) && w.reason op.ca.toNat op.cb.toNat op.cc.toNat op.md.toNat == 0
    | none => false
  | .y o op =>
    match rowY o.toNat with
    | some w => decide (w.make op = i) && w.why op.yr.toNat op.imm.toNat == 0
    | none => false
  | .pkt _ => pktWellFormed i
  | .event => true

end Sys2Proof
end

