-- ==== Sys2Proof/Decode.lean ====
section
/-! DEFINITION. The decoder of bundles (R46 to R73) and of packet instructions (R393 to R400), total on any bits, rejecting by
part and reason; after it the encoder. -/

namespace Sys2Proof

open Machine

/-! Slots. -/

/-- Lowest bundle bit and width of a slot (R46). -/
def slotBase : SlotId → Nat
  | .s => 32 | .a => 96 | .b => 160 | .m => 224 | .l => 288 | .t => 352 | .c => 416 | .y => 464
def slotWidth : SlotId → Nat
  | .c => 48 | .y => 32 | _ => 64

def slots : List SlotId := [.s, .a, .b, .m, .l, .t, .c, .y]

/-- What the ILL checks need of the issuing context: its mode, the no-matrix flag, the accepted features (R444), and SHAPE's element
type, 0 where it is not known (R139, log entry 10). -/
structure Attr where
  sup : Bool
  nomx : Bool
  feat : BitVec 256
  etype : Nat
  deriving DecidableEq, Repr

/-- A task that no attribute hinders. -/
def Attr.any : Attr := ⟨true, false, BitVec.allOnes 256, 0⟩

/-- A decoded slot: its instruction unless a reason stands, the lowest reason, and the registers it writes. -/
structure SlotDec where
  op : Option Instr
  why : Nat
  writes : List (Nat × Nat)
  deriving DecidableEq, Repr

/-- The fields of the three 64-bit forms (R52, R53). -/
def fieldsR (et w : Nat) : Raw := ⟨bitsOf w 47 40, bitsOf w 39 30, bitsOf w 29 20, bitsOf w 19 10, 0, bitsOf w 9 0, et⟩
def fieldsRI (w : Nat) : Raw := ⟨bitsOf w 47 40, bitsOf w 39 30, 0, 0, bitsOf w 29 10, bitsOf w 9 0, 0⟩
def fieldsI32 (w : Nat) : Raw := ⟨bitsOf w 47 40, 0, 0, 0, bitsOf w 39 8, bitsOf w 7 0, 0⟩

/-- A selector of ten bits; a reserved pattern, which a reason already names, reads as register 0. -/
def selAt (bits : Nat) : Sel := (selOfBits (BitVec.ofNat 10 bits)).getD (.reg 0)

def decR (w : Nat) : ROp where
  pred := BitVec.ofNat 4 (bitsOf w 53 50)
  pn := bitsOf w 49 49 == 1
  nw := bitsOf w 48 48 == 1
  dst := BitVec.ofNat 8 (bitsOf w 47 40)
  xa := selAt (bitsOf w 39 30)
  xb := selAt (bitsOf w 29 20)
  xc := selAt (bitsOf w 19 10)
  md := BitVec.ofNat 10 (bitsOf w 9 0)

def decRI (w : Nat) : RIOp where
  pred := BitVec.ofNat 4 (bitsOf w 53 50)
  pn := bitsOf w 49 49 == 1
  nw := bitsOf w 48 48 == 1
  dst := BitVec.ofNat 8 (bitsOf w 47 40)
  xa := selAt (bitsOf w 39 30)
  imm := BitVec.ofNat 20 (bitsOf w 29 10)
  md := BitVec.ofNat 10 (bitsOf w 9 0)

def decI32 (w : Nat) : I32Op where
  pred := BitVec.ofNat 4 (bitsOf w 53 50)
  pn := bitsOf w 49 49 == 1
  nw := bitsOf w 48 48 == 1
  dst := BitVec.ofNat 8 (bitsOf w 47 40)
  imm := BitVec.ofNat 32 (bitsOf w 39 8)
  md := BitVec.ofNat 8 (bitsOf w 7 0)

def decC (w : Nat) : COp where
  pred := BitVec.ofNat 4 (bitsOf w 39 36)
  pn := bitsOf w 35 35 == 1
  ca := BitVec.ofNat 8 (bitsOf w 34 27)
  cb := BitVec.ofNat 8 (bitsOf w 26 19)
  cc := BitVec.ofNat 8 (bitsOf w 18 11)
  md := BitVec.ofNat 11 (bitsOf w 10 0)

def decY (w : Nat) : YOp where
  pred := BitVec.ofNat 4 (bitsOf w 25 22)
  pn := bitsOf w 21 21 == 1
  yr := BitVec.ofNat 8 (bitsOf w 20 13)
  imm := BitVec.ofNat 13 (bitsOf w 12 0)

/-- Registers that DST writes (R60): file and architectural number.  Files: 0 s, 1 v, 2 p, 3 pair, 4 w. -/
def dstWrites (r : DRole) (nw : Bool) (k : Nat) : List (Nat × Nat) :=
  if nw then []
  else match r with
    | .s => if k = 0 then [] else [(0, k)]
    | .v => [(1, k)]
    | .pair => [(1, k), (1, k + 1)]
    | .p => if k = 0 then [] else [(2, k)]
    | .d | .n => [(3, k)]
    | .w => [(4, k)]
    | _ => []

/-- The register of the issuing partition that an XWR to partition X writes (R125, R126): only the supervisor, in partition X, issues
one. -/
def xwrWrites (imm : Nat) : List (Nat × Nat) :=
  let r := bitsOf imm 16 0
  if bitsOf imm 19 17 ≠ 4 then []
  else if r < 0x1000 then [(5, r)]
  else if r < 0x1040 then (if r = 0x1000 then [] else [(0, r - 0x1000)])
  else if r < 0x1050 then (if r = 0x1040 then [] else [(2, r - 0x1040)])
  else if 0x1080 ≤ r ∧ r < 0x10A0 then [(3, r - 0x1080)]
  else if 0x2000 ≤ r ∧ r < 0x2800 then [(1, (r - 0x2000) / 32)]
  else if 0x3000 ≤ r ∧ r < 0x3400 then [(3, (r - 0x3000) / 32)]
  else []

/-- Registers beside DST (R117, R121, R122, R126, R183, R198): file 5 holds the control registers; LDW, WADV and STW step their walker, and
TCFG writes its tile's TSHP. -/
def extraWrites (sl : SlotId) (o : Nat) (r : Raw) : List (Nat × Nat) :=
  let stages := [(5, 0x12), (5, 0x13), (2, 12), (2, 13), (2, 14), (2, 15)]
  match sl, o with
  | .s, 0x051 => [(5, r.imm)]
  | .s, 0x064 => stages
  | .s, 0x065 => (5, 0x10) :: (5, 0x11) :: stages
  | .s, 0x3F2 => xwrWrites r.imm
  | .m, 0x021 => [(5, 8 + r.dst)]
  | .l, 0x002 => [(4, r.xa)]
  | .l, 0x011 => [(4, r.xa)]
  | .t, 0x003 => [(4, r.xa)]
  | _, _ => []

/-- Reasons that the task's attributes add (R72, R363). -/
def attrReason (q : Attr) (sl : SlotId) (o : Nat) : Nat :=
  match sl with
  | .s => if decide (0x3F0 ≤ o) && !q.sup then 9 else 0
  | .m => if q.nomx then 8 else 0
  | _ => 0

/-- A slot of the R, RI or I32 form. -/
def decWide (q : Attr) (sl : SlotId) (w : Nat) : SlotDec :=
  let o := bitsOf w 63 54
  if w = 0 then ⟨none, 0, []⟩
  else if o = 0 then ⟨none, 4, []⟩
  else match rowOf sl o with
    | none => ⟨none, 1, []⟩
    | some row =>
      let (i, r) : Instr × Raw := match row.make with
        | .r f => (f (decR w), fieldsR q.etype w)
        | .ri f => (f (decRI w), fieldsRI w)
        | .i32 f => (f (decI32 w), fieldsI32 w)
      let nw := bitsOf w 48 48 == 1
      let why := low [row.reason nw r, attrReason q sl o]
      ⟨if why = 0 then some i else none, why, dstWrites (row.sig r).dst nw r.dst ++ extraWrites sl o r⟩

/-- The C slot (R61). -/
def decCmd (q : Attr) (w : Nat) : SlotDec :=
  let o := bitsOf w 47 40
  if w = 0 then ⟨none, 0, []⟩
  else if o = 0 then ⟨none, 4, []⟩
  else match rowC o with
    | none => ⟨none, 1, []⟩
    | some row =>
      let f := match row.feat with
        | some b => if q.feat.getLsbD b then 0 else 1
        | none => 0
      let why := low [row.reason (bitsOf w 34 27) (bitsOf w 26 19) (bitsOf w 18 11) (bitsOf w 10 0), f]
      ⟨if why = 0 then some (row.make (decC w)) else none, why, []⟩

/-- Registers that a Y-slot operation writes: FPCLR the flag registers that it clears (R137), FPSNAP two scalars and, with clr, the flag
registers (R138). -/
def syncWrites (o y imm : Nat) : List (Nat × Nat) :=
  if o = 0x0B then (if bitsOf imm 5 0 = 0 then [] else [(5, 0x20)]) ++ if bitsOf imm 6 6 = 1 then [(5, 0x21)] else []
  else if o = 0x0C then (0, y) :: (0, y + 1) :: if bitsOf imm 0 0 = 1 then [(5, 0x20), (5, 0x21)] else []
  else []

/-- The Y slot (R62). -/
def decSync (w : Nat) : SlotDec :=
  let o := bitsOf w 31 26
  if w = 0 then ⟨none, 0, []⟩
  else if o = 0 then ⟨none, 4, []⟩
  else match rowY o with
    | none => ⟨none, 1, []⟩
    | some row =>
      let y := bitsOf w 20 13
      let why := row.why y (bitsOf w 12 0)
      ⟨if why = 0 then some (row.make (decY w)) else none, why, syncWrites o y (bitsOf w 12 0)⟩

def decSlot (q : Attr) (sl : SlotId) (w : Nat) : SlotDec :=
  match sl with
  | .c => decCmd q w
  | .y => decSync w
  | _ => decWide q sl w

/-! Bundles. -/

/-- A decoded bundle (R46, R48). -/
structure Bundle where
  gap : BitVec 3
  se : Bool
  sb : Bool
  scope : BitVec 3
  s : Option Instr
  a : Option Instr
  b : Option Instr
  m : Option Instr
  l : Option Instr
  t : Option Instr
  c : Option Instr
  y : Option Instr
  deriving DecidableEq, Repr

/-- A legal bundle, or the first offending part with its lowest reason (R73). -/
inductive Decoded where
  | bundle (b : Bundle)
  | ill (part reason : Nat)
  deriving DecidableEq, Repr

/-- Reasons of the header, and of bits 511:496 (R48, R72). -/
def headReason (w : Nat) : Nat :=
  low [if bitsOf w 2 0 < 5 then 0 else 3, zero4 (bitsOf w 31 8), zero4 (bitsOf w 511 496)]

/-- A part's reasons with reason 0x07 where a later part writes one of its registers (R60, R73). -/
def withDoubles : List SlotDec → List Nat
  | [] => []
  | d :: t => low [d.why, if d.writes.any (fun x => t.any fun e => e.writes.contains x) then 7 else 0] :: withDoubles t

/-- The first part with a reason, parts numbered from n. -/
def firstBad (n : Nat) : List Nat → Option (Nat × Nat)
  | [] => none
  | x :: t => if x = 0 then firstBad (n + 1) t else some (n, x)

/-- END and ERET, S opcodes 0x071 and 0x3F0, stand in a bundle with SE = 1 only, whatever other reasons their slot has (R73, R124,
R127). -/
def endReason (se : Bool) (o : Nat) : Nat :=
  if !se && (o == 0x071 || o == 0x3F0) then 5 else 0

def decodeBundle (q : Attr) (w : BundleWord) : Decoded :=
  let n := w.toNat
  let d (sl : SlotId) : SlotDec := decSlot q sl (n / 2 ^ slotBase sl % 2 ^ slotWidth sl)
  let se := bitsOf n 4 4 == 1
  let ds := d .s
  let ds := { ds with why := low [ds.why, endReason se (bitsOf (n / 2 ^ slotBase .s) 63 54)] }
  let ds : List SlotDec := [ds, d .a, d .b, d .m, d .l, d .t, d .c, d .y]
  match firstBad 0 (headReason n :: withDoubles ds) with
  | some (p, r) => .ill p r
  | none => .bundle {
      gap := BitVec.ofNat 3 (bitsOf n 7 5), se := se, sb := bitsOf n 3 3 == 1, scope := BitVec.ofNat 3 (bitsOf n 2 0)
      s := (d .s).op, a := (d .a).op, b := (d .b).op, m := (d .m).op
      l := (d .l).op, t := (d .t).op, c := (d .c).op, y := (d .y).op }

/-- The legal operations of a bundle in the parts below one. -/
def opsBelow (q : Attr) (w : BundleWord) (p : Nat) : List (SlotId × Instr) :=
  slots.filterMap fun sl =>
    if sl.part < p then (decSlot q sl (w.toNat / 2 ^ slotBase sl % 2 ^ slotWidth sl)).op.map fun i => (sl, i) else none

/-! Packet instructions (R393). -/

def decodePacket (w : Nat) : Option Instr :=
  let x := w % 1024
  let z (i : Instr) : Option Instr := if x = 0 then some i else none
  let k (f : BitVec 2 → Instr) : Option Instr := if x < 4 then some (f (BitVec.ofNat 2 x)) else none
  let j (f : BitVec 4 → Instr) : Option Instr := if x < 16 then some (f (BitVec.ofNat 4 x)) else none
  match w / 1024 with
  | 0x01 => k .pktPshr
  | 0x02 => k .pktPopr
  | 0x03 => some (.pktPshi (BitVec.ofNat 10 x))
  | 0x04 => z .pktDup
  | 0x05 => z .pktSwp
  | 0x06 => z .pktDrp
  | 0x08 => z .pktAdd
  | 0x09 => z .pktSub
  | 0x0A => z .pktMin
  | 0x0B => z .pktMax
  | 0x0C => z .pktAnd
  | 0x0D => z .pktOr
  | 0x0E => z .pktXor
  | 0x0F => z .pktShl
  | 0x10 => z .pktShr
  | 0x11 => z .pktCeq
  | 0x12 => z .pktClt
  | 0x18 => z .pktLdw
  | 0x19 => z .pktAdw
  | 0x1A => z .pktXcw
  | 0x1C => z .pktTsc
  | 0x1D => k .pktInc
  | 0x1E => z .pktNode
  | 0x1F => z .pktHops
  | 0x20 => if x < 128 then some (.pktPld (BitVec.ofNat 7 x)) else none
  | 0x21 =>
    let f := BitVec.ofNat 7 x
    match x / 128 with
    | 0 => some (.pktPaccI32 f)
    | 1 => some (.pktPaccF32 f)
    | 2 => some (.pktPaccMax f)
    | _ => none
  | 0x28 => j .pktJz
  | 0x29 => j .pktJnz
  | 0x2A => j .pktJmp
  | 0x30 =>
    let n := BitVec.ofNat 4 (x / 16)
    if x / 256 ≠ 0 ∨ x / 8 % 2 ≠ 0 then none
    else if x % 8 = 6 then some (.pktRouteAuto n)
    else if x % 8 = 7 then some (.pktRoutePop n)
    else some (.pktRoutePort n (BitVec.ofNat 3 x))
  | 0x31 => some (.pktClone (BitVec.ofNat 4 (x / 64)) (BitVec.ofNat 6 x))
  | 0x32 =>
    match x with
    | 0 => some .pktDlvrCtr
    | 1 => some .pktDlvrHnd
    | 2 => some .pktDlvrNode
    | 3 => some .pktDlvrGraph
    | _ => none
  | 0x33 => if x < 128 then some (.pktPark (BitVec.ofNat 7 x)) else none
  | 0x34 => z .pktDrop
  | _ => none

/-! The encoder. -/

def bit (b : Bool) : Nat := if b then 1 else 0

/-- The common fields of the 64-bit forms above bit 40 (R52). -/
def encHead (o : BitVec 10) (pred : BitVec 4) (pn nw : Bool) (dst : BitVec 8) : Nat :=
  o.toNat * 2 ^ 54 + pred.toNat * 2 ^ 50 + bit pn * 2 ^ 49 + bit nw * 2 ^ 48 + dst.toNat * 2 ^ 40

def encR (o : BitVec 10) (op : ROp) : Nat :=
  encHead o op.pred op.pn op.nw op.dst + (selBits op.xa).toNat * 2 ^ 30 + (selBits op.xb).toNat * 2 ^ 20 +
    (selBits op.xc).toNat * 2 ^ 10 + op.md.toNat

def encRI (o : BitVec 10) (op : RIOp) : Nat :=
  encHead o op.pred op.pn op.nw op.dst + (selBits op.xa).toNat * 2 ^ 30 + op.imm.toNat * 2 ^ 10 + op.md.toNat

def encI32 (o : BitVec 10) (op : I32Op) : Nat :=
  encHead o op.pred op.pn op.nw op.dst + op.imm.toNat * 2 ^ 8 + op.md.toNat

def encC (o : BitVec 8) (op : COp) : Nat :=
  o.toNat * 2 ^ 40 + op.pred.toNat * 2 ^ 36 + bit op.pn * 2 ^ 35 + op.ca.toNat * 2 ^ 27 + op.cb.toNat * 2 ^ 19 +
    op.cc.toNat * 2 ^ 11 + op.md.toNat

def encY (o : BitVec 6) (op : YOp) : Nat :=
  o.toNat * 2 ^ 26 + op.pred.toNat * 2 ^ 22 + bit op.pn * 2 ^ 21 + op.yr.toNat * 2 ^ 13 + op.imm.toNat

/-- The bits of an instruction: its slot's, or those of a packet instruction; an event has none. -/
def encode (i : Instr) : Nat :=
  match instrCode i with
  | .r _ o op => encR o op
  | .ri _ o op => encRI o op
  | .i32 _ o op => encI32 o op
  | .c o op => encC o op
  | .y o op => encY o op
  | .pkt w => w.toNat
  | .event => 0

/-- The slot of an instruction, if it has one. -/
def slotOf (i : Instr) : Option SlotId :=
  match instrCode i with
  | .r sl _ _ => some sl
  | .ri sl _ _ => some sl
  | .i32 sl _ _ => some sl
  | .c _ _ => some .c
  | .y _ _ => some .y
  | _ => none

def encSlot (i : Option Instr) : Nat := match i with | some i => encode i | none => 0

/-- The 512 bits of a bundle (R46). -/
def encodeBundle (b : Bundle) : BundleWord :=
  BitVec.ofNat 512 (encSlot b.y * 2 ^ 464 + encSlot b.c * 2 ^ 416 + encSlot b.t * 2 ^ 352 + encSlot b.l * 2 ^ 288 +
    encSlot b.m * 2 ^ 224 + encSlot b.b * 2 ^ 160 + encSlot b.a * 2 ^ 96 + encSlot b.s * 2 ^ 32 +
    (b.gap.toNat * 32 + bit b.se * 16 + bit b.sb * 8 + b.scope.toNat))

def Bundle.op (b : Bundle) : SlotId → Option Instr
  | .s => b.s | .a => b.a | .b => b.b | .m => b.m | .l => b.l | .t => b.t | .c => b.c | .y => b.y

/-- The operations of a bundle in part order (R73). -/
def Bundle.ops (b : Bundle) : List Instr := [b.s, b.a, b.b, b.m, b.l, b.t, b.c, b.y].filterMap id

/-- What the host asks of the decoder: 16 bits are a packet instruction, 512 bits a bundle that holds one operation. -/
def decodeTableWord (nbits w : Nat) : Option Instr :=
  if nbits = 16 then decodePacket (w % 2 ^ 16)
  else if nbits = 512 then
    match decodeBundle Attr.any (BitVec.ofNat 512 w) with
    | .bundle b => match b.ops with
      | [i] => some i
      | _ => none
    | .ill _ _ => none
  else none

end Sys2Proof
end

