-- ==== Sys2Proof/Machine/Packet.lean ====
section
/-! DEFINITION. Packets: the image, the park queue, and the instructions that a lane of the Anvil executes (R388 to R403). -/

namespace Sys2Proof.Machine

/-! The image (R388 to R390). -/

/-- Header bits that are reserved, with PMI's upper bits. -/
def hdrReserved (h : Nat) : Bool :=
  bitsOf h 191 144 != 0 || bitsOf h 127 82 != 0 || bitsOf h 79 79 != 0 || bitsOf h 55 54 != 0 || bitsOf h 47 46 != 0 ||
    bitsOf h 31 31 != 0 || bitsOf h 15 15 != 0

/-- Little-endian words of n bytes. -/
def wordsOf (n : Nat) (bs : List Byte) : Nat → List Nat
  | 0 => []
  | k + 1 => ofBytes (bs.take n) :: wordsOf n (bs.drop n) k

/-- A packet from its image of 112 bytes and its payload. -/
def readPacket (img pay : List Byte) : Packet :=
  let h := ofBytes (img.take 32)
  let regs (off n : Nat) : Tab (BitVec 32) := ((wordsOf 4 (img.drop off) n).map (BitVec.ofNat 32)).zipIdx.map fun x => (x.2, x.1)
  { ts := BitVec.ofNat 64 (bitsOf h 255 192), tag := BitVec.ofNat 16 (bitsOf h 143 128), rty := bitsOf h 81 81 == 1
    cln := bitsOf h 80 80 == 1, nprog := bitsOf h 78 74, plen := bitsOf h 73 64, sd := bitsOf h 63 60, pc := bitsOf h 59 56
    hb := bitsOf h 53 48, pmi := bitsOf h 45 40, tenant := bitsOf h 39 32, src := bitsOf h 30 16, dst := bitsOf h 14 0
    prog := (wordsOf 2 (img.drop 32) 16).map (BitVec.ofNat 16), k := regs 64 4, stk := regs 80 8
    pay := ((wordsOf 4 pay ((bitsOf h 73 64) / 4)).map (BitVec.ofNat 32)).zipIdx.map fun x => (x.2, x.1) }

/-- The header of a packet. -/
def Packet.header (p : Packet) : Nat :=
  p.ts.toNat * 2 ^ 192 + p.tag.toNat * 2 ^ 128 + bit p.rty * 2 ^ 81 + bit p.cln * 2 ^ 80 + p.nprog % 32 * 2 ^ 74 +
    p.plen % 1024 * 2 ^ 64 + p.sd % 16 * 2 ^ 60 + p.pc % 16 * 2 ^ 56 + p.hb % 64 * 2 ^ 48 + p.pmi % 64 * 2 ^ 40 +
    p.tenant % 256 * 2 ^ 32 + p.src % 2 ^ 15 * 2 ^ 16 + p.dst % 2 ^ 15

/-- The 112 bytes of a packet's image. -/
def Packet.image (p : Packet) : List Byte :=
  toBytes p.header 32 ++ (List.range 16).flatMap (fun i => toBytes (p.prog.getD i 0).toNat 2) ++
    (List.range 4).flatMap (fun i => toBytes (tget 0 p.k i).toNat 4) ++ (List.range 8).flatMap fun i => toBytes (tget 0 p.stk i).toNat 4

/-- A packet's payload of PLEN bytes. -/
def Packet.payload (p : Packet) : List Byte := (List.range (p.plen / 4)).flatMap fun i => toBytes (tget 0 p.pay i).toNat 4

/-- A malformed packet (R390), but for the reserved bits of its image. -/
def Packet.bad (p : Packet) (nodecfg : Word) : Bool :=
  let c := nodecfg.toNat
  p.nprog == 0 || decide (16 < p.nprog) || decide (8 < p.sd) || decide (p.nprog ≤ p.pc) || decide (512 < p.plen) || p.plen % 4 != 0 ||
    decide (bitsOf c 19 15 < bitsOf p.dst 4 0) || decide (bitsOf c 24 20 < bitsOf p.dst 9 5) || decide (bitsOf c 29 25 < bitsOf p.dst 14 10)

/-! Fault codes (R401). -/

def pfBudget : Nat := 0x01
def pfPermOp : Nat := 0x02
def pfStkUnd : Nat := 0x03
def pfStkOvf : Nat := 0x04
def pfCrWin : Nat := 0x05
def pfIllOp : Nat := 0x06
def pfSteps : Nat := 0x07
def pfNoRoute : Nat := 0x08
def pfPayLd : Nat := 0x09
def pfJob : Nat := 0x0A
def pfTimeout : Nat := 0x0B
def pfNoRes : Nat := 0x0C
def pfDBusy : Nat := 0x0D
def pfDFault : Nat := 0x0E
def pfNoSlot : Nat := 0x10
def pfMalf : Nat := 0x11

/-! The park queue (R402, R403). -/

def State.updFab (s : State) (f : Fabric → Fabric) : State := { s with fab := f s.fab }

/-- PARK (R339); that of a packet which has been sent follows its TS (R407). -/
def State.emitPark (s : State) (idx code : Nat) (p : Packet) (xdata least : Nat) : State :=
  s.emitX srcAnvil p.tenant 0x30
    (idx + code * 2 ^ 8 + p.src % 2 ^ 15 * 2 ^ 16 + p.pc % 16 * 2 ^ 31 + p.hb % 64 * 2 ^ 35) xdata 0 least

/-- A packet that is discarded: index 0 and XDATA 1. -/
def State.discard (s : State) (code : Nat) (p : Packet) (least : Nat) : State := s.emitPark 0 code p 1 least

/-- Parks a faulting packet in the lowest free entry; NORES also goes to die 0's fault queue. -/
def State.park (s : State) (code : Nat) (va : Word) (p : Packet) : State :=
  match (List.range 256).find? fun i => (tfind s.fab.park i).isNone with
  | none => s.discard code p (p.ts.toNat + 32)
  | some i =>
    let s := s.updFab fun f => { f with park := tset f.park i ⟨p, code, s.now, f.parkN⟩, parkN := f.parkN + 1 }
    let s := s.emitPark i code p 0 (p.ts.toNat + 32)
    if code = pfNoRes then s.caused p.ts.toNat fun s => s.queueFault 0 srcAnvil p.tenant i (s.job p.pmi).asid 0x08 0x01 true va (.packet i)
    else s

/-- An injection lane: the one of 6 and 7 with the fewer packets. -/
def Fabric.injLane (f : Fabric) : Nat :=
  let load (l : Nat) : Nat := let x := tget ⟨[], none, 0⟩ f.lanes l; x.queue.length + if x.pkt.isSome then 1 else 0
  if load 7 < load 6 then 7 else 6

def Fabric.lane (f : Fabric) (l : Nat) : Lane := tget ⟨[], none, 0⟩ f.lanes l

/-- Hands a packet to a lane. -/
def State.enterLane (s : State) (l : Nat) (p : Packet) (how : PktHow) : State :=
  s.updFab fun f => { f with lanes := tset f.lanes l { f.lane l with queue := (f.lane l).queue ++ [(p, how)] } }

/-- A NORES record is resolved: the packet resumes at its PC, or stays parked as DFAULT (R403). -/
def State.resumePacket (s : State) (i : Nat) (fail : Bool) : State :=
  match tfind s.fab.park i with
  | none => s
  | some e =>
    if e.code ≠ pfNoRes then s
    else if fail then s.updFab fun f => { f with park := tset f.park i { e with code := pfDFault } }
    else (s.updFab fun f => { f with park := terase f.park i }).enterLane s.fab.injLane e.pkt .resume

/-! One instruction (R391, R392, R401). -/

/-- How an instruction of a packet ends. -/
inductive PktEnd where
  /-- the packet goes on at its PC -/
  | go (p : Packet)
  /-- copies leave by their ports -/
  | out (l : List (Nat × Packet))
  /-- the packet is over -/
  | gone
  | fault (code : Nat) (va : Word)
  deriving DecidableEq, Repr

/-- An instruction of the packet in the lane in focus: the step limit, then its group, then its effect; a fault parks the packet as
it stood. -/
def State.pktStep (s : State) (group : Nat) (f : State → Packet → State × PktEnd) : State :=
  let l := s.cur.lane
  let x := s.fab.lane l
  match x.pkt with
  | none => s
  | some p =>
    let clear (s : State) : State := s.updFab fun f => { f with lanes := tset f.lanes l { f.lane l with pkt := none, steps := 0 } }
    if 16 ≤ x.steps then (clear s).park pfSteps 0 p
    else if !(match tfind s.fab.jobs p.pmi with | some j => j.perm.getLsbD group | none => false) then (clear s).park pfPermOp 0 p
    else
      match f s p with
      | (s, .fault code va) => (clear s).park code va p
      | (s, .go q) => s.updFab fun f => { f with lanes := tset f.lanes l { f.lane l with pkt := some q, steps := x.steps + 1 } }
      | (s, .gone) => clear s
      | (s, .out ps) => (clear s).updFab fun f => { f with leaving := f.leaving ++ ps.map fun y => ⟨y.1, y.2, p, l⟩ }

/-- The router holds the packet of a lane whose record waits for a credit (R337). -/
def State.holdLane (s : State) (l : Nat) (t : State) : State :=
  if (s.source srcAnvil).waiting.length < (t.source srcAnvil).waiting.length then
    t.updFab fun f => { f with heldLanes := if s.stalled srcAnvil then f.heldLanes ++ [l] else [l] }
  else t

/-- Whether the router holds a lane's packet. -/
def State.laneHeld (s : State) (l : Nat) : Bool := s.stalled srcAnvil && s.fab.heldLanes.contains l

def pktOp (group : Nat) (f : State → Packet → State × PktEnd) (s : State) : Out := .next (s.holdLane s.cur.lane (s.pktStep group f))

/-- An instruction that touches the packet alone. -/
def pktPure (group : Nat) (f : Packet → PktEnd) (s : State) : Out := pktOp group (fun s p => (s, f p)) s

/-- pop() of R393; entries above the top stay as they are. -/
def Packet.pop (p : Packet) (k : BitVec 32 → Packet → PktEnd) : PktEnd :=
  if p.sd = 0 then .fault pfStkUnd 0 else k (tget 0 p.stk (p.sd - 1)) { p with sd := p.sd - 1 }

/-- push() of R393. -/
def Packet.push (p : Packet) (v : BitVec 32) (k : Packet → PktEnd) : PktEnd :=
  if 8 ≤ p.sd then .fault pfStkOvf 0 else k { p with stk := tset p.stk p.sd v, sd := p.sd + 1 }

/-- The next instruction follows (R393). -/
def Packet.next (p : Packet) : PktEnd := .go { p with pc := p.pc + 1 }
def Packet.pushNext (p : Packet) (v : BitVec 32) : PktEnd := p.push v Packet.next

/-! Stack, arithmetic and information (R394). -/

def execPktPshr (n : BitVec 2) (s : State) : Out := pktPure 0 (fun p => p.pushNext (tget 0 p.k n.toNat)) s
def execPktPopr (n : BitVec 2) (s : State) : Out := pktPure 0 (fun p => p.pop fun v p => { p with k := tset p.k n.toNat v }.next) s
def execPktPshi (i : BitVec 10) (s : State) : Out := pktPure 0 (fun p => p.pushNext (i.signExtend 32)) s
def execPktDup (s : State) : Out := pktPure 0 (fun p => p.pop fun v p => p.push v fun p => p.pushNext v) s
def execPktSwp (s : State) : Out := pktPure 0 (fun p => p.pop fun b p => p.pop fun a p => p.push b fun p => p.pushNext a) s
def execPktDrp (s : State) : Out := pktPure 0 (fun p => p.pop fun _ p => p.next) s

/-- A binary operation: b, then a. -/
def pktBin (f : BitVec 32 → BitVec 32 → BitVec 32) (s : State) : Out :=
  pktPure 0 (fun p => p.pop fun b p => p.pop fun a p => p.pushNext (f a b)) s

def smin32 (a b : BitVec 32) : BitVec 32 := if a.toInt ≤ b.toInt then a else b
def smax32 (a b : BitVec 32) : BitVec 32 := if a.toInt ≤ b.toInt then b else a
def bool32 (b : Bool) : BitVec 32 := if b then 1 else 0

def execPktAdd (s : State) : Out := pktBin (fun a b => a + b) s
def execPktSub (s : State) : Out := pktBin (fun a b => a - b) s
def execPktMin (s : State) : Out := pktBin smin32 s
def execPktMax (s : State) : Out := pktBin smax32 s
def execPktAnd (s : State) : Out := pktBin (fun a b => a &&& b) s
def execPktOr (s : State) : Out := pktBin (fun a b => a ||| b) s
def execPktXor (s : State) : Out := pktBin (fun a b => a ^^^ b) s
def execPktShl (s : State) : Out := pktBin (fun a b => a <<< (b.toNat % 32)) s
def execPktShr (s : State) : Out := pktBin (fun a b => a >>> (b.toNat % 32)) s
def execPktCeq (s : State) : Out := pktBin (fun a b => bool32 (a == b)) s
def execPktClt (s : State) : Out := pktBin (fun a b => bool32 (decide (a.toInt < b.toInt))) s
def execPktTsc (s : State) : Out := pktOp 0 (fun s p => (s, p.pushNext (BitVec.ofNat 32 s.now))) s
def execPktInc (n : BitVec 2) (s : State) : Out :=
  pktPure 0 (fun p => { p with k := tset p.k n.toNat (tget 0 p.k n.toNat + 1) }.next) s
def execPktNode (s : State) : Out := pktOp 0 (fun s p => (s, p.pushNext (BitVec.ofNat 32 (bitsOf s.nodecfg.toNat 14 0)))) s
def execPktHops (s : State) : Out := pktPure 0 (fun p => p.pushNext (BitVec.ofNat 32 p.hb)) s

/-! Crucible and payload (R395). -/

/-- Where a word of the job's Crucible window lies, if it lies in it. -/
def State.crWord (s : State) (pmi : Nat) (a : BitVec 32) : Option Nat :=
  match tfind s.fab.jobs pmi with
  | none => none
  | some j => if j.crSize * 4096 ≤ 4 * a.toNat then none else some (crucibleBase + j.crBase * 4096 + 4 * a.toNat)

/-- A Crucible operation at word `a`: the new word as a function of the old one, which is pushed. -/
def State.crOp (s : State) (p : Packet) (a : BitVec 32) (f : Option (BitVec 32 → BitVec 32)) : State × PktEnd :=
  match s.crWord p.pmi a with
  | none => (s, .fault pfCrWin 0)
  | some pa =>
    let old := BitVec.ofNat 32 (memRead s.mem pa 4)
    match f with
    | none => (s, p.pushNext old)
    | some g => (s.putBytes pa (toBytes (g old).toNat 4), p.pushNext old)

def execPktLdw (s : State) : Out :=
  pktOp 2 (fun s p => if p.sd = 0 then (s, .fault pfStkUnd 0)
    else s.crOp { p with sd := p.sd - 1 } (tget 0 p.stk (p.sd - 1)) none) s

/-- ADW and XCW: v, then a. -/
def pktCr2 (f : BitVec 32 → BitVec 32 → BitVec 32) (s : State) : Out :=
  pktOp 3 (fun s p => if p.sd < 2 then (s, .fault pfStkUnd 0)
    else s.crOp { p with sd := p.sd - 2 } (tget 0 p.stk (p.sd - 2)) (some (f (tget 0 p.stk (p.sd - 1))))) s

def execPktAdw (s : State) : Out := pktCr2 (fun v o => o + v) s
def execPktXcw (s : State) : Out := pktCr2 (fun v _ => v) s

def execPktPld (w : BitVec 7) (s : State) : Out :=
  pktPure 1 (fun p => p.pushNext (if p.plen ≤ 4 * w.toNat then 0 else tget 0 p.pay w.toNat)) s

/-- PACC: the popped value is combined into a payload word. -/
def pktPacc (f : BitVec 32 → BitVec 32 → BitVec 32) (w : BitVec 7) (s : State) : Out :=
  pktPure 1 (fun p => p.pop fun v p =>
    if p.plen ≤ 4 * w.toNat then .fault pfPayLd 0
    else { p with pay := tset p.pay w.toNat (f (tget 0 p.pay w.toNat) v) }.next) s

/-- The FP32 sum of PACC.f32: rounded to nearest even, +0 for an exact zero, no flag. -/
def paccF32 (x v : BitVec 32) : BitVec 32 :=
  let sum := match ((decodeFmt .f32 x.toNat).1.add false (decodeFmt .f32 v.toNat).1).1 with
    | .fin _ 0 e => XVal.fin false 0 e
    | y => y
  BitVec.ofNat 32 (encodeFmt .f32 .rne .none 0 sum).1

def execPktPaccI32 (w : BitVec 7) (s : State) : Out := pktPacc (fun x v => x + v) w s
def execPktPaccF32 (w : BitVec 7) (s : State) : Out := pktPacc paccF32 w s
def execPktPaccMax (w : BitVec 7) (s : State) : Out := pktPacc smax32 w s

/-! Branches (R396). -/

def execPktJz (t : BitVec 4) (s : State) : Out :=
  pktPure 0 (fun p => p.pop fun v p => if v = 0 then .go { p with pc := t.toNat } else p.next) s
def execPktJnz (t : BitVec 4) (s : State) : Out :=
  pktPure 0 (fun p => p.pop fun v p => if v ≠ 0 then .go { p with pc := t.toNat } else p.next) s
def execPktJmp (t : BitVec 4) (s : State) : Out := pktPure 0 (fun p => .go { p with pc := t.toNat }) s

/-! Routes (R397, R398). -/

/-- Sends the packet by a direction code, 6 for dimension order toward DST. -/
def State.routeTo (s : State) (p : Packet) (d next : Nat) : State × PktEnd :=
  match (if d = 6 then routePort s.nodecfg p.dst else some d) with
  | none => (s, .fault pfNoRoute 0)
  | some port => if s.present port then (s, .out [(port, { p with pc := next })]) else (s, .fault pfNoRoute 0)

def execPktRoutePort (n : BitVec 4) (d : BitVec 3) (s : State) : Out := pktOp 4 (fun s p => s.routeTo p d.toNat n.toNat) s
def execPktRouteAuto (n : BitVec 4) (s : State) : Out := pktOp 0 (fun s p => s.routeTo p 6 n.toNat) s
def execPktRoutePop (n : BitVec 4) (s : State) : Out :=
  pktOp 4 (fun s p => if p.sd = 0 then (s, .fault pfStkUnd 0)
    else
      let v := (tget 0 p.stk (p.sd - 1)).toNat % 8
      if v = 7 then (s, .fault pfIllOp 0) else s.routeTo { p with sd := p.sd - 1 } v n.toNat) s
def execPktClone (n : BitVec 4) (m : BitVec 6) (s : State) : Out :=
  pktOp 5 (fun s p =>
    let ports := (List.range 6).filter fun d => m.getLsbD d
    if ports.isEmpty || !ports.all s.present then (s, .fault pfNoRoute 0)
    else (s, .out (ports.map fun d => (d, { p with pc := n.toNat, cln := true })))) s

/-! Deliveries (R399). -/

/-- The delivery address. -/
def Packet.place (p : Packet) : Word := BitVec.ofNat 64 ((tget 0 p.k 3).toNat % 2 ^ 16 * 2 ^ 32 + (tget 0 p.k 2).toNat)

/-- What the Anvil reaches for a job; it lies on no compute die (R320). -/
def State.anvilView (s : State) (j : Nat) : View :=
  { bndlo := 1, bndhi := 0, sp := 0, cl := (0, 0), ds := (0, 0), omap := [], x := s.jobX j, perm := allOnes, hLo := 0, hCnt := 0 }

/-- Translates the whole payload before anything is written. -/
def State.dlvPages (s : State) (p : Packet) : State × (List Run ⊕ PktEnd) :=
  match s.cpPages 4 (s.anvilView p.pmi) .write (pageParts 2 0 p.place p.plen) with
  | (s, .inl rs) => (s, .inl rs)
  | (s, .inr (cs, sub, va)) => (s, .inr (.fault (if faultWaits cs sub then pfNoRes else pfDFault) va))

/-- Writes the payload, then `done`; a write under an EMPTY key is a machine check of the job and ends the packet (R351). -/
def State.dlvWrite (s : State) (p : Packet) (rs : List Run) (done : State → State) : State × PktEnd :=
  match rs.find? fun r => s.keyDead r.key r.pa with
  | some r => (s.engineCheck 4 p.pmi 0 (0x0E, 0x01, BitVec.ofNat 64 r.pa), .gone)
  | none => (done (s.runsWrite rs p.payload clean), .gone)

/-- PKT_DLVR (R339, R407). -/
def State.emitDlvr (s : State) (p : Packet) (t kind : Nat) : State :=
  s.emitX srcAnvil p.tenant 0x32 (p.tag.toNat + p.src % 2 ^ 15 * 2 ^ 16 + t % 2 ^ 15 * 2 ^ 32 + kind * 2 ^ 47) 0 0 (p.ts.toNat + 32)

/-- A delivery pops its target, whose bits above `w` must be zero. -/
def pktDlvr (group w : Nat) (f : State → Packet → Nat → State × PktEnd) (s : State) : Out :=
  pktOp group (fun s p => if p.sd = 0 then (s, .fault pfStkUnd 0)
    else
      let t := (tget 0 p.stk (p.sd - 1)).toNat
      if 2 ^ w ≤ t then (s, .fault pfIllOp 0) else f s { p with sd := p.sd - 1 } t) s

/-- Whether a context waits for a counter to reach a value that it has (R130). -/
def Ctx.awaitsCtr (c : Ctx) (t n : Nat) : Bool :=
  match c.waitOp with
  | some (.counter k x _) => c.stat == .waiting && k == t && decide (x ≤ n)
  | _ => false

/-- Raises a delivery counter (R405): the contexts whose waits it meets are satisfied, whatever it holds later (R130). -/
def State.raiseCtr (s : State) (t : Nat) : State :=
  let x := tget 0 s.fab.dctr t + 1
  { s.updFab fun f => { f with dctr := tset f.dctr t x } with
    cores := s.cores.map fun (y : Nat × Core) => (y.1, { y.2 with
      ctxs := y.2.ctxs.map fun (z : Nat × Ctx) => (z.1, if z.2.awaitsCtr t x.toNat then { z.2 with waitHit := true } else z.2) }) }

def execPktDlvrCtr (s : State) : Out :=
  pktDlvr 6 12 (fun s p t =>
    if t / 64 ≠ p.pmi then (s, .fault pfJob 0)
    else match s.dlvPages p with
      | (s, .inr e) => (s, e)
      | (s, .inl rs) => s.dlvWrite p rs fun s => (s.raiseCtr t).emitDlvr p t 0) s

/-- Whether a handle lies in a handle range of a launch of the job on the core (R271). -/
def Core.jobHandle (k : Core) (j h : Nat) : Bool :=
  k.ctxs.any fun y => match y.2.task with
    | some t => y.2.stat != .free && t.job == j && decide (t.hLo ≤ h) && decide (h < t.hLo + t.hCnt)
    | none => false

def execPktDlvrHnd (s : State) : Out :=
  pktDlvr 6 15 (fun s p t =>
    let core := t / 2 ^ 7
    let h := t % 2 ^ 7
    let k := s.coreAt core
    if k.bound ≠ some p.pmi || !k.jobHandle p.pmi h then (s, .fault pfJob 0)
    else if (k.handle h).st ≠ .free then (s, .fault pfDBusy 0)
    else match s.dlvPages p with
      | (s, .inr e) => (s, e)
      | (s, .inl rs) =>
        (s.updCore core fun k => k.setHandle h ⟨.filling, none⟩).dlvWrite p rs fun s =>
          (s.updCore core fun k => k.fillHandle h).emitDlvr p t 1) s

/-- The timestamp of a Hearth message that a delivery sends (R333): PKT_DLVR's. -/
def Packet.sentOn (p : Packet) (s : State) : Nat := Max.max s.now (p.ts.toNat + 32)

def execPktDlvrNode (s : State) : Out :=
  pktDlvr 7 14 (fun s p t =>
    let d := t / 2 ^ 12
    let n := t % 2 ^ 12
    match s.dlvPages p with
    | (s, .inr e) => (s, e)
    | (s, .inl rs) =>
      if (tfind (s.dieAt d).nodes n).any fun x => x.job != p.pmi then (s.caused (p.sentOn s) fun s => s.rejectCmd d p.pmi n 1 n, .fault pfJob 0)
      else s.dlvWrite p rs fun s => (s.caused (p.sentOn s) fun s => s.decNode d n 1 p.tenant).emitDlvr p t 2) s

/-- Translates the descriptor at a delivery's address, its header and then its entries, for the Hearth of a die. -/
def State.dlvGraph (s : State) (t : Nat) (p : Packet) : State × Option PktEnd :=
  let faulted (f : Nat × Nat × Word) : PktEnd := .fault (if faultWaits f.1 f.2.1 then pfNoRes else pfDFault) f.2.2
  match s.engRead t (s.jobX p.pmi) p.place 64 with
  | (s, .inr f) => (s, some (faulted f))
  | (s, .inl (hb, _)) =>
    match s.engRuns t (s.jobX p.pmi) .read (p.place + 64#64) (32 * Min.min (bitsOf (ofBytes hb) 8 0) 256) with
    | (s, .inr f) => (s, some (faulted f))
    | (s, .inl _) => (s, none)

/-- DLVR.graph: the descriptor goes to the job's open phase; where none is open, as a descriptor that is not accepted (R255). -/
def execPktDlvrGraph (s : State) : Out :=
  pktDlvr 7 2 (fun s p t =>
    match s.dlvGraph t p with
    | (s, some e) => (s, e)
    | (s, none) =>
      let b := s.job p.pmi
      let s := if b.phaseDone then s.badGraph p.pmi else s.caused (p.sentOn s) fun s => s.submitGraph t p.pmi 0 p.place (some b.phase) 0 false
      (s.emitDlvr p t 3, .gone)) s

/-! Park and drop (R400). -/

def execPktPark (n : BitVec 7) (s : State) : Out := pktPure 0 (fun _ => .fault (0x80 + n.toNat) 0) s
def execPktDrop (s : State) : Out := pktPure 0 (fun _ => .gone) s

end Sys2Proof.Machine
end

