-- ==== Sys2Proof/Machine/FabricEvents.lean ====
section
/-! DEFINITION. The fabric's events: lanes, injection, the packet unit, remote operations and links (R380 to R387, R391, R402 to
R417). -/

namespace Sys2Proof.Machine

/-! What leaves the node. -/

def State.self (s : State) : Nat := bitsOf s.nodecfg.toNat 14 0

/-- A message for another node goes on toward it (R384). -/
def State.passOn (s : State) (dst : Nat) (m : Nat → NetMsg) : State := s.sendNet (m ((routePort s.nodecfg dst).getD 0))

/-- Flits that arrive by a port after the node's cut are recorded until the port's marker has come (R434, R435). -/
def State.recordFlits (s : State) (port : Nat) (bs : List Byte) : State :=
  if port < 6 && !s.sn.cutPorts.contains port then { s with sn := { s.sn with chan := s.sn.chan ++ [(port, bs)] } } else s

/-- What a port keeps back leaves once it is present. -/
def State.sendHeldNet (s : State) (port : Nat) : State :=
  s.updFab fun f => { f with
    net := f.net ++ f.held.filter fun m => m.port s.nodecfg == port
    held := f.held.filter fun m => m.port s.nodecfg != port }

/-- A packet on its way out leaves the router (R391). -/
def State.packetLeave (s : State) (i : Nat) : State :=
  match s.fab.leaving[i]? with
  | none => s
  | some x => if s.present x.port then
      s.updFab fun f => { f with leaving := f.leaving.eraseIdx i, net := f.net ++ [.packet x.port x.pkt] }
    else s

/-! Lanes (R391). -/

/-- A lane takes its next packet: the fabric entry of one that arrives, then its hop budget; one that resumes spends none (R403). -/
def State.laneStart (s : State) (l : Nat) : State :=
  let x := s.fab.lane l
  match (if s.laneHeld l then [] else x.queue), x.pkt with
  | (p, how) :: rest, none =>
    let s0 := s
    let s := s.updFab fun f => { f with lanes := tset f.lanes l { x with queue := rest } }
    let known := match tfind s.fab.jobs p.pmi with | some j => j.tenant == p.tenant | none => false
    let run (p : Packet) : State := s.updFab fun f => { f with lanes := tset f.lanes l ⟨rest, some p, 0⟩ }
    if how = .arrive && !known then s0.holdLane l (s.park pfJob 0 p)
    else if how = .resume then run p
    else if p.hb = 0 then s0.holdLane l (s.park pfBudget 0 p)
    else run { p with hb := p.hb - 1 }
  | _, _ => s

/-- A packet arrives at lane `l` as its bytes, if any are given, and the lane takes the next one.  After the node's cut no packet is
executed: it is recorded until its port's marker has come (R434). -/
def evPacketArrival (l : Nat) (bs : List Byte) (s : State) : Out :=
  .next (
    let given := decide (112 ≤ bs.length) && decide (l < 6)
    let p := readPacket (bs.take 112) (bs.drop 112)
    match s.sn.dumped with
    | some _ =>
      if given then s.recordFlits l (p.image ++ p.payload) else s
    | none =>
      let s := if given then s.enterLane l p .arrive else s
      s.laneStart l)

/-! The packet unit (R410 to R412). -/

/-- The first command of a context in the packet unit's intake, taken from it; a packet of the context that is still to be injected is
before it. -/
def State.takePkt (s : State) (core ctx : Nat) : Option (CopyIn × State) :=
  match (if s.fab.unsent.any fun u => u.inp.core == core && u.inp.ctx == ctx then none
    else s.fab.pktq.find? fun i => i.core == core && i.ctx == ctx) with
  | none => none
  | some i => some (i, s.updFab fun f => { f with pktq := f.pktq.erase i })

def Staged.isSlot (x : Staged) (i : CopyIn) (slot : Nat) : Bool :=
  x.core == i.core && x.ctx == i.ctx && x.serial == i.serial && x.slot == slot

/-- A staging slot becomes EMPTY. -/
def State.unstage (s : State) (i : CopyIn) (slot : Nat) : State :=
  s.updFab fun f => { f with staged := f.staged.filter fun x => !(x.isSlot i slot) }

/-- Staging slots of tasks that have ended with no command left (R410). -/
def State.sweepStaged (s : State) : State :=
  let live (x : Staged) : Bool :=
    let c := s.ctxAt x.core x.ctx
    (c.stat != .free && c.tk.serial == x.serial) || s.fab.pktq.any fun i => i.core == x.core && i.ctx == x.ctx && i.serial == x.serial
  s.updFab fun f => { f with staged := f.staged.filter live }

/-- The launch of a dispatched task, while its node stands. -/
def State.lnchOfSerial (s : State) (serial : Nat) : Nat :=
  ((s.dies.flatMap fun y => y.2.nodes.filterMap fun n =>
    if n.2.serials.contains serial then some (lnchOf n.2.graph n.1).toNat else none).head?).getD 0

def Packet.zero : Packet := readPacket [] []

/-- A packet whose PKT_SEND has left takes its timestamp and goes to an injection lane (R407, R411); the packets of a core and tenant take
them in order. -/
def State.sendStamped (s : State) (core ctx : Nat) : State :=
  match s.fab.unsent.find? fun u => u.inp.core == core && u.inp.ctx == ctx with
  | none => s
  | some u =>
    let go (s : State) (ts : Nat) : State :=
      let s := s.updFab fun f => { f with unsent := f.unsent.erase u }
      s.enterLane s.fab.injLane { u.pkt with ts := BitVec.ofNat 64 ts } .inject
    match u.ts with
    | some ts => go s ts
    | none =>
      let r := s.source (srcCore core)
      let first := s.fab.unsent.find? fun v => v.inp.core == core && v.pkt.tenant == u.pkt.tenant && v.ts.isNone
      match r.sends.find? fun y => y.1 == u.pkt.tenant with
      | some y => if first = some u then go (s.setSource (srcCore core) { r with sends := r.sends.erase y }) y.2 else s
      | none => s

/-- PKSND at injection (R411): the stamps, PKT_SEND (R407), and an injection lane once that record has left; where the stream does not pass
it, or drops it, the time of the injection serves as TS (log entry 207). -/
def State.inject (s : State) (i : CopyIn) : State :=
  let slot := bitsOf i.cmd.md 2 0
  let ten := s.tenantOf i.job
  match s.fab.staged.find? fun x => x.isSlot i slot with
  | none => s.discard pfNoSlot { Packet.zero with tenant := ten } 0
  | some x =>
    let s := if bitsOf i.cmd.md 5 5 = 1 then s else s.unstage i slot
    let p := x.pkt
    let p := if bitsOf i.cmd.md 3 3 = 1 then { p with dst := bitsOf i.cmd.a.toNat 14 0 } else p
    let p := if bitsOf i.cmd.md 4 4 = 1 then { p with k := tset p.k 0 (i.cmd.b.setWidth 32) } else p
    let p := { p with src := s.self, tenant := ten, pmi := i.job, rty := false, cln := false }
    if p.bad s.nodecfg then s.discard pfMalf p 0
    else
      let ts := Max.max (s.coreNow i.core) (s.source (srcCore i.core)).last
      let r := s.source (srcCore i.core)
      let s := s.emit (srcCore i.core) ten 0x31 (p.tag.toNat + p.dst * 2 ^ 16 + s.lnchOfSerial i.serial * 2 ^ 32)
      let x := s.source (srcCore i.core)
      let sent := decide (r.waiting.length < x.waiting.length) || decide (r.sends.length < x.sends.length)
      (s.updFab fun f => { f with unsent := f.unsent ++ [⟨i, p, if sent then none else some ts⟩] }).sendStamped i.core i.ctx

/-- The packet unit's next command of a context, when it is a PKSND; or the packet that waited for its PKT_SEND to leave. -/
def evPacketInject (core ctx : Nat) (s : State) : Out :=
  .next (
    match s.takePkt core ctx with
    | none => s.sendStamped core ctx
    | some (i, t) => if i.cmd.kind = .pksnd then (t.inject i).sweepStaged else s)

/-- PKB as the packet unit performs it (R410), on the core path of its issuer. -/
def State.buildPkt (s : State) (i : CopyIn) : State :=
  let slot := bitsOf i.cmd.md 2 0
  let sp := bitsOf i.cmd.md 4 3
  let ten := s.tenantOf i.job
  let s := (s.flushStores i.core i.ctx).unstage i slot
  let fail (s : State) (p : Packet) : State := s.discard pfMalf { p with tenant := ten } 0
  match s.cpRead (dieOf i.core) i.view sp i.cmd.a 112 with
  | (s, .inr _) => fail s Packet.zero
  | (s, .inl (img, bad)) =>
    let p := readPacket img []
    if bad || hdrReserved (ofBytes (img.take 32)) || p.bad s.nodecfg then fail s p
    else
      let put (s : State) (pay : List Byte) : State :=
        s.updFab fun f => { f with staged := f.staged ++ [⟨i.core, i.ctx, i.serial, slot, readPacket img pay⟩] }
      if p.plen = 0 then put s []
      else
        match s.cpRead (dieOf i.core) i.view sp i.cmd.b p.plen with
        | (s, .inl (pay, false)) => put s pay
        | (s, _) => fail s p

/-- The park-queue entry that a PKPRK selects. -/
def State.pickPark (s : State) (i : CopyIn) : Option (Nat × Parked) :=
  let mine := s.fab.park.filter fun x => x.2.pkt.pmi == i.job
  if i.cmd.b = allOnes then
    mine.foldl (fun b x => match b with | some y => if x.2.order < y.2.order then some x else b | none => some x) none
  else mine.find? fun x => x.1 == i.cmd.b.toNat

/-- The 640-byte record of PKPRK. -/
def parkRecord (x : Option (Nat × Parked)) : List Byte :=
  match x with
  | none => List.replicate 640 0
  | some (i, e) =>
    (toBytes (e.code % 256 + i % 256 * 2 ^ 8 + 2 ^ 16 + e.time % 2 ^ 64 * 2 ^ 64) 16 ++ e.pkt.image ++ e.pkt.payload ++ List.replicate 512 0).take 640

/-- PKPRK as the packet unit performs it (R412); while its issuer stands at a debug stop, its completion is held back (R344). -/
def State.parkCmd (s : State) (i : CopyIn) : State :=
  let h := i.cmd.c.toNat % 128
  let s := s.updCore i.core fun k => k.setHandle h ⟨.filling, none⟩
  let e := s.pickPark i
  let drop (s : State) : State := match e with
    | some (n, _) => s.updFab fun f => { f with park := terase f.park n }
    | none => s
  let write (s : State) : State :=
    match s.cpRuns (dieOf i.core) i.view (bitsOf i.cmd.md 3 2) .write i.cmd.a 640 with
    | (s, .inl rs) => s.runsWrite rs (parkRecord e) clean
    | (s, .inr _) => s
  let s := match i.cmd.kind with
    | .pkprkCopy => write s
    | .pkprkTake => drop (write s)
    | .pkprkRetry =>
      (match e with
        | some (_, x) => (drop s).enterLane (drop s).fab.injLane { x.pkt with hb := bitsOf i.cmd.md 9 4, rty := true } .arrive
        | none => s)
    | _ => drop s
  if s.heldBack i.core i.ctx i.serial then s.updCtxAt i.core i.ctx fun c => { c with deferred := c.deferred ++ [.park h i.num] }
  else (s.updCore i.core fun k => k.fillHandle h).cmdDone i

/-- The packet unit's next command of a context, when it is a PKB or a PKPRK.  A PKPRK waits while its handle drains; one whose
handle is in use is refused (R283). -/
def evPacketUnitDone (core ctx : Nat) (s : State) : Out :=
  .next (
    match s.takePkt core ctx with
    | none => s
    | some (i, t) =>
      match i.cmd.kind with
      | .pksnd => s
      | .pkb => (t.caused i.sent fun t => t.buildPkt i).sweepStaged
      | _ =>
        match ((s.coreAt core).handle (i.cmd.c.toNat % 128)).st with
        | .draining => s
        | .free => t.caused i.sent fun t => t.parkCmd i
        | _ => (t.caused i.sent fun t => t.engineDrop i.job 0 i.cmd.a).cmdDone i)

/-- A packet that could not leave for 4,096 router cycles (R384). -/
def evPacketTimeout (i : Nat) (s : State) : Out :=
  .next (
    match s.fab.leaving[i]? with
    | none => s
    | some x => (s.updFab fun f => { f with leaving := f.leaving.eraseIdx i }).park pfTimeout 0 x.before)

/-! Remote operations at their target (R385 to R387, R412 to R416). -/

/-- A response goes back; one to this node is already there. -/
def State.respond (s : State) (r : RemReq) (ok : Bool) (data : List Byte) (bad : Bool) : State :=
  if r.src = s.self then
    { s with agenda := s.agenda ++ [⟨.remoteResponseArrive, 0, 0, 0, [r.slot, if ok then 1 else 0, if bad then 1 else 0, s.now, s.self, 8], data⟩] }
  else s.sendNet (.response ((routePort s.nodecfg r.src).getD 0) r.src ⟨r.slot, ok, data, bad, s.now⟩)

/-- An atomic through an aperture of another node, whole at its home (R312): its old value goes back. -/
def State.serveAmo (s : State) (r : RemReq) (k : AKind) (uns : Bool) : State :=
  let old := ofBytes (s.placeBytes r.key r.addr r.n)
  let bad := s.isPoisoned r.addr r.n
  let (new, _) := amoNew k r.n uns old (ofBytes (r.data.take 8)) (ofBytes (r.data.drop 8))
  let write := !bad || (k == .axch && r.n == 8)
  let s := match new with
    | some x => if write then s.storeBytes (s.matOf r.key) r.addr (toBytes x r.n) else s
    | none => s
  s.respond r true (toBytes old 8) bad

/-- An access through an aperture of another node, at a physical address (R386): a key that is EMPTY or another tenant's acts as an
EMPTY key (R351): a write is refused, and a machine check of the job that issued it, its part here and by the answer its part there.  The data of a write may bring, after its bytes, the bits that each writes. -/
def State.serveAperture (s : State) (r : RemReq) : State :=
  let dead := match plocOf r.addr with
    | .dram _ => (match tfind s.keys r.key with
      | some k => !(k.owner == r.tenant || r.key == 0)
      | none => true)
    | _ => false
  let ok := match plocOf r.addr with
    | .dram _ | .dscr _ _ | .crucible _ => rangeMapped r.addr r.n
    | _ => false
  if !ok then s.respond r false [] false
  else if r.kind = .apRead then
    s.respond r true (s.placeBytes r.key r.addr r.n) (dead || s.isPoisoned r.addr r.n)
  else if dead then
    let mine := match tfind s.fab.jobs r.job with | some j => j.tenant == r.tenant | none => false
    (if mine then s.engineCheck 4 r.job 0 (0x0E, 0x01, BitVec.ofNat 64 r.addr) else s).respond r false [] false
  else match r.kind with
  | .apAmo k uns => s.serveAmo r k uns
  | _ =>
    let mask := r.data.drop r.n
    let bs := (r.data.take r.n).zipIdx.map fun (y : Byte × Nat) => (y.1, mask.getD y.2 0xFF#8)
    let s := s.putUnit ⟨r.addr, bs, r.key, false⟩
    (if r.bad then s.poisonLines r.addr r.n else s).respond r true [] false

/-- The effect of a request on the pages that it reaches. -/
def State.serveRuns (s : State) (r : RemReq) (rs : List Run) : State :=
  let dead := rs.find? fun x => s.keyDead x.key x.pa
  match r.kind, dead with
  | .rld, _ => let (bs, bad) := s.runsRead rs; s.respond r true bs bad
  | _, some x => (s.engineCheck 4 r.job 0 (0x0E, 0x01, BitVec.ofNat 64 x.pa)).respond r false [] false
  | .faa, none =>
    let (bs, bad) := s.runsRead rs
    let old := ofBytes bs
    (s.runsWrite rs (toBytes (old + ofBytes r.data) r.n) fun _ _ => bad || r.bad).respond r true (toBytes old 8) bad
  | _, none => (s.runsWrite rs r.data fun _ _ => r.bad).respond r true [] false

/-- A request at its target: the fabric entry, the translation under the target's job, the effect.  A page that is not present goes
to die 0's fault queue and holds the request; any other fault fails it. -/
def State.serve (s : State) (r : RemReq) : State :=
  match r.kind with
  | .apRead | .apWrite | .apAmo _ _ => s.serveAperture r
  | _ =>
    if !(match tfind s.fab.jobs r.job with | some j => j.tenant == r.tenant | none => false) then s.respond r false [] false
    else
      let acc := if r.kind = .rld then XAcc.read else .write
      let va := BitVec.ofNat 64 r.addr
      match s.cpPages 4 (s.anvilView r.job) acc (pageParts (r.n / 4096 + 2) 0 va r.n) with
      | (s, .inl rs) => s.serveRuns r rs
      | (s, .inr (cs, sub, a)) =>
        if faultWaits cs sub then
          let i := s.fab.parkN
          let s := s.updFab fun f => { f with served := tset f.served i r, parkN := f.parkN + 1 }
          s.queueFault 0 srcAnvil r.tenant (2 ^ 23 + r.slot % 1024) (s.job r.job).asid cs sub (r.kind != .rld) a (.served i)
        else s.respond r false [] false

/-- The number of a kind of atomic and of a request, as the event gives it. -/
def akindNo : AKind → Nat
  | .aadd => 0 | .afadd => 1 | .amin => 2 | .amax => 3 | .axch => 4 | .acas => 5 | .aand => 6 | .aor => 7 | .axor => 8
def rkindNo : RKind → Nat
  | .rld => 0 | .rst => 1 | .faa => 2 | .ffn => 3 | .apRead => 4 | .apWrite => 5
  | .apAmo k uns => 6 + 2 * akindNo k + if uns then 1 else 0

/-- A request and a response as they are recorded (log entry 188). -/
def RemReq.flits (r : RemReq) : List Byte :=
  [rkindNo r.kind, r.src, r.slot, r.job, r.tenant, r.key, r.addr, r.n, if r.bad then 1 else 0, r.sent].flatMap (toBytes · 8) ++ r.data
def RemRsp.flits (r : RemRsp) : List Byte :=
  [r.slot, if r.ok then 1 else 0, if r.bad then 1 else 0, r.sent].flatMap (toBytes · 8) ++ r.data

/-- A request of another node arrives by a port: one for a third node goes on toward it; after the node's cut no access is performed, and
the request is recorded (R384, R434, R435). -/
def evRemoteRequestArrive (r : RemReq) (dst port : Nat) (s : State) : Out :=
  .next (if s.sn.dumped.isSome then s.recordFlits port r.flits
    else if dst ≠ s.self then s.passOn dst fun p => .request p dst r
    else s.caused r.sent fun s => s.serve r)

/-- The record of a held request is resolved (R416). -/
def State.resumeServed (s : State) (i : Nat) (fail : Bool) : State :=
  match tfind s.fab.served i with
  | none => s
  | some r =>
    let s := s.updFab fun f => { f with served := terase f.served i }
    if fail then s.respond r false [] false else s.caused r.sent fun s => s.serve r

/-- The kind of a request that arrives: from 6, an atomic through an aperture, by kind and whether unsigned. -/
def rkindOf (n : Nat) : RKind :=
  match n with
  | 0 => .rld | 1 => .rst | 2 => .faa | 3 => .ffn | 4 => .apRead | 5 => .apWrite
  | _ => .apAmo (match (n - 6) / 2 with
      | 0 => .aadd | 1 => .afadd | 2 => .amin | 3 => .amax | 4 => .axch | 5 => .acas | 6 => .aand | 7 => .aor | _ => .axor) (n % 2 == 1)

/-! Remote operations of this node (R409, R413 to R416). -/

/-- Fabric and local address of a remote operation. -/
def CopyIn.fabric (i : CopyIn) : Word := if i.cmd.kind = .rst then i.cmd.b else i.cmd.a
def CopyIn.local' (i : CopyIn) : Word := if i.cmd.kind = .rst then i.cmd.a else i.cmd.b
def CopyIn.rbytes (i : CopyIn) : Nat :=
  match i.cmd.kind with
  | .rld | .rst => 16 * (bitsOf i.cmd.md 7 0 + 1)
  | .faa => if i.cmd.md % 2 = 1 then 4 else 8
  | _ => 8
def CopyIn.rhandle (i : CopyIn) : Nat := if i.cmd.kind = .faa then faaHnd i.cmd.c else i.cmd.c.toNat % 128
def CopyIn.rspace (i : CopyIn) : Nat := if i.cmd.kind = .faa then 0 else bitsOf i.cmd.md 9 8

def State.remoteAt (s : State) (slot : Nat) : Option RemOp := s.fab.remote.find? fun o => o.slot == slot
def State.updRemote (s : State) (slot : Nat) (f : RemOp → RemOp) : State :=
  s.updFab fun x => { x with remote := x.remote.map fun o => if o.slot = slot then f o else o }

/-- The remote-operation unit takes the oldest command of its intake into the lowest free request slot. -/
def State.remoteTake (s : State) : State :=
  match s.fab.remq with
  | [] => s
  | i :: rest =>
    match (List.range 1024).find? fun n => (s.remoteAt n).isNone with
    | none => s
    | some n =>
      s.updFab fun f => { f with
        remq := rest
        remote := f.remote ++ [⟨n, i, none, bitsOf i.fabric.toNat 62 48, .waiting, ⟨n, false, [], false, 0⟩, false⟩] }

/-- The operation is over: its handle becomes FULL, and a failure is reported (R416); while its issuer stands at a debug stop its
completion is held back (R344). -/
def State.remoteEnd (s : State) (o : RemOp) (ok : Bool) : State :=
  if s.heldBack o.inp.core o.inp.ctx o.inp.serial then
    (s.updRemote o.slot fun x => { x with stage := .back, rsp := ⟨o.slot, ok, [], false, 0⟩ }).updCtxAt o.inp.core o.inp.ctx
      fun c => { c with deferred := c.deferred ++ [.remote o.slot] }
  else
    let s := s.updFab fun f => { f with remote := f.remote.filter fun x => x.slot != o.slot }
    let s := if ok then s else s.engineDrop o.inp.job 0 o.inp.fabric
    let s := match o.hnd with
      | some h => s.updCore o.inp.core fun k => k.fillHandle h
      | none => s
    s.cmdDone o.inp

/-- The local side of an operation faults: a page that is not present suspends it, anything else fails it (R280, R413). -/
def State.remoteFault (s : State) (o : RemOp) (f : CFail) (write : Bool) : State :=
  let (cs, sub, va) := f
  if faultWaits cs sub then
    (s.updRemote o.slot fun x => { x with stuck := true }).queueFault 0 srcAnvil (s.tenantOf o.inp.job) (2 ^ 23 + o.slot) o.inp.view.x.asid
      cs sub write va (.remote o.slot)
  else (s.engineCheck 4 o.inp.job o.inp.serial f).remoteEnd o false

/-- Earlier operations of the task to the node that an FFN waits for, and its stores through apertures (R415). -/
def State.ffnWaits (s : State) (o : RemOp) : Bool :=
  (s.fab.remote.takeWhile fun x => x.slot != o.slot).any (fun x =>
    x.inp.core == o.inp.core && x.inp.serial == o.inp.serial && x.node == o.node && (x.inp.cmd.kind == .rst || x.inp.cmd.kind == .faa)) ||
  ((s.coreAt o.inp.core).stq.any fun p => p.ctx == o.inp.ctx && p.serial == o.inp.serial && p.units.any fun u =>
    onAperture u.pa && apNode u.pa == o.node) ||
  (s.coreAt o.inp.core).acks.any fun a => a.ctx == o.inp.ctx && a.serial == o.inp.serial && a.writes && apNode a.place == o.node

/-- Sends a request, or performs it here when it names this node (R439). -/
def State.remoteSend (s : State) (o : RemOp) (data : List Byte) (bad : Bool) : State :=
  let kind : RKind := match o.inp.cmd.kind with | .rld => .rld | .rst => .rst | .faa => .faa | _ => .ffn
  let r : RemReq := ⟨kind, s.self, o.slot, o.inp.job, s.tenantOf o.inp.job, 0, bitsOf o.inp.fabric.toNat 47 0, o.inp.rbytes, data, bad, s.now⟩
  let s := s.updRemote o.slot fun x => { x with stage := .sent, hnd := some o.inp.rhandle }
  if o.node = s.self then s.serve r else s.sendNet (.request ((routePort s.nodecfg o.node).getD 0) o.node r)

/-- The data of a request: an RST's source, an addend or a flag. -/
def State.remoteData (s : State) (o : RemOp) : State × ((List Byte × Bool) ⊕ CFail) :=
  let i := o.inp
  match i.cmd.kind with
  | .rst => s.cpRead (dieOf i.core) i.view i.rspace i.local' i.rbytes
  | .faa => (s, .inl (toBytes i.cmd.b.toNat i.rbytes, false))
  | .ffn => (s, .inl (toBytes i.cmd.b.toNat 8, false))
  | _ => (s, .inl ([], false))

/-- Starts an operation: its handle goes to FILLING, it waits while the handle drains and is refused while it is in use (R283,
R409). -/
def State.remoteStart (s : State) (slot : Nat) : State :=
  match s.remoteAt slot with
  | none => s
  | some o =>
    if o.stuck || o.stage != .waiting then s
    else s.caused o.inp.sent fun s =>
      let h := o.inp.rhandle
      let go (s : State) (o : RemOp) : State :=
        if o.inp.cmd.kind = .ffn && s.ffnWaits o then s
        else
          match s.remoteData o with
          | (s, .inl (bs, bad)) => s.remoteSend o bs bad
          | (s, .inr f) => s.remoteFault o f false
      match o.hnd with
      | some _ => go s o
      | none =>
        match ((s.coreAt o.inp.core).handle h).st with
        | .draining => s
        | .free =>
          let s := s.updCore o.inp.core fun k => k.setHandle h ⟨.filling, none⟩
          go (s.updRemote slot fun x => { x with hnd := some h }) { o with hnd := some h }
        | _ => s.remoteEnd o false

/-- What a response carries is written at this node: RLD's data, FAA's old value. -/
def State.remoteLand (s : State) (slot : Nat) : State :=
  match s.remoteAt slot with
  | none => s
  | some o =>
    if o.stuck || o.stage != .back then s
    else if !o.rsp.ok || o.rsp.data.isEmpty then s.remoteEnd o o.rsp.ok
    else
      let i := o.inp
      let a : Word := if i.cmd.kind = .faa then BitVec.ofNat 64 (faaDst i.cmd.c) else i.local'
      match s.cpRuns (dieOf i.core) i.view i.rspace .write a o.rsp.data.length with
      | (s, .inr f) => s.remoteFault o f true
      | (s, .inl rs) =>
        match rs.find? fun r => s.keyDead r.key r.pa with
        | some r => s.remoteFault o (0x0E, 0x01, BitVec.ofNat 64 r.pa) true
        | none =>
          let s := s.runsWrite rs o.rsp.data fun _ _ => o.rsp.bad
          let o := { o with rsp := { o.rsp with data := [] } }
          (s.updRemote slot fun _ => o).remoteEnd o true

/-- A response arrives for a request slot, or goes on toward its node; or the completion that a debug stop held back takes place.  After the
node's cut it is recorded. -/
def evRemoteResponseArrive (r : RemRsp) (dst port : Nat) (s : State) : Out :=
  .next (
    let (slot, ok, bad, sent, data) := (r.slot, r.ok, r.bad, r.sent, r.data)
    if s.sn.dumped.isSome then s.recordFlits port r.flits
    else if dst ≠ s.self then s.passOn dst fun p => .response p dst r
    else match s.remoteAt slot with
    | none => s
    | some o =>
      match o.stage with
      | .waiting => s
      | .sent =>
        let write := o.inp.cmd.kind = .rld ∨ o.inp.cmd.kind = .faa
        s.caused sent fun s =>
          (s.updRemote slot fun x => { x with stage := .back, rsp := ⟨slot, ok, if write then data else [], bad, sent⟩ }).remoteLand slot
      | .back => s.caused o.rsp.sent fun s => s.remoteLand slot)

/-- A resolved record of an operation of this node (R280, R327). -/
def State.resumeRemote (s : State) (slot : Nat) (fail : Bool) : State :=
  match s.remoteAt slot with
  | none => s
  | some o =>
    if !o.stuck then s
    else
      let s := s.updRemote slot fun x => { x with stuck := false }
      if fail then s.remoteEnd { o with stuck := false } false
      else if o.stage = .back then s.remoteLand slot else s.remoteStart slot

/-- A request, an access through an aperture, or a response that waited 4,096 router cycles for a port that is not present is discarded; its
sender fails the operation (R404). -/
def evRemoteDiscard (i : Nat) (s : State) : Out :=
  .next (
    match s.fab.held[i]? with
    | none => s
    | some m =>
      let gone := s.updFab fun f => { f with held := f.held.eraseIdx i }
      match m with
      | .request _ _ r => (match gone.remoteAt r.slot with | some o => gone.remoteEnd o false | none => gone)
      | .aperture _ node r => gone.dropAck node r.addr
      | .response _ _ _ => gone
      | .packet _ _ | .chunk _ _ | .abort _ _ _ _ | .marker _ => s)

/-! Links (R380, R381, R404). -/

/-- A flit is resent; nothing is lost or duplicated. -/
def evLinkFlitRetry (s : State) : Out := .next s

/-- A port's link is trained; what waited for the port leaves, but for a node that has taken its cut (R434, R435). -/
def evTorusLinkTrained (port : Nat) (s : State) : Out :=
  .next (
    let s := s.updFab fun f => { f with links := f.links ||| (1#6 <<< port) }
    if s.present port && s.sn.dumped.isNone then s.sendHeldNet port else s)

/-- A port's link goes down: the packets that name it park with NOROUTE. -/
def evTorusLinkDown (port : Nat) (s : State) : Out :=
  .next (
    let mine := s.fab.leaving.filter fun x => x.port == port
    let s := s.updFab fun f => { f with links := f.links &&& ~~~ (1#6 <<< port), leaving := f.leaving.filter fun x => x.port != port }
    mine.foldl (fun s x => s.park pfNoRoute 0 x.before) s)

/-! The events, at the place and with the arguments in focus. -/

def execPacketArrival (s : State) : Out := evPacketArrival s.cur.lane s.cur.inp s
def execPacketInject (s : State) : Out := evPacketInject s.cur.core s.cur.ctx s
def execPacketTimeout (s : State) : Out := evPacketTimeout (s.arg 0) s
def execPacketUnitDone (s : State) : Out := evPacketUnitDone s.cur.core s.cur.ctx s
def execRemoteRequestArrive (s : State) : Out :=
  evRemoteRequestArrive ⟨rkindOf (s.arg 0), s.arg 1, s.arg 2, s.arg 3, s.arg 4, s.arg 5, s.arg 6, s.arg 7, s.cur.inp, s.arg 8 != 0, s.arg 9⟩ (s.arg 10) (s.arg 11) s
def execRemoteResponseArrive (s : State) : Out := 
  evRemoteResponseArrive ⟨s.arg 0, s.arg 1 != 0, s.cur.inp, s.arg 2 != 0, s.arg 3⟩ (s.arg 4) (s.arg 5) s
def execRemoteDiscard (s : State) : Out := evRemoteDiscard (s.arg 0) s
def execLinkFlitRetry (s : State) : Out := evLinkFlitRetry s
def execTorusLinkTrained (s : State) : Out := evTorusLinkTrained (s.arg 0) s
def execTorusLinkDown (s : State) : Out := evTorusLinkDown (s.arg 0) s

end Sys2Proof.Machine
end

