-- ==== Sys2Proof/Machine/CollEvents.lean ====
section
/-! DEFINITION. The collective engine: records, reductions, exchanges, resharding, completions and failures (R419 to R433). -/

namespace Sys2Proof.Machine

/-! The record (R420, R421). -/

def chCwa (h : Nat) : Nat := bitsOf h 191 128
def chCtr (h : Nat) : Nat := bitsOf h 123 112
def chOff (h a : Nat) : Nat := bitsOf h (95 + 4 * a) (92 + 4 * a)
def chExt (h a : Nat) : Nat := bitsOf h (83 + 4 * a) (80 + 4 * a) + 1
def chOrg (h a : Nat) : Nat := bitsOf h (68 + 5 * a) (64 + 5 * a)
def chNb (h : Nat) : Nat := bitsOf h 49 45
def chDies (h : Nat) : List Nat := (List.range 4).filter fun d => bitsOf h (41 + d) (41 + d) == 1
def chType (h : Nat) : Nat := bitsOf h 40 37
def chRop (h : Nat) : Nat := bitsOf h 36 35
def chOp (h : Nat) : Nat := bitsOf h 34 32
def chNum (h : Nat) : Nat := bitsOf h 31 0
def chNodes (h : Nat) : Nat := chExt h 0 * chExt h 1 * chExt h 2
/-- Bytes of an element. -/
def chWidth (h : Nat) : Nat := typeWidth (chType h) / 8

def ceSrc (e : BitVec 256) : Word := BitVec.ofNat 64 (bitsOf e.toNat 63 0)
def ceDst (e : BitVec 256) : Word := BitVec.ofNat 64 (bitsOf e.toNat 127 64)
def ceLen (e : BitVec 256) : Nat := bitsOf e.toNat 151 128

/-- The shared part of a header: everything but CWA (R419). -/
def chShared (h : Nat) : BitVec 512 := BitVec.ofNat 512 (h - chCwa h * 2 ^ 128)
/-- The shared part of a layout: everything but SRC and DST. -/
def clShared (l : Nat) : BitVec 512 := BitVec.ofNat 512 (l / 2 ^ 128 * 2 ^ 128)

/-- Torus size of an axis. -/
def torusSize (nodecfg : Word) (a : Nat) : Nat := bitsOf nodecfg.toNat (5 * a + 19) (5 * a + 15) + 1

/-- Component of a coordinate's mesh position. -/
def meshAt (nodecfg : Word) (h coord a : Nat) : Nat :=
  let d := torusSize nodecfg a
  (bitsOf coord (5 * a + 4) (5 * a) + d - chOrg h a % d) % d

/-- Linear index of a mesh position. -/
def meshIndex (h : Nat) (m : Nat → Nat) : Nat := m 0 + chExt h 0 * (m 1 + chExt h 1 * m 2)
/-- Component of the position with a linear index. -/
def meshPos (h p a : Nat) : Nat :=
  match a with
  | 0 => p % chExt h 0
  | 1 => p / chExt h 0 % chExt h 1
  | _ => p / (chExt h 0 * chExt h 1)
/-- Coordinate of the node with a linear index. -/
def meshNode (nodecfg : Word) (h p : Nat) : Nat :=
  ((List.range 3).map fun a => (chOrg h a + meshPos h p a) % torusSize nodecfg a * 2 ^ (5 * a)).sum

/-- This node's linear index. -/
def State.meshSelf (s : State) (h : Nat) : Nat := meshIndex h (meshAt s.nodecfg h s.self)

/-- Mesh extents and origin within the torus. -/
def meshFits (nodecfg : Word) (h : Nat) : Bool :=
  (List.range 3).all fun a => decide (chExt h a ≤ torusSize nodecfg a) && decide (chOrg h a < torusSize nodecfg a)

def reduces (op : Nat) : Bool := decide (op ≤ 1)
def chReserved (h : Nat) : Bool :=
  bitsOf h 511 192 != 0 || bitsOf h 127 124 != 0 || bitsOf h 111 104 != 0 || bitsOf h 79 79 != 0 || bitsOf h 63 50 != 0

/-- What makes a header malformed wherever it stands (R420, R421). -/
def State.chBad (s : State) (j h : Nat) : Bool :=
  chReserved h || chNb h == 0 || decide (16 < chNb h) || (chDies h).isEmpty || chRop h == 3 || chCwa h % 16 != 0 ||
    !(decide (64 * j ≤ chCtr h) && decide (chCtr h + chNb h ≤ 64 * j + 64)) || !(meshFits s.nodecfg h) ||
    (List.range 3).any (fun a => decide (chExt h a ≤ meshAt s.nodecfg h s.self a)) ||
    !((List.range (chNodes h)).all fun p => inDomain s.nodecfg s.domain (meshNode s.nodecfg h p))

/-- A malformed collective record (R420 to R422). -/
def State.collBad (s : State) (j h : Nat) (es : List (BitVec 256)) : Bool :=
  let op := chOp h
  let raw := [1, 2, 3, 4, 5, 7, 8]
  s.chBad j h || decide (5 < op) || decide (es.length ≠ chNb h) ||
    (if reduces op then !(chType h == 3 || chType h == 7)
      else !(raw.contains (chType h)) || chRop h != 0 || decide ((chDies h).length ≠ 1)) ||
    (if op = 4 ∨ op = 5 then (List.range 3).any fun a => decide (chExt h a ≤ chOff h a) else bitsOf h 103 92 != 0) ||
    es.any fun e => bitsOf e.toNat 255 152 != 0 || ceLen e == 0 || (ceSrc e).toNat % 64 != 0 || (ceDst e).toNat % 64 != 0 ||
      ((op == 1 || op == 3) && ceLen e % chNodes h != 0)

/-! Layouts (R432). -/

def clRank (l : Nat) : Nat := bitsOf l 225 224 + 1
/-- Global extent of a dimension; beyond the rank it is 1. -/
def clExt (l j : Nat) : Nat := if j < clRank l then bitsOf l (24 * j + 151) (24 * j + 128) else 1
def clFrom (l j : Nat) : Nat := bitsOf l (2 * j + 227) (2 * j + 226)
def clTo (l j : Nat) : Nat := bitsOf l (2 * j + 238) (2 * j + 237)
def clFps (l : Nat) : Nat := bitsOf l 236 234
def clTps (l : Nat) : Nat := bitsOf l 247 245

/-- One layout of a RESH record: no axis twice, none both partial and sharded, no code beyond the rank, extents that divide. -/
def layBad (h l : Nat) (code : Nat → Nat) (ps : Nat) : Bool :=
  let dims := (List.range 4).filter fun j => code j != 0
  dims.any (fun j => dims.any fun k => j != k && code j == code k) ||
    dims.any (fun j => bitsOf ps (code j - 1) (code j - 1) == 1 || decide (clRank l ≤ j) || clExt l j % chExt h (code j - 1) != 0)

/-- A malformed RESH record; OP is ignored. -/
def State.reshBad (s : State) (j h l : Nat) : Bool :=
  s.chBad j h || chNb h != 1 || decide ((chDies h).length ≠ 1) || bitsOf h 103 92 != 0 || bitsOf l 511 248 != 0 ||
    bitsOf l 63 0 % 64 != 0 || bitsOf l 127 64 % 64 != 0 || !([1, 2, 3, 4, 5, 7, 8].contains (chType h)) ||
    (List.range (clRank l)).any (fun k => clExt l k == 0) || layBad h l (clFrom l) (clFps l) || layBad h l (clTo l) (clTps l) ||
    (List.range 3).any (fun a => bitsOf (clTps l) a a == 1 && bitsOf (clFps l) a a == 0) ||
    (clFps l != 0 && !(chType h == 3 || chType h == 7))

/-- Global linear indices of a shard, in its storage order: dimension 0 contiguous. -/
def shardIdx (h l : Nat) (code : Nat → Nat) (p : Nat) : List Nat :=
  let dim (j : Nat) : List Nat :=
    if code j = 0 then List.range (clExt l j)
    else
      let n := clExt l j / chExt h (code j - 1)
      (List.range n).map fun i => meshPos h p (code j - 1) * n + i
  (dim 3).flatMap fun d => (dim 2).flatMap fun c => (dim 1).flatMap fun b => (dim 0).map fun a =>
    a + clExt l 0 * (b + clExt l 1 * (c + clExt l 2 * d))

/-- Index of a global element in a dimension. -/
def dimIdx (l g j : Nat) : Nat := g / ((List.range j).foldl (fun n k => n * clExt l k) 1) % clExt l j

/-! Reductions (R423, R424). -/

def CElem.zero : CElem := ⟨0, 0, false⟩

/-- op of R424; the flags of both operands go along, and so does their poison (R425). -/
def celemOp (dt rop : Nat) (a b : CElem) : CElem :=
  let (x, e) : Nat × Flags :=
    if dt = 7 then
      (match rop with
        | 0 => ((a.bits + b.bits) % 2 ^ 32, 0)
        | 1 => (if sextN 32 a.bits < sextN 32 b.bits then b.bits else a.bits, 0)
        | _ => (if sextN 32 b.bits < sextN 32 a.bits then b.bits else a.bits, 0))
    else
      let u := (decodeFmt .bf16 a.bits).1
      let v := (decodeFmt .bf16 b.bits).1
      match rop with
      | 0 =>
        let (w, e1) := u.add false v
        let w := match w with | .fin _ 0 k => XVal.fin false 0 k | y => y
        let (y, e2) := encodeFmt .bf16 .rne .none 0 w
        (y, e1 ||| e2)
      | 1 => ((encodeFmt .bf16 .rne .none 0 (u.max v)).1, 0)
      | _ => ((encodeFmt .bf16 .rne .none 0 (u.min v)).1, 0)
  ⟨x, a.fl ||| b.fl ||| e, a.bad || b.bad⟩

/-- op with an absent die. -/
def celemOpt (dt rop : Nat) : Option CElem → Option CElem → Option CElem
  | some a, some b => some (celemOp dt rop a b)
  | none, b => b
  | a, none => a

/-- The four dies of a node, folded pairwise. -/
def foldDies (dt rop : Nat) (x : Nat → Option CElem) : CElem :=
  (celemOpt dt rop (celemOpt dt rop (x 0) (x 1)) (celemOpt dt rop (x 2) (x 3))).getD CElem.zero

/-- A line of E nodes, from the position after chunk c's on. -/
def ring (dt rop E c : Nat) (x : Nat → CElem) : CElem :=
  (List.range (E - 1)).foldl (fun acc j => celemOp dt rop acc (x ((c + 2 + j) % E))) (x ((c + 1) % E))

/-- The node at position i of the line along axis a through node p. -/
def onLine (h p a i : Nat) : Nat := meshIndex h fun b => if b = a then i else meshPos h p b

/-- The reduced vector: along X, Y and Z. -/
def allReduce (h n : Nat) (xs : List (List CElem)) : List CElem :=
  let axis (xs : List (List CElem)) (a : Nat) : List (List CElem) :=
    let E := chExt h a
    let lc := (n + E - 1) / E
    (List.range (chNodes h)).map fun p => (List.range n).map fun e =>
      ring (chType h) (chRop h) E (e / lc) fun i => (xs.getD (onLine h p a i) []).getD e CElem.zero
  (([0, 1, 2].foldl axis xs).headD [])

/-- What a node's outputs are (R422), from every node's contribution of n elements. -/
def collOuts (h n p : Nat) (xs : List (List CElem)) : List CElem :=
  let P := chNodes h
  let b := n / P
  let at1 (q : Nat) : List CElem := xs.getD q []
  match chOp h with
  | 0 => allReduce h n xs
  | 1 => ((allReduce h n xs).drop (p * b)).take b
  | 2 => (List.range P).flatMap at1
  | 3 => (List.range P).flatMap fun q => ((at1 q).drop (p * b)).take b
  | 4 => at1 (meshIndex h fun a => (meshPos h p a + chExt h a - chOff h a) % chExt h a)
  | _ => at1 (meshIndex h (chOff h))

/-! Resharding (R433). -/

/-- Elements that a node holds, by global index, in storage order. -/
abbrev Shard := List (Nat × CElem)

/-- State of an axis in a layout. -/
inductive AxSt where
  | partialSum
  | repl
  | sharded (k : Nat)
  deriving DecidableEq, Repr

def axOf (code : Nat → Nat) (ps a : Nat) : AxSt :=
  if bitsOf ps a a = 1 then .partialSum
  else match (List.range 4).find? fun j => code j == a + 1 with
    | some k => .sharded k
    | none => .repl

/-- The exchange along one axis. -/
def reshAxis (h l : Nat) (xs : List Shard) (a : Nat) : List Shard :=
  let E := chExt h a
  let at1 (p : Nat) : Shard := xs.getD p []
  let val (p g : Nat) : CElem := (tfind (at1 p) g).getD CElem.zero
  let part (g k : Nat) : Nat := dimIdx l g k / (clExt l k / E)
  let total := clExt l 0 * clExt l 1 * clExt l 2 * clExt l 3
  let gather (p : Nat) : Shard := (List.range total).filterMap fun g =>
    ((List.range E).findSome? fun i => tfind (at1 (onLine h p a i)) g).map fun x => (g, x)
  let own (p k : Nat) (y : Shard) : Shard := y.filter fun x => part x.1 k == meshPos h p a
  (List.range (chNodes h)).map fun p =>
    match axOf (clFrom l) (clFps l) a, axOf (clTo l) (clTps l) a with
    | .partialSum, .repl =>
      let lc := ((at1 p).length + E - 1) / E
      (at1 p).zipIdx.map fun (y : (Nat × CElem) × Nat) =>
        (y.1.1, ring (chType h) (chRop h) E (y.2 / lc) fun i => val (onLine h p a i) y.1.1)
    | .partialSum, .sharded k =>
      (own p k (at1 p)).map fun y => (y.1, ring (chType h) (chRop h) E (meshPos h p a) fun i => val (onLine h p a i) y.1)
    | .sharded _, .repl => gather p
    | .sharded j, .sharded k => if j = k then at1 p else own p k (gather p)
    | .repl, .sharded k => own p k (at1 p)
    | _, _ => at1 p

/-- The outputs of a RESH. -/
def reshOuts (h l p : Nat) (xs : List (List CElem)) : List CElem :=
  let start : List Shard := xs.zipIdx.map fun (y : List CElem × Nat) => (shardIdx h l (clFrom l) y.2).zip y.1
  (([0, 1, 2].foldl (reshAxis h l) start).getD p []).map Prod.snd

/-! The collective of a job. -/

def State.collAt (s : State) (j n : Nat) : Option Coll := s.fab.colls.find? fun c => c.job == j && c.cnum == n
def State.updColl (s : State) (j n : Nat) (f : Coll → Coll) : State :=
  s.updFab fun x => { x with colls := x.colls.map fun c => if c.job = j ∧ c.cnum = n then f c else c }
def Coll.updDie (c : Coll) (d : Nat) (f : CollDie → CollDie) : Coll :=
  { c with dies := c.dies.map fun x => if x.die = d then f x else x }
def Coll.isResh (c : Coll) : Bool := c.lay != 0

/-- Elements of a node's contribution to a bucket, and those of its outputs. -/
def Coll.len (c : Coll) (b : Nat) : Nat :=
  if c.isResh then (shardIdx c.hdr.toNat c.lay.toNat (clFrom c.lay.toNat) 0).length
  else ((c.dies.head?.bind fun d => d.ents[b]?).map ceLen).getD 0

/-- How many buckets the records of its dies name; before the first, the header of a chunk. -/
def Coll.buckets (c : Coll) : Nat :=
  if c.dies.isEmpty then chNb c.hdr.toNat else (c.dies.map fun d => d.ents.length).foldl Nat.max 0

/-- A pair's place among the collectives that are over. -/
def collKey (j n : Nat) : Nat := j * 2 ^ 32 + n % 2 ^ 32

/-- Whether a message of a pair was sent before its last failed collective was over on this node: it belongs to that one, and comes too late
(R427; log entry 200). -/
def State.collLate (s : State) (j n sent : Nat) : Bool := decide (sent < tget 0 s.fab.collOver (collKey j n))

/-- Whether a CBKT has named a bucket on a die; a RESH needs none (R425, R432). -/
def State.bucketReady (s : State) (c : Coll) (d b : Nat) : Bool :=
  c.dies.any fun x => x.die == d && (x.inp.cmd.kind == .resh || s.fab.cbkts.contains (d, c.job, c.cnum, b))

/-- The abort leaves for every other mesh node (R427). -/
def State.collSpread (s : State) (j n : Nat) : State :=
  match s.collAt j n with
  | none => s
  | some c =>
    if !c.spread then s
    else
      let h := c.hdr.toNat
      let far := if meshFits s.nodecfg h then ((List.range (chNodes h)).map (meshNode s.nodecfg h)).filter fun x => x != s.self else []
      far.foldl (fun s x => s.sendNet (.abort x j n s.now)) (s.updColl j n fun c => { c with spread := false })

/-- A collective that every die of its DIEMASK has met, and whose buckets are over, is gone (R427), with its CBKTs. -/
def State.collSweep (s : State) (j n : Nat) : State :=
  match s.collAt j n with
  | none => s
  | some c =>
    let complete := (List.range c.buckets).all fun b => c.ends.contains b
    let met := (chDies c.hdr.toNat).all fun d => c.dies.any fun x => x.die == d
    if complete && met && !c.dies.isEmpty then
      s.updFab fun f => { f with
        colls := f.colls.filter fun x => !(x.job == j && x.cnum == n)
        collOver := if c.ended.isSome then tset f.collOver (collKey j n) s.now else f.collOver
        cbkts := f.cbkts.filter fun x => !(x.2.1 == j && x.2.2.1 == n) }
    else s

/-! Contributions (R425). -/

/-- The collective path's view of a job's pages: it lies on no compute die, and R359's Crucible class is none of its own. -/
def CollDie.view (d : CollDie) : View := { d.inp.view with perm := allOnes }

/-- Reads n elements of w bytes with their poison. -/
def State.collRead (s : State) (d : CollDie) (va : Word) (w n : Nat) : State × (List CElem ⊕ CFail) :=
  match s.cpRuns 4 d.view 3 .read va (w * n) with
  | (s, .inr f) => (s, .inr f)
  | (s, .inl rs) =>
    (s, .inl (rs.flatMap fun r => (List.range (r.n / w)).map fun i =>
      ⟨ofBytes (s.placeBytes r.key (r.pa + i * w) w), 0, s.isPoisoned (r.pa + i * w) w || s.keyDead r.key r.pa⟩))

/-- A fault of the collective engine: a record in die 0's queue, and the bucket waits (R327, R430). -/
def State.collFault (s : State) (c : Coll) (d : CollDie) (b : Nat) (f : CFail) (write : Bool) : State :=
  let (cs, sub, va) := f
  (s.updColl c.job c.cnum fun x => { x with stuck := x.stuck ++ [(d.die, b)] }).queueFault 0 srcColl (s.tenantOf c.job)
    (c.cnum % 2 ^ 14 * 2 ^ 10 + c.job % 64 * 2 ^ 4 + b) d.inp.view.x.asid cs sub write va (.coll c.job c.cnum d.die b)

/-- What each die of a node contributes; a fault names the die. -/
def State.collSources (s : State) (c : Coll) (b : Nat) : List CollDie → State × (List (Nat × List CElem) ⊕ (CollDie × CFail))
  | [] => (s, .inl [])
  | d :: t =>
    let e := d.ents.getD b 0
    match s.collRead d (ceSrc e) (chWidth c.hdr.toNat) (c.len b) with
    | (s, .inr f) => (s, .inr (d, f))
    | (s, .inl x) =>
      match s.collSources c b t with
      | (s, .inr f) => (s, .inr f)
      | (s, .inl l) => (s, .inl ((d.die, x) :: l))

/-- The node's contribution to a ready bucket is read once and sent to every other mesh node. -/
def State.collSend (s : State) (c : Coll) (b : Nat) : State :=
  let h := c.hdr.toNat
  if c.ended.isSome || c.sent.contains b || decide (chNb h ≤ b) || c.stuck.any (fun x => x.2 == b) ||
      !((chDies h).all fun d => s.bucketReady c d b) then s
  else
    match s.collSources c b c.dies with
    | (s, .inr (d, f)) => s.collFault c d b f false
    | (s, .inl xs) =>
      let elems := (List.range (c.len b)).map fun e => foldDies (chType h) (chRop h) fun d => (tfind xs d).map fun l => l.getD e CElem.zero
      let k : Chunk := ⟨c.job, c.hdr, c.lay, b, s.meshSelf h, elems, s.now⟩
      let far := ((List.range (chNodes h)).map (meshNode s.nodecfg h)).filter fun x => x != s.self
      far.foldl (fun s x => s.sendNet (.chunk x k)) (s.updColl c.job c.cnum fun x => { x with got := x.got ++ [k], sent := x.sent ++ [b] })

/-- Every node's contribution to a bucket, when all of them are here. -/
def Coll.inputs (c : Coll) (b : Nat) : Option (List (List CElem)) :=
  (List.range (chNodes c.hdr.toNat)).mapM fun p => (c.got.find? fun k => k.bucket == b && k.pos == p).map Chunk.elems

/-- One die's outputs are written, with the poison of their elements; a write under an EMPTY key is a machine check. -/
def State.collPut (s : State) (c : Coll) (d : CollDie) (b : Nat) (ys : List CElem) : State × Bool :=
  let w := chWidth c.hdr.toNat
  match s.cpRuns 4 d.view 3 .write (ceDst (d.ents.getD b 0)) (w * ys.length) with
  | (s, .inr f) => (s.collFault c d b f true, false)
  | (s, .inl rs) =>
    match rs.find? fun r => s.keyDead r.key r.pa with
    | some r => (s.engineCheck d.die c.job d.inp.serial (0x0E, 0x01, BitVec.ofNat 64 r.pa), false)
    | none =>
      let s := s.runsWrite rs (ys.flatMap fun y => toBytes y.bits w) clean
      let s := rs.foldl (fun s r => (List.range (r.n / w)).foldl (fun s i =>
        if (ys.getD (r.off / w + i) CElem.zero).bad then s.poisonLines (r.pa + i * w) w else s) s) s
      let fl := ys.foldl (fun (a : Flags) y => a ||| y.fl) 0
      let nan := (ys.filter fun y => decide (chType c.hdr.toNat ≤ 5) && (decodeFmt (fmtN (chType c.hdr.toNat)) y.bits).1.isNaN).length
      (s.updColl c.job c.cnum fun x => x.updDie d.die fun y => { y with outs := tset y.outs b (fl.toNat, nan) }, true)

/-- The outputs of a bucket on every contributing die, until one faults. -/
def State.collPuts (s : State) (c : Coll) (b : Nat) (ys : List CElem) : List CollDie → State × Bool
  | [] => (s, true)
  | d :: t =>
    if (tfind d.outs b).isSome then s.collPuts c b ys t
    else
      match s.collPut c d b ys with
      | (s, false) => (s, false)
      | (s, true) => s.collPuts c b ys t

/-! Completion (R425 to R427). -/

/-- The collective engine writes bytes: whole, or not at all when a page faults; under an EMPTY key it is a machine check (R281, R320, R351). -/
def State.collStore (s : State) (d : CollDie) (a : Word) (bs : List Byte) : State × Option CFail :=
  match s.cpRuns 4 d.view 3 .write a bs.length with
  | (s, .inr f) => (s, some f)
  | (s, .inl rs) =>
    match rs.find? fun r => s.keyDead r.key r.pa with
    | some r => (s, some (0x0E, 0x01, BitVec.ofNat 64 r.pa))
    | none => (s.runsWrite rs bs clean, none)

/-- A completion word. -/
def collWord (status fl nan : Nat) : List Byte := toBytes (status % 16 * 2 ^ 60 + fl % 64 * 2 ^ 54 + nan % 2 ^ 32) 16

/-- The completion words of a bucket, die by die: a page that is not present suspends it, any other fault leaves the word unwritten
(R281, R426), and a failure after translation is a machine check beside it. -/
def State.collWords (s : State) (c : Coll) (b : Nat) : List CollDie → State × Bool
  | [] => (s, true)
  | d :: t =>
    let st := match c.ended with | some x => d.st.getD x | none => 0
    let (fl, nan) := if c.ended.isSome then (0, 0) else tget (0, 0) d.outs b
    let a := BitVec.ofNat 64 (d.cwa + 16 * b)
    let mark (s : State) : State := s.updColl c.job c.cnum fun x => x.updDie d.die fun y => { y with ends := y.ends ++ [b] }
    if d.ends.contains b || decide (d.ents.length ≤ b) then s.collWords c b t
    else if c.failed.contains (d.die, b) then (mark s).collWords c b t
    else
      match s.collStore d a (collWord st fl nan) with
      | (s, none) => (mark s).collWords c b t
      | (s, some (cs, sub, va)) =>
        if faultWaits cs sub then
          ((s.updColl c.job c.cnum fun x => x.updDie d.die fun y => { y with outs := tset y.outs b (fl, nan) }).collFault c d b (cs, sub, va) true, false)
        else if cs = 0x0E then ((mark s).engineCheck d.die c.job d.inp.serial (cs, sub, va)).collWords c b t
        else ((mark s).engineDrop c.job 0 a).collWords c b t

/-- The counter rises once for the node, and COLL_BKT is emitted. -/
def State.collClose (s : State) (c : Coll) (b : Nat) : State :=
  let ctr := chCtr c.hdr.toNat + b
  let nan := if c.ended.isSome then 0 else (c.dies.map fun d => (tget (0, 0) d.outs b).2).sum
  let s := s.updColl c.job c.cnum fun x => { x with ends := x.ends ++ [b] }
  let s := if ctr / 64 = c.job then s.raiseCtr ctr else s
  let s := s.emit srcColl (s.tenantOf c.job) 0x33 (b + nan % 2 ^ 32 * 2 ^ 16 + c.cnum * 2 ^ 48)
  s.collSweep c.job c.cnum

/-- Words and counter of a bucket; they are held back while an issuer stands at a debug stop (R344). -/
def State.collFinish (s : State) (j n b : Nat) : State :=
  match s.collAt j n with
  | none => s
  | some c =>
    let held := c.dies.filter fun d => !(d.ends.contains b) && s.heldBack d.inp.core d.inp.ctx d.inp.serial
    if !held.isEmpty then
      held.foldl (fun s d => s.updCtxAt d.inp.core d.inp.ctx fun x =>
        if x.deferred.contains (.bucket n b) then x else { x with deferred := x.deferred ++ [.bucket n b] }) s
    else
      match s.collWords c b c.dies with
      | (s, true) => (match s.collAt j n with | some c => s.collClose c b | none => s)
      | (s, false) => s

/-- Whether a bucket still waits on a record: after a failure only one of its words can (R427). -/
def Coll.waits (c : Coll) (b : Nat) : Bool :=
  c.stuck.any fun x => x.2 == b && (c.ended.isNone || c.dies.any fun d => d.die == x.1 && (tfind d.outs b).isSome)

/-- What the records of a bucket follow (R333): the abort that ended the collective, and the chunks of other nodes. -/
def State.bucketCause (s : State) (c : Coll) (b : Nat) : Option Nat :=
  let chunks := (c.got.filter fun k => k.bucket == b && k.pos != s.meshSelf c.hdr.toNat).map Chunk.sent
  (c.cause.toList ++ if c.ended.isSome then [] else chunks).max?

/-- A bucket of a collective runs on this node: its contribution, and, once every contribution is here, its outputs and completion.
After the node's cut collectives stop (R435); while the engine stalls for want of a credit it starts no piece (R337). -/
def evBucketComplete (j n b : Nat) (s : State) : Out :=
  .next (
    if s.sn.dumped.isSome || s.stalled srcColl then s
    else
      let s := s.collSpread j n
      match s.collAt j n with
      | none => s
      | some c =>
        let after (s : State) (f : State → State) : State := match s.bucketCause c b with | some t => s.caused t f | none => f s
        if c.ends.contains b || c.waits b || !(c.dies.any fun d => decide (b < d.ents.length)) then s
        else if c.ended.isSome then after s fun s => s.collFinish j n b
        else
          let s := s.collSend c b
          match s.collAt j n with
          | none => s
          | some c =>
            match (if c.sent.contains b then c.inputs b else none) with
            | none => s
            | some xs =>
              let h := c.hdr.toNat
              let ys := if c.isResh then reshOuts h c.lay.toNat (s.meshSelf h) xs else collOuts h (c.len b) (s.meshSelf h) xs
              match s.collPuts c b ys c.dies with
              | (s, false) => s
              | (s, true) => after s fun s => s.collFinish j n b)

/-! Acceptance and failure (R427). -/

/-- A die meets a collective that has failed, or fails it: its own buckets end with `st`, those of the others ABORTED, and the
failure spreads.  A record that cannot be read has no buckets; what its die has still to complete stands. -/
def State.collFail (s : State) (j h lay : Nat) (d : CollDie) (spread : Bool) : State :=
  let n := chNum h
  let put (l : List CollDie) : List CollDie :=
    if d.ents.isEmpty && l.any (fun (x : CollDie) => x.die == d.die) then l else (l.filter fun (x : CollDie) => x.die != d.die) ++ [d]
  let s := match s.collAt j n with
    | some c => s.updColl j n fun c => { c with
        hdr := if c.hdr = 0 then chShared h else c.hdr, dies := put c.dies, ends := c.ends.filter fun b => decide (d.ents.length ≤ b)
        ended := some (c.ended.getD 8), spread := c.spread || spread }
    | none => s.updFab fun f => { f with colls := f.colls ++ [(⟨j, n, chShared h, clShared lay, [d], [], [], [], some 8, spread, [], [], none⟩ : Coll)] }
  ((s.updFab fun f => { f with cbkts := f.cbkts.filter fun x => !(x.1 == d.die && x.2.1 == j && x.2.2.1 == n) }).collSpread j n).collSweep j n

/-- The BUSY word of a bucket; a page that is not present suspends it, any other fault leaves it unwritten (R281, R426). -/
def State.busyWord (s : State) (d : CollDie) (b : Nat) : State :=
  let a := BitVec.ofNat 64 (d.cwa + 16 * b)
  match s.collStore d a (collWord 1 0 0) with
  | (s, none) => s
  | (s, some (cs, sub, va)) =>
    if faultWaits cs sub then
      let i := s.fab.parkN
      (s.updFab fun f => { f with busy := tset f.busy i (d, b), parkN := i + 1 }).queueFault 0 srcColl (s.tenantOf d.inp.job)
        (d.inp.job % 64 * 2 ^ 4 + b % 16) d.inp.view.x.asid cs sub true va (.busy i)
    else if cs = 0x0E then s.engineCheck d.die d.inp.job d.inp.serial (cs, sub, va)
    else s.engineDrop d.inp.job 0 a

/-- A resolved record of a BUSY word: it is written, or with FAIL stays unwritten (R281). -/
def State.resumeBusy (s : State) (i : Nat) (fail : Bool) : State :=
  match tfind s.fab.busy i with
  | none => s
  | some (d, b) =>
    let s := s.updFab fun f => { f with busy := terase f.busy i }
    if fail then s.engineDrop d.inp.job 0 (BitVec.ofNat 64 (d.cwa + 16 * b)) else s.busyWord d b

/-- A COLL of a pair that is active on its die: BUSY in its words, nothing else. -/
def State.collBusy (s : State) (d : CollDie) : State := (List.range d.ents.length).foldl (fun s b => s.busyWord d b) s

/-- Whether every bucket of a die's part is over there. -/
def CollDie.over (d : CollDie) : Bool := (List.range d.ents.length).all fun b => d.ends.contains b

/-- Shared fields of a record that differ from those the node has seen. -/
def Coll.clash (c : Coll) (h lay : Nat) (es : List (BitVec 256)) : Bool :=
  c.hdr != chShared h || c.lay != clShared lay || c.dies.any (fun d => d.ents.map ceLen != es.map ceLen) ||
    (c.lay == 0 && c.got.any fun k => decide (k.elems.length ≠ ceLen (es.getD k.bucket 0)))

/-- The record of a COLL or RESH: header, layout and bucket entries; unreadable is `none`, and the header alone when it was read. -/
def State.collRecord (s : State) (i : CopyIn) : State × Option (Nat × Nat × Option (List (BitVec 256))) :=
  let die := dieOf i.core
  let sp := i.cmd.md % 4
  if i.cmd.kind = .resh then
    match s.cpRead die i.view sp i.cmd.a 64 with
    | (s, .inl (bs, false)) =>
      let h := ofBytes bs
      match s.cpRead die i.view sp (i.cmd.a + 64#64) 64 with
      | (s, .inl (bs, false)) =>
        let l := ofBytes bs
        (s, some (h, l, some [BitVec.ofNat 256 (l % 2 ^ 128)]))
      | (s, _) => (s, some (h, 0, none))
    | (s, _) => (s, none)
  else
    match s.cpRead die i.view sp i.cmd.a 64 with
    | (s, .inl (bs, false)) =>
      let h := ofBytes bs
      let nb := chNb h
      if nb = 0 ∨ 16 < nb then (s, some (h, 0, some (List.replicate (Nat.max 1 (Nat.min nb 16)) 0)))
      else
        match s.cpRead die i.view sp (i.cmd.a + 64#64) (32 * nb) with
        | (s, .inl (es, false)) => (s, some (h, 0, some ((List.range nb).map fun b => BitVec.ofNat 256 (ofBytes (es.drop (32 * b)) % 2 ^ 256))))
        | (s, .inr (0x07, _, _)) => (s, some (h, 0, some (List.replicate nb 0)))
        | (s, _) => (s, some (h, 0, none))
    | (s, _) => (s, none)

/-- A COLL or RESH is accepted (log entry 201). -/
def State.collTake (s : State) (i : CopyIn) : State :=
  let die := dieOf i.core
  match s.collRecord i with
  | (s, none) => s.engineDrop i.job 0 i.cmd.a
  | (s, some (h, _, none)) =>
    let s := s.engineDrop i.job 0 i.cmd.a
    let fresh := match s.collAt i.job (chNum h) with | some c => c.ended.isNone | none => true
    s.collFail i.job h 0 ⟨die, i, 0, [], none, [], []⟩ fresh
  | (s, some (h, l, some es)) =>
    let d : CollDie := ⟨die, i, chCwa h, es, none, [], []⟩
    let bad := if i.cmd.kind = .resh then s.reshBad i.job h l else s.collBad i.job h es
    match s.collAt i.job (chNum h) with
    | some c =>
      if c.dies.any fun x => x.die == die && (c.ended.isNone || !x.over) then s.collBusy d
      else if c.ended.isSome then s.collFail i.job h l { d with st := some 8 } false
      else if bad then s.collFail i.job h l { d with st := some 2 } true
      else if c.clash h l es || !((chDies h).contains die) then s.collFail i.job h l { d with st := some 7 } true
      else s.updColl i.job (chNum h) fun c => { c with dies := c.dies ++ [d] }
    | none =>
      if bad then s.collFail i.job h l { d with st := some 2 } true
      else if !((chDies h).contains die) then s.collFail i.job h l { d with st := some 7 } true
      else s.updFab fun f => { f with colls := f.colls ++ [⟨i.job, chNum h, chShared h, clShared l, [d], [], [], [], none, false, [], [], none⟩] }

/-- The collective engine takes the oldest command of its intake: a COLL, a RESH, or a CWGT, whose weights are still to come
(R431). -/
def evCollAccept (s : State) : Out :=
  .next (
    match s.fab.collq with
    | [] => s
    | i :: rest =>
      if s.sn.dumped.isSome then s
      else
        let s := s.updFab fun f => { f with collq := rest }
        if i.cmd.kind = .cwgt then s.updFab fun f => { f with newWeights := some (i.cmd.a.setWidth 12) } else s.caused i.sent fun s => s.collTake i)

/-- New link weights take effect. -/
def evCwgtApply (s : State) : Out :=
  .next (match s.fab.newWeights with
    | none => s
    | some w => s.updFab fun f => { f with weights := w, newWeights := none })

/-- A chunk of another mesh node arrives: its shared fields are compared, and its elements kept (R427); one of a collective that is over here
comes too late. -/
def evCollChunkArrive (k : Chunk) (s : State) : Out :=
  .next (
    let n := chNum k.hdr.toNat
    if s.sn.dumped.isSome || s.collLate k.job n k.sent then s
    else s.caused k.sent fun s =>
      match s.collAt k.job n with
      | none => s.updFab fun f => { f with colls := f.colls ++ [⟨k.job, n, k.hdr, k.lay, [], [k], [], [], none, false, [], [], none⟩] }
      | some c =>
        if c.ended.isSome then s
        else if c.hdr != k.hdr || c.lay != k.lay || (!c.dies.isEmpty && decide (k.elems.length ≠ c.len k.bucket)) then
          (s.updColl k.job n fun c => { c with ended := some 7, spread := true }).collSpread k.job n
        else if c.got.any fun x => x.bucket == k.bucket && x.pos == k.pos then s
        else s.updColl k.job n fun c => { c with got := c.got ++ [k] })

/-- An abort arrives: the buckets that are not complete end ABORTED, and the pair is kept as aborted (R427); one for a collective that is over
here comes too late.  What it causes follows its timestamp (R333). -/
def evCollAbortArrive (j n sent : Nat) (s : State) : Out :=
  .next (
    if s.sn.dumped.isSome || s.collLate j n sent then s
    else
    match s.collAt j n with
    | none => s.updFab fun f => { f with colls := f.colls ++ [⟨j, n, 0, 0, [], [], [], [], some 8, false, [], [], some sent⟩] }
    | some c => if c.ended.isSome then s else s.updColl j n fun c => { c with ended := some 8, cause := some sent })

/-- A resolved record of a bucket (R327, R426, R427): a failed word stays unwritten, any other failure ends the collective. -/
def State.resumeColl (s : State) (j n d b : Nat) (fail : Bool) : State :=
  match s.collAt j n with
  | none => s
  | some c =>
    if !(c.stuck.contains (d, b)) then s
    else
      let s := s.updColl j n fun c => { c with stuck := c.stuck.filter fun x => x != (d, b) }
      if !fail then s
      else
        match c.dies.find? fun x => x.die == d with
        | none => s
        | some x =>
          if (tfind x.outs b).isSome then
            (s.updColl j n fun c => { c with failed := c.failed ++ [(d, b)] }).engineDrop j 0 (BitVec.ofNat 64 (x.cwa + 16 * b))
          else if c.ended.isSome then s
          else
            (s.updColl j n fun c => { (c.updDie d fun y => { y with st := some 3 }) with ended := some 8, spread := true }).collSpread j n

/-! The events, at the place and with the arguments in focus. -/

/-- The elements of a chunk from its arguments: bits, flags and poison of each. -/
def elemsOf : List Nat → List CElem
  | x :: f :: p :: t => ⟨x, BitVec.ofNat 6 f, p != 0⟩ :: elemsOf t
  | _ => []

def execCollAccept (s : State) : Out := evCollAccept s
def execBucketComplete (s : State) : Out := evBucketComplete (s.arg 0) (s.arg 1) (s.arg 2) s
def execCollAbortArrive (s : State) : Out := evCollAbortArrive (s.arg 0) (s.arg 1) (s.arg 2) s
def execCwgtApply (s : State) : Out := evCwgtApply s
def execCollChunkArrive (s : State) : Out :=
  evCollChunkArrive ⟨s.arg 0, chShared (ofBytes (s.cur.inp.take 64)), clShared (ofBytes (s.cur.inp.drop 64)), s.arg 1, s.arg 2,
    elemsOf (s.cur.arg.drop 4), s.arg 3⟩ s

end Sys2Proof.Machine
end

