-- ==== Sys2Proof/Machine/TranslateEvents.lean ====
section
/-! DEFINITION. Page walks, invalidations, resolved fault records, and writes of device registers (R325 to R327, R342, R361, R382). -/

namespace Sys2Proof.Machine

/-! Translation (R325, R326). -/

/-- The walk's answer for a requester: its core's TLB holds the leaf, or the access that missed reports the fault (R324). -/
def State.walkEnd (s : State) (w : Walk) (who : Nat × Nat) : State :=
  let x := s.xctxOf (s.ctxAt who.1 who.2)
  let va := BitVec.ofNat 64 w.va
  let acc := if w.wr then XAcc.write else XAcc.read
  if x.asid ≠ w.asid then s
  else
    let mark (s : State) : State := s.updCore who.1 fun k => { k with walked := (w.asid, w.va / 4096) :: k.walked.erase (w.asid, w.va / 4096) }
    let t := ((mark s).xlate who.1 x acc va).1
    if t.misses who.1 x acc va then mark t else t

/-- A walk ends (R325): it answers every requester that waits for its page; one that no bundle waits for is a context's own: its TLB
holds the leaf, or nothing changes and the access reports the fault (R324). -/
def evPageWalk (core ctx : Nat) (acc : XAcc) (va : Word) (s : State) : Out :=
  .next (
    match (s.walksOf (dieOf core)).find? fun w => w.who.contains (core, ctx) && w.va == va.toNat / 4096 * 4096 with
    | some w => w.who.foldl (fun s y => s.walkEnd w y) (s.setWalks (dieOf core) ((s.walksOf (dieOf core)).erase w))
    | none => (s.xlate core (s.xctxOf (s.ctxAt core ctx)) acc va).1)

/-- Drops TLB entries from every core of a die. -/
def State.tlbDrop (s : State) (die : Nat) (f : TlbEnt → Bool) : State :=
  { s with cores := s.cores.map fun (y : Nat × Core) =>
      (y.1, if dieOf y.1 = die then { y.2 with tlb := y.2.tlb.filter fun t => !(f t) } else y.2) }

/-- The ASID that a TLBINV value names, and the address of its page. -/
def tlbAsid (x : Nat) : Nat := bitsOf x 63 48
def tlbPage (x : Nat) : Nat := bitsOf x 47 12 * 4096

def evTlbinvPage (die x : Nat) (s : State) : Out :=
  .next (s.tlbDrop die fun t => t.asid == tlbAsid x && decide (t.va ≤ tlbPage x) && decide (tlbPage x < t.va + t.size))
def evTlbinvAsid (die x : Nat) (s : State) : Out := .next (s.tlbDrop die fun t => t.asid == tlbAsid x)
def evTlbinvAll (die : Nat) (s : State) : Out := .next (s.tlbDrop die fun _ => true)

/-! Resolved records (R327). -/

/-- Tenant of a suspended work. -/
def State.suspTenant (s : State) : Susp → Nat
  | .copy cl slot => ((s.copyAt cl slot).map fun c => s.tenantOf c.inp.job).getD 0
  | .drain core ctx serial t =>
    (((s.coreAt core).mq.find? fun e => e.stuck && e.cmd.ctx == ctx && e.cmd.serial == serial && e.cmd.tile == some t).map
      fun e => s.tenantOf e.cmd.job).getD 0
  | .tile core ctx serial t => (((s.coreAt core).tile ctx serial t).map fun x => s.tenantOf x.job).getD 0
  | .packet i => ((tfind s.fab.park i).map fun e => e.pkt.tenant).getD 0
  | .remote slot => ((s.remoteAt slot).map fun o => s.tenantOf o.inp.job).getD 0
  | .served i => ((tfind s.fab.served i).map RemReq.tenant).getD 0
  | .coll j _ _ _ => s.tenantOf j
  | .busy i => ((tfind s.fab.busy i).map fun y => s.tenantOf y.1.inp.job).getD 0

/-- A suspended work retries, or fails. -/
def State.resumeWork (s : State) (fail : Bool) (w : Susp × Word) : State :=
  match w.1 with
  | .copy cl slot => s.resumeCopy cl slot fail w.2
  | .drain core ctx serial t => s.resumeDrain core ctx serial t fail
  | .tile core ctx serial t => s.resumeTile core ctx serial t fail
  | .packet i => s.resumePacket i fail
  | .remote slot => s.resumeRemote slot fail
  | .served i => s.resumeServed i fail
  | .coll j n d b => s.resumeColl j n d b fail
  | .busy i => s.resumeBusy i fail

/-- RESOLVE of a record of a die: an index that names no suspended work does nothing. -/
def State.resolve (s : State) (die i : Nat) (fail : Bool) : State :=
  match tfind (s.dieAt die).faults i with
  | none => s
  | some w =>
    let s := (s.count (s.suspTenant w.1) die 0x0D 1).updDie die fun d => { d with faults := terase d.faults i }
    s.resumeWork fail w

def evResolveRetry (die i : Nat) (s : State) : Out := .next (s.resolve die i false)
def evResolveFail (die i : Nat) (s : State) : Out := .next (s.resolve die i true)

/-! Register writes (R326, R342, R361, R382). -/

def pkgBase : Nat := 0x3F_0010_0000

/-- Records that waited for queue room are written while there is some (R327). -/
def State.flushFaults (s : State) (die : Nat) : Nat → State
  | 0 => s
  | n + 1 =>
    let d := s.dieAt die
    match d.fqWait with
    | [] => s
    | (b, ten, w, least) :: rest =>
      if 256 ≤ d.fqN then s
      else State.flushFaults ((s.updDie die fun d => { d with fqWait := rest }).putFault die ten b w least) die n

/-- A write of a die's control block: read-only registers, reserved bits and unlisted offsets drop what is written. -/
def State.dieReg (s : State) (die off : Nat) (x : Word) : State :=
  let put (m : Word) : State := s.setReg (ctlBase die + off) (x &&& m)
  if off = 0x40 then put (~~~ 0x1FFF#64)
  else if off = 0x50 then
    let h := (s.reg (ctlBase die + 0x48)).toNat
    let t := x.toNat % 256
    let s := (s.setReg (ctlBase die + 0x50) (BitVec.ofNat 64 t)).updDie die fun d => { d with fqN := (h + 256 - t) % 256 }
    s.flushFaults die (s.dieAt die).fqWait.length
  else if off = 0x100 then put (~~~ 0x7FFF#64)
  else if 0x1000 ≤ off ∧ off < 0x5000 then
    let r := off % 0x100
    if r = 0 then put 3#64
    else if r < 0x48 then put allOnes
    else if r < 0x68 then put 0x1FFF#64
    else s
  else s

/-- The extents of a DOMAIN value lie within the torus. -/
def domainFits (nodecfg x : Word) : Bool :=
  (List.range 3).all fun a => decide (bitsOf x.toNat (4 * a + 18) (4 * a + 15) ≤ bitsOf nodecfg.toNat (5 * a + 19) (5 * a + 15))

/-- Numbers a register write's requester: PF0 and the supervisor 0, a VF 1 to 255, Sniras 256. -/
def fnSniras : Nat := 256

/-- Writing AQCFG with the enable bit newly set starts the queue afresh (R361). -/
def State.aqConfig (s : State) (x : Word) : State :=
  let was := (s.reg (pkgBase + 0x88)).getLsbD 8
  let s := s.setReg (pkgBase + 0x88) (x &&& 0x30F#64)
  if x.getLsbD 8 && !was then (s.setReg (pkgBase + 0x98) 0).setReg (pkgBase + 0xA0) 0 else s

/-- A write of the package control block by PF0, a VF or Sniras. -/
def State.pkgReg (s : State) (off : Nat) (x : Word) (fn : Nat) : State :=
  let put (m : Word) : State := s.setReg (pkgBase + off) (x &&& m)
  let pf := fn == 0
  if off = 0x100 then
    if pf then put 0x1FFF#64
    else { s with sn := { s.sn with tdis := tset s.sn.tdis fn { tget ⟨.unlocked, 0, 0⟩ s.sn.tdis fn with apkey := x.toNat % 2 ^ 13 } } }
  else if 0x1000 ≤ off ∧ off < 0x1400 then
    let j := (off - 0x1000) / 0x10
    let mine := pf || match tfind s.jobs j with | some b => b.func == fn | none => false
    if !mine then s
    else if off % 0x10 = 0 then put allOnes
    else if off % 0x10 = 8 then let t := put allOnes; t.flushReports j (t.job j).reports.length
    else s
  else if off = 0x2400 then (if fn = fnSniras then { s with nodecfg := x &&& 0x3FFF_FFFF#64 } else s)
  else if !pf then s
  else if 0x20 ≤ off ∧ off < 0x40 then put allOnes
  else if off = 0x80 then put (~~~ 0xFFF#64)
  else if off = 0x88 then s.aqConfig x
  else if off = 0x90 then put allOnes
  else if 0x2000 < off ∧ off < 0x2200 then { s with apt := tset s.apt ((off - 0x2000) / 8) (x &&& 0xFFFF#64) }
  else if off = 0x2408 then (if domainFits s.nodecfg x then { s with domain := x &&& 0x0FFF_FFFF#64 } else s)
  else s

/-! Sniras's debug access path (R345). -/

/-- Where the path's accesses lie: 2^60, the core above bit 20, and the register as XWR's immediate (log entry 166). -/
def dbgPath : Nat := 2 ^ 60

/-- A read or write of a stopped context's register by Sniras, with the values and the wake of XRD and XWR; a value that XWR refuses is
dropped, and a read's answer leaves on the side-band. -/
def State.dbgAccess (s : State) (a : Nat) (x : Word) (write : Bool) : State :=
  let core := (a - dbgPath) / 2 ^ 20
  let part := bitsOf a 19 17
  match xregOf (bitsOf a 16 0) with
  | none => s
  | some r =>
    let t := s.ctxAt core part
    if t.stat != .frozen || decide (4 < part) then s
    else
      let s := s.wakeBank core part (r.bank t)
      if write then (if r.valueOk x then s.updCtxAt core part fun c => r.write c x else s)
      else { s with hostOut := s.hostOut ++ [.reply true (toBytes (s.xread core part r).toNat 8)] }

/-- Numbers by which Sniras writes a register, reads one by the debug path, and selects the port that disciplines time (R330). -/
def fnSnirasRead : Nat := 257
def fnSnirasTime : Nat := 258

/-- A write of a device register, by requester. -/
def evRegisterWrite (a : Nat) (x : Word) (fn : Nat) (s : State) : Out :=
  .next (
    if fn = fnSnirasTime then { s with timeRef := x.toNat % 2 }
    else if dbgPath ≤ a ∧ fnSniras ≤ fn then s.dbgAccess a x (fn == fnSniras)
    else match plocOf a with
    | .ctl d off => if fn = 0 then s.dieReg d (off / 8 * 8) x else s
    | .pkgCtl off => s.pkgReg (off / 8 * 8) x fn
    | _ => s)

/-! The events, at the place and with the arguments in focus. -/

def xaccOf (n : Nat) : XAcc := match n with | 0 => .read | 1 => .write | _ => .fetch

def execPageWalk (s : State) : Out := evPageWalk s.cur.core s.cur.ctx (xaccOf (s.arg 1)) (BitVec.ofNat 64 (s.arg 0)) s
def execTlbinvPage (s : State) : Out := evTlbinvPage (s.arg 0) (s.arg 1) s
def execTlbinvAsid (s : State) : Out := evTlbinvAsid (s.arg 0) (s.arg 1) s
def execTlbinvAll (s : State) : Out := evTlbinvAll (s.arg 0) s
def execResolveRetry (s : State) : Out := evResolveRetry (s.arg 0) (s.arg 1) s
def execResolveFail (s : State) : Out := evResolveFail (s.arg 0) (s.arg 1) s
def execRegisterWrite (s : State) : Out := evRegisterWrite (s.arg 0) (BitVec.ofNat 64 (s.arg 1)) (s.arg 2) s

end Sys2Proof.Machine
end

