-- ==== Sys2Proof/Machine/TraceEvents.lean ====
section
/-! DEFINITION. The Bellows events: sinks and their rings, stalls, matrix summaries, time steps, and the patrol scrub (R330, R335 to
R341, R347). -/

namespace Sys2Proof.Machine

/-! Rings (R335). -/

def ringBase (d : Nat) : Nat := bitsOf d 511 448
def ringSize (d : Nat) : Nat := 128 * bitsOf d 447 416
def ringWptr (d : Nat) : Nat := bitsOf d 415 384
def ringRptr (d : Nat) : Nat := bitsOf d 383 352
def ringFull (d : Nat) : Bool := (ringWptr d + 2 ^ 32 - ringRptr d) % 2 ^ 32 == ringSize d % 2 ^ 32

/-- A record is written to a tenant's ring, and then WPTR advances. -/
def State.ringWrite (s : State) (die tenant : Nat) (body : BitVec 256) : State :=
  let d := s.stream die tenant
  let s := s.storeBytes s.key0 (ringBase d + 32 * (ringWptr d % ringSize d)) (toBytes body.toNat 32)
  s.storeBytes s.key0 (s.streamAt die tenant + 48) (toBytes ((ringWptr d + 1) % 2 ^ 32) 4)

/-- The sink's own DROP record, before its next record of the ring (R338). -/
def State.sinkDrop (s : State) (die tenant : Nat) : State :=
  let src := srcSink die
  let r := s.source src
  match tfind r.drops tenant with
  | none => s
  | some (n, first, last) =>
    let s := s.setSource src { r with drops := terase r.drops tenant }
    if !streamType (s.stream die tenant) 0x11 then s
    else
      let ts := Max.max s.now r.last
      let sq := tget 0 r.seq tenant
      let body := dropBody src tenant n first last (if s.lossless (s.stream die tenant) then 2 else 0)
      let s := s.setSource src { s.source src with last := ts, seq := tset r.seq tenant ((sq + 1) % 2 ^ 16) }
      s.ringWrite die tenant (BitVec.ofNat 256 (body.toNat + sq % 2 ^ 16 * 2 ^ 224 + ts % 2 ^ 64))

/-- A record that the sink drops is counted with the sink's own (R338); its number was its source's. -/
def State.sinkLose (s : State) (die tenant : Nat) : State :=
  let src := srcSink die
  let r := s.source src
  let (n, first, _) := tget (0, s.now, 0) r.drops tenant
  (s.setSource src { r with drops := tset r.drops tenant (n + 1, if n = 0 then s.now else first, s.now) }).count tenant die 0x0B 1

/-- Cores and engines whose credits a full lossless ring withholds (R337). -/
def withheld (src : Nat) : Bool := (decide (src / 2 ^ 13 < 4) && decide (src % 2 ^ 13 < 0x48)) || src == srcColl

/-- A record that a full ring keeps at the sink. -/
def State.keptBack (s : State) (die : Nat) (x : SinkRec) : Bool :=
  let d := s.stream die x.tenant
  recordPasses d (bitsOf x.body.toNat 199 192) && ringFull d && s.lossless d && withheld x.src

/-- The sink of a die takes its oldest record that no full ring keeps back: it is written to its tenant's ring, or dropped and
counted, and its source's credit returns. -/
def evTraceSinkWrite (die : Nat) (s : State) : Out :=
  .next (
    let q := tget [] s.sinks die
    match q.find? fun x => !(s.keptBack die x) with
    | none => s
    | some x =>
      let s := { s with sinks := tset s.sinks die (q.erase x) }
      let s :=
        if !recordPasses (s.stream die x.tenant) (bitsOf x.body.toNat 199 192) then s
        else
          let s := if ringFull (s.stream die x.tenant) then s else s.sinkDrop die x.tenant
          if ringFull (s.stream die x.tenant) then s.sinkLose die x.tenant else s.ringWrite die x.tenant x.body
      s.creditBack x.src)

/-- One cycle of a source's stall for want of a credit (R337, R340): of a core, one of its cycles. -/
def evTraceStall (src : Nat) (s : State) : Out :=
  .next (
    if !s.stalled src then s
    else if isCoreSrc src then s.cycle (src / 2 ^ 13 * 64 + src % 2 ^ 13)
    else s.stallCycle src)

/-- The summaries that a core emits every 65,536 cycles (R341). -/
def evMxsum (core : Nat) (s : State) : Out := .next (s.mxFlush core false fun _ => true)

/-- A correction of the time master by the port that disciplines it (R330): one toward an earlier time slews it, after those that still
do; one toward a later time steps it at once, and is recorded where it is of more than 1 µs. -/
def evTimeStep (size ref : Nat) (back : Bool) (s : State) : Out :=
  .next (
    if ref % 2 ≠ s.timeRef then s
    else if back then
      let start := s.slews.foldl (fun m y => Max.max m (y.1 + 10000 * y.2)) s.elapsed
      { s with slews := s.slews ++ [(start, size)] }
    else
      let s := { s with time := s.time + size }
      if size ≤ 16000 then s else s.emit srcTime 0 0x13 (size % 2 ^ 64 + ref % 2 * 2 ^ 64))

/-- The patrol scrub reads a DRAM line (R347): `errs` 0 none, 1 a single-bit error, corrected in place, 2 an uncorrectable word, which
is poisoned (R220). -/
def evPatrolScrub (pa errs : Nat) (s : State) : Out :=
  .next (match plocOf pa with
    | .dram d =>
      let src := d * 2 ^ 13 + 0x052
      (match errs with
        | 0 => s
        | 1 => s.emit src 0 0x28 (pa % 2 ^ 48)
        | _ => (s.poisonRange (pa / 8 * 8) 8).emit src 0 0x29 (pa % 2 ^ 48 + 2 ^ 56))
    | _ => s)

/-! The events, at the place and with the arguments in focus. -/

def execTraceSinkWrite (s : State) : Out := evTraceSinkWrite (s.arg 0) s
def execTraceStall (s : State) : Out := evTraceStall (s.arg 0) s
def execMxsum (s : State) : Out := evMxsum s.cur.core s
def execTimeStep (s : State) : Out := evTimeStep (s.arg 0) (s.arg 1) (s.arg 2 != 0) s
def execPatrolScrub (s : State) : Out := evPatrolScrub (s.arg 0) (s.arg 1) s

end Sys2Proof.Machine
end

