-- ==== Sys2Proof/Machine/Admin.lean ====
section
/-! DEFINITION. Administrative commands, tenants, keys, admission, submission queues and feature negotiation (R349, R357 to R363,
R366, R371).  A command's event carries the side it came from (0 the host's queue, 1 the side-band), its TAG and its arguments. -/

namespace Sys2Proof.Machine

/-! Commands and responses (R362, R366). -/

/-- Status codes of R362. -/
def admOk : Nat := 0
def admMalformed : Nat := 1
def admBusy : Nat := 2
def admDenied : Nat := 3
def admInvalid : Nat := 4
def admNotOwner : Nat := 5
def admAborted : Nat := 6

/-- Which master may issue a command (R366). -/
inductive AdmClass where
  /-- job control, tenant and key commands: the host -/
  | job
  /-- KILLJOB: the side-band too while the link is down, with feature 6 -/
  | kill
  /-- served from either master -/
  | either
  deriving DecidableEq, Repr

def State.aqLog (s : State) : Nat := bitsOf (s.reg (pkgBase + 0x88)).toNat 3 0

/-- Whether a command is there to be served: the host's waits at AQHEAD of an enabled queue. -/
def State.adminOpen (s : State) : Bool :=
  s.sn.dumped.isNone &&
  (s.arg 0 != 0 || (s.dmaOn && s.linkUp && (s.reg (pkgBase + 0x88)).getLsbD 8 &&
    s.reg (pkgBase + 0x90) != s.reg (pkgBase + 0x98)))

/-- A 16-byte response (R362). -/
def adminWord (tag status value : Nat) : Nat := status % 256 + tag % 2 ^ 16 * 2 ^ 8 + value % 2 ^ 64 * 2 ^ 64

/-- The response: to the host behind its command ring, with AQHEAD and AQDONE advanced and MSI-X vector 0 when AQCFG asks for it; to the
side-band as the reply of its message (R362, R371). -/
def State.adminEnd (s : State) (status value : Nat) : State :=
  let w := adminWord (s.arg 1) status value
  if s.arg 0 ≠ 0 then { s with hostOut := s.hostOut ++ [.reply true (toBytes w 16)] }
  else
    let n := 2 ^ s.aqLog
    let i := (s.reg (pkgBase + 0x98)).toNat
    let a := (s.reg (pkgBase + 0x80)).toNat + 64 * n + 16 * (i % n)
    let vec : List HostMsg := if (s.reg (pkgBase + 0x88)).getLsbD 9 then [.msix 0 0] else []
    let s := { s with hostOut := s.hostOut ++ HostMsg.write 0 a 16 w :: vec }
    (s.setReg (pkgBase + 0x98) (BitVec.ofNat 64 (i + 1))).setReg (pkgBase + 0xA0)
      (BitVec.ofNat 64 (((s.reg (pkgBase + 0xA0)).toNat + 1) % 2 ^ 32))

/-- Whether R366 lets the command's master issue it. -/
def State.adminMay (s : State) (c : AdmClass) : Bool :=
  s.arg 0 == 0 || match c with
    | .job => false
    | .kill => !s.linkUp && s.feat.getLsbD 6
    | .either => true

/-- Serves a command: `f` gives the state, the status and the value.  In recovery every command fails (R369). -/
def State.admin (s : State) (c : AdmClass) (f : State → State × Nat × Nat) : State :=
  if !s.adminOpen then s
  else if s.sn.recovery then s.adminEnd admInvalid 0
  else if !s.adminMay c then s.adminEnd admNotOwner 0
  else let r := f s; r.1.adminEnd r.2.1 r.2.2

/-! Admission (R358). -/

def adField (r h l : Nat) : Nat := bitsOf r h l
def adTenant (r : Nat) : Nat := bitsOf r 7 0
def adFunc (r : Nat) : Nat := bitsOf r 15 8
def adAsid (r : Nat) : Nat := bitsOf r 31 16
def adRoot (r : Nat) : Nat := bitsOf r 65 32
def adSqLog (r : Nat) : Nat := bitsOf r 69 66
def adCqLog (r : Nat) : Nat := bitsOf r 73 70
def adPerm (r : Nat) : Nat := bitsOf r 191 128
def adWin (r d : Nat) : Nat × Nat := (bitsOf r (19 * d + 200) (19 * d + 192), bitsOf r (19 * d + 210) (19 * d + 201))
def adCrBase (r : Nat) : Nat := bitsOf r 278 268
def adCrSize (r : Nat) : Nat := bitsOf r 290 279
def adSq (r : Nat) : Nat := bitsOf r 575 512
def adCq (r : Nat) : Nat := bitsOf r 639 576

def State.tdi (s : State) (f : Nat) : Tdi := tget ⟨.unlocked, 0, 0⟩ s.sn.tdis f
def State.setTdi (s : State) (f : Nat) (t : Tdi) : State := { s with sn := { s.sn with tdis := tset s.sn.tdis f t } }
def State.confidential (s : State) (t : Nat) : Bool := ((tfind s.tenants t).map Tenant.conf).getD false

/-- A function is a TDI in RUN bound to a tenant (R365); PF0 is none. -/
def State.tdiServes (s : State) (f tenant : Nat) : Bool :=
  f != 0 && decide ((s.tdi f).st = .run) && (s.tdi f).tenant == tenant

/-- R358's malformed records. -/
def State.admitBad (s : State) (r : Nat) : Bool :=
  let inStore (base size lim : Nat) : Bool := decide (size ≤ lim) && decide (base + size ≤ lim)
  let logOk (n : Nat) : Bool := decide (6 ≤ n) && decide (n ≤ 16)
  bitsOf r 1023 640 != 0 || bitsOf r 511 291 != 0 || bitsOf r 127 74 != 0 || bitsOf (adPerm r) 31 11 != 0 ||
  (tfind s.tenants (adTenant r)).isNone || adAsid r == 0 ||
  (s.jobs.any fun y => decide (y.2.st = .running) && y.2.asid == adAsid r) ||
  !((List.range 4).all fun d => inStore (adWin r d).1 (adWin r d).2 512) || !(inStore (adCrBase r) (adCrSize r) 2048) ||
  !(logOk (adSqLog r)) || !(logOk (adCqLog r)) ||
  (s.confidential (adTenant r) && !s.tdiServes (adFunc r) (adTenant r))

/-- A job as a record admits it, with phase 0 open. -/
def jobOf (r : Nat) : Job :=
  { Job.zero with
    st := .running, tenant := adTenant r, asid := adAsid r, root := adRoot r * 4096, perm := BitVec.ofNat 64 (adPerm r)
    crBase := adCrBase r, crSize := adCrSize r, dsw := (List.range 4).map (adWin r), func := adFunc r
    sq := adSq r, sqLog := adSqLog r, cq := adCq r, cqLog := adCqLog r }

/-- A job's place in the tables that R340, R361, R387, R405 and R419 key by its index starts afresh. -/
def State.openJob (s : State) (j r : Nat) : State :=
  let t := adTenant r
  let other := s.jobs.any fun y => y.1 != j && y.2.tenant == t && (decide (y.2.st = .running))
  let f : FabJob := ⟨t, BitVec.ofNat 32 (adPerm r / 2 ^ 32), adCrBase r, adCrSize r, adAsid r⟩
  let s := { s with
    jobs := tset s.jobs j (jobOf r)
    counters := if other then s.counters else s.counters.filter fun y => y.1 / 64 != t
    fab := { s.fab with
      jobs := tset s.fab.jobs j f
      dctr := s.fab.dctr.filter fun y => y.1 / 64 != j
      colls := s.fab.colls.filter fun c => c.job != j
      cbkts := s.fab.cbkts.filter fun c => c.2.1 != j
      collOver := s.fab.collOver.filter fun y => y.1 / 2 ^ 32 != j } }
  (s.setReg (pkgBase + 0x1000 + 0x10 * j) 0).setReg (pkgBase + 0x1008 + 0x10 * j) 0

/-- The lowest index that no running or killed job holds, and none whose reports still wait for the completion queue. -/
def State.freeJob (s : State) : Option Nat :=
  (List.range 64).find? fun j => (decide ((s.job j).st = .free) || decide ((s.job j).st = .done)) && (s.job j).reports.isEmpty

/-- ADMIT of a record. -/
def evAdmit (r : Nat) (s : State) : Out :=
  .next (s.admin .job fun s =>
    if !s.sn.negotiated then (s, admInvalid, 0)
    else if s.admitBad r then (s, admMalformed, 0)
    else
      match s.freeJob with
      | none => (s, admBusy, 0)
      | some j => (s.openJob j r, admOk, j))

/-! Jobs (R253, R295, R362). -/

/-- The host closes a job: its open phase closes, and it completes when nothing is left. -/
def State.closeJob (s : State) (j : Nat) : State :=
  (s.updJob j fun b => { b with closed := true, phaseClosed := true }).phaseEnd j

/-- A job is freed; its completion queue stays until the reports that wait for it are written (R362). -/
def State.endJob (s : State) (j : Nat) : State :=
  if (s.job j).reports.isEmpty then { s with jobs := terase s.jobs j } else s.updJob j fun b => { b with st := .free }

/-- CLOSEJOB; a job that is done, or that a link-down killed, is freed (R367). -/
def evClosejob (j : Nat) (s : State) : Out :=
  .next (s.admin .job fun s =>
    if 64 ≤ j then (s, admInvalid, 0)
    else match (s.job j).st with
      | .free => (s, admInvalid, 0)
      | .running => (s.closeJob j, admOk, 0)
      | _ => (s.endJob j, admOk, 0))

/-- KILLJOB, as CANC at job level (R295), with its own subcode (R211). -/
def evKilljob (j : Nat) (s : State) : Out :=
  .next (s.admin .kill fun s =>
    if 64 ≤ j ∨ (s.job j).st ≠ .running then (s, admInvalid, 0) else (s.killJob 4 j 0x11 0x02 0, admOk, 0))

def JobSt.code : JobSt → Nat
  | .free => 0 | .running => 1 | .done => 2 | .linkKilled => 3

def evJobstat (j : Nat) (s : State) : Out :=
  .next (s.admin .either fun s => if 64 ≤ j then (s, admInvalid, 0) else (s, admOk, (s.job j).st.code))

/-! Tenants and keys (R349, R351, R357). -/

def evTenantCreate (t conf digest : Nat) (s : State) : Out :=
  .next (s.admin .job fun s =>
    if t = 0 ∨ 256 ≤ t then (s, admInvalid, 0)
    else if conf ≠ 0 ∧ !s.feat.getLsbD 0 then (s, admInvalid, 0)
    else if (tfind s.tenants t).isSome then (s, admBusy, 0)
    else ({ s with tenants := tset s.tenants t ⟨conf != 0, BitVec.ofNat 256 digest⟩ }, admOk, 0))

/-- Whether a job or a LOADED key still belongs to a tenant. -/
def State.tenantBusy (s : State) (t : Nat) : Bool :=
  (s.jobs.any fun y => y.2.tenant == t && (decide (y.2.st = .running) || decide (y.2.st = .linkKilled))) ||
  s.keys.any fun y => y.2.owner == t

def evTenantDestroy (t : Nat) (s : State) : Out :=
  .next (s.admin .job fun s =>
    if (tfind s.tenants t).isNone then (s, admInvalid, 0)
    else if s.tenantBusy t then (s, admBusy, 0)
    else ({ s with tenants := terase s.tenants t }, admOk, 0))

/-- A key becomes LOADED for a tenant. -/
def State.loadKey (s : State) (k t : Nat) (mat : BitVec 512) : State := { s with keys := tset s.keys k ⟨mat, t⟩ }

/-- A key becomes EMPTY on every controller at one instant (R351); the PASS records kept with it are lost (R375). -/
def State.dropKey (s : State) (k : Nat) : State :=
  { s with keys := terase s.keys k
           sn := { s.sn with sendPass := terase s.sn.sendPass k, recvPass := terase s.sn.recvPass k } }

/-- KEYGEN: Sniras draws the material. -/
def evKeygen (k t : Nat) (s : State) : Out :=
  .next (s.admin .job fun s =>
    if k = 0 then (s, admDenied, 0)
    else if 8192 ≤ k ∨ (tfind s.tenants t).isNone then (s, admInvalid, 0)
    else if s.confidential t then (s, admDenied, 0)
    else if (tfind s.keys k).isSome then (s, admBusy, 0)
    else ((s.loadKey k t (Config.randomKey s.fresh)).draw, admOk, 0))

def evKeyzero (k : Nat) (s : State) : Out :=
  .next (s.admin .job fun s =>
    if k = 0 then (s, admDenied, 0)
    else if 8192 ≤ k then (s, admInvalid, 0)
    else if ((tfind s.keys k).map fun r => s.confidential r.owner).getD false then (s, admDenied, 0)
    else (s.dropKey k, admOk, 0))

/-! Counters (R340). -/

/-- The counter query; a denied one puts PROBE_DENIED into the tenant's ring with its requester, 1 for the side-band. -/
def evCounter (t d c : Nat) (s : State) : Out :=
  .next (s.admin .either fun s =>
    if 256 ≤ t ∨ 4 ≤ d ∨ 0x10 ≤ c then (s, admInvalid, 0)
    else if !(streamAllow (s.stream d t) c) then
      (s.emit srcHost t 0x12 (c + (if s.arg 0 = 0 then 0 else 2 ^ 8) + d * 2 ^ 10), admDenied, 0)
    else (s, admOk, tget 0 s.counters ((t * 4 + d) * 16 + c)))

/-! FWCONFIRM (R366, R371). -/

/-- A side-band request of the firmware class aborts a host update; the host is told so. -/
def State.abortUpdate (s : State) : State :=
  match s.sn.update with
  | some false => { s with sn := { s.sn with update := none }, hostOut := s.hostOut ++ [.reply false [BitVec.ofNat 8 admAborted]] }
  | _ => s

/-- A slot that holds no image. -/
def FwSlot.none : FwSlot := ⟨0, 0, [], 0⟩

/-- OTPSVN rises to the running slot's SVN and never falls. -/
def State.blowFuses (s : State) : State :=
  let v := (tget FwSlot.none s.sn.slots s.sn.running).svn
  { s with sn := { s.sn with otpsvn := Max.max s.sn.otpsvn v } }

def evFwconfirm (s : State) : Out :=
  .next (s.admin .either fun s =>
    let s := if s.arg 0 = 0 then s else s.abortUpdate
    if s.sn.update.isSome then (s, admBusy, 0)
    else if !s.sn.healthy || s.sn.fb then (s, admDenied, 0)
    else (s.blowFuses, admOk, s.blowFuses.sn.otpsvn))

/-! Submission queues (R362). -/

/-- Takes the next entry of a job's submission queue when its doorbell shows one: `kind` and the descriptor's address. -/
def State.sqEntry (s : State) (j : Nat) (f : State → State) : State :=
  let b := s.job j
  if b.st ≠ .running ∨ !s.dmaOn ∨ s.sn.dumped.isSome ∨
      (s.reg (pkgBase + 0x1000 + 0x10 * j)).toNat = b.sqHead then s
  else f (s.updJob j fun b => { b with sqHead := (b.sqHead + 1) % 2 ^ 64 })

/-- Entry kind 1 submits a graph to a die; any kind but 1 to 3 is a malformed graph. -/
def evSqSubmitGraph (j kind : Nat) (a : Word) (d : Nat) (s : State) : Out :=
  .next (s.sqEntry j fun s => if kind = 1 then s.submitGraph (d % 4) j 0 a none 0 false else s.badGraph j)

/-- Closes the open phase (R258). -/
def evSqClosePhase (j : Nat) (s : State) : Out :=
  .next (s.sqEntry j fun s => (s.updJob j fun b => { b with phaseClosed := true }).phaseEnd j)

def evSqCloseJob (j : Nat) (s : State) : Out := .next (s.sqEntry j fun s => s.closeJob j)

/-! Negotiation (R363). -/

/-- FEATACC's four registers. -/
def State.featAcc (s : State) : BitVec 256 :=
  (List.range 4).foldl (fun x i => x ||| ((s.reg (pkgBase + 0x20 + 8 * i)).setWidth 256 <<< (64 * i))) 0

/-- A commit, by PF0: rejected when it names a feature that is not offered, or changes the kept map while a job is admitted. -/
def evFeatctlCommit (x : Word) (fn : Nat) (s : State) : Out :=
  .next (
    if fn ≠ 0 ∨ !x.getLsbD 0 then s
    else
      let a := s.featAcc
      let live := s.jobs.any fun y => decide (y.2.st = .running)
      if a &&& ~~~ s.sn.offered ≠ 0 ∨ (s.sn.negotiated ∧ a ≠ s.feat ∧ live) then { s with sn := { s.sn with featCtl := 2 } }
      else { s with feat := a, sn := { s.sn with featCtl := 1, negotiated := true } })

/-! The events, with the arguments in focus. -/

def execAdmitJob (s : State) : Out := evAdmit (s.arg 2) s
def execClosejob (s : State) : Out := evClosejob (s.arg 2) s
def execKilljob (s : State) : Out := evKilljob (s.arg 2) s
def execJobstat (s : State) : Out := evJobstat (s.arg 2) s
def execTenantCreate (s : State) : Out := evTenantCreate (s.arg 2) (s.arg 3) (s.arg 4) s
def execTenantDestroy (s : State) : Out := evTenantDestroy (s.arg 2) s
def execKeygen (s : State) : Out := evKeygen (s.arg 2) (s.arg 3) s
def execKeyzero (s : State) : Out := evKeyzero (s.arg 2) s
def execCounter (s : State) : Out := evCounter (s.arg 2) (s.arg 3) (s.arg 4) s
def execFwconfirm (s : State) : Out := evFwconfirm s
def execSqSubmitGraph (s : State) : Out := evSqSubmitGraph (s.arg 0) (s.arg 3) (BitVec.ofNat 64 (s.arg 1)) (s.arg 2) s
def execSqClosePhase (s : State) : Out := evSqClosePhase (s.arg 0) s
def execSqCloseJob (s : State) : Out := evSqCloseJob (s.arg 0) s
def execFeatctlCommit (s : State) : Out := evFeatctlCommit (BitVec.ofNat 64 (s.arg 0)) (s.arg 1) s

end Sys2Proof.Machine
end

