-- ==== Sys2Proof/Machine/Migration.lean ====
section
/-! DEFINITION. Migration: quiescing, the pre-copy engine's streams, and saved-state records (R374 to R377).  What the spec leaves to a
layout "that grows at its end" follows the listed fields as this model's own words (log entry 40). -/

namespace Sys2Proof.Machine

/-! Records (R377). -/

def rtJob : Nat := 0x0001
def rtGraph : Nat := 0x0002
def rtContext : Nat := 0x0003
def rtTile : Nat := 0x0004
def rtWindow : Nat := 0x0005
def rtPage : Nat := 0x0006
def rtDumphdr : Nat := 0x0010
def rtChanstate : Nat := 0x0011
def rtParked : Nat := 0x0012
def rtEnd : Nat := 0x7FFF

/-- CRIT of a record type. -/
def recCrit (typ : Nat) : Bool := typ == 0x7FFF || decide (typ ≤ 5)

/-- A record's 16-byte header. -/
def recHeader (seq len typ : Nat) : Nat :=
  seq % 2 ^ 64 * 2 ^ 64 + len % 2 ^ 32 * 2 ^ 32 + 2 ^ 16 + (if recCrit typ then 2 ^ 15 else 0) + typ % 2 ^ 15

def pad16 (b : List Byte) : List Byte := b ++ List.replicate ((16 - b.length % 16) % 16) 0

/-- 64-bit words as bytes, and back. -/
def wordsBytes (l : List Nat) : List Byte := l.flatMap fun x => toBytes x 8
def byteWords : List Byte → List Nat
  | a :: b :: c :: d :: e :: f :: g :: h :: t => ofBytes [a, b, c, d, e, f, g, h] :: byteWords t
  | _ => []

def flag (b : Bool) (i : Nat) : Nat := if b then 2 ^ i else 0
def wAt (l : List Nat) (i : Nat) : Nat := l.getD i 0

/-! Saved state of a job. -/

/-- JOB: the admission record, the open phase, and what the model keeps of the phases. -/
def Job.record (b : Job) : Nat :=
  b.tenant % 2 ^ 8 + b.func % 2 ^ 8 * 2 ^ 8 + b.asid % 2 ^ 16 * 2 ^ 16 + b.root / 4096 % 2 ^ 34 * 2 ^ 32 + b.sqLog % 16 * 2 ^ 66 +
  b.cqLog % 16 * 2 ^ 70 + b.perm.toNat * 2 ^ 128 +
  ((b.dsw.zipIdx.map fun (w, d) => (w.1 % 2 ^ 9 + w.2 % 2 ^ 10 * 2 ^ 9) * 2 ^ (192 + 19 * d)).sum) +
  b.crBase % 2 ^ 11 * 2 ^ 268 + b.crSize % 2 ^ 12 * 2 ^ 279 + b.sq % 2 ^ 64 * 2 ^ 512 + b.cq % 2 ^ 64 * 2 ^ 576

def jobBody (b : Job) : List Byte :=
  toBytes b.record 128 ++ wordsBytes ([b.phase, flag b.phaseClosed 0 + flag b.phaseDone 1 + flag b.closed 2 + b.status.code * 16, b.phSt.length] ++
    b.phSt.flatMap fun (p, st) => [p, st.code])

def statusOf (n : Nat) : CStatus := match n with | 0 => .ok | 1 => .failed | _ => .cancelled

/-- JOB at the receiver: the windows must match; phases come as they stood. -/
def State.putJob (s : State) (j : Nat) (body : List Byte) : State × Nat :=
  let r := ofBytes (body.take 128)
  let w := byteWords (body.drop 128)
  let b := s.job j
  if !((List.range 4).all fun d => (adWin r d).2 == (b.dsw.getD d (0, 0)).2) || adCrSize r != b.crSize then (s, admInvalid)
  else
    let f := wAt w 1
    (s.updJob j fun b => { b with
      phase := wAt w 0, phaseClosed := bitsOf f 0 0 == 1, phaseDone := bitsOf f 1 1 == 1, closed := bitsOf f 2 2 == 1
      status := statusOf (bitsOf f 5 4)
      phSt := (List.range (wAt w 2)).map fun i => (wAt w (3 + 2 * i), statusOf (wAt w (4 + 2 * i))) }, admOk)

def NodeSt.code : NodeSt → Nat
  | .waiting => 0 | .deferred => 1 | .ready => 2 | .suspended => 3 | .active => 4 | .done => 5 | .cancelled => 6
def nodeStOf (n : Nat) : NodeSt :=
  match n with | 0 => .waiting | 1 => .deferred | 2 => .ready | 3 => .suspended | 4 => .active | 5 => .done | _ => .cancelled
def NodeKind.code : NodeKind → Nat
  | .launch => 0 | .copy => 1 | .gate => 2
def nodeKindOf (n : Nat) : NodeKind := match n with | 0 => .launch | 1 => .copy | _ => .gate

/-- A node-table entry in words: flags and count, record address, progress, successors, removed indices, its launch's tasks that
still wait in ready queues, and what TASKS and CANC left for its record. -/
def State.nodeWords (s : State) (d n : Nat) : List Nat :=
  let x := s.node d n
  let ready := s.clusters.flatMap fun (y : Nat × Cluster) =>
    (y.2.ready.filter fun r => r.lnch == lnchOf x.graph n && y.1 / 8 == d).map fun r => y.1 * 2 ^ 40 + r.level * 2 ^ 32 + r.tidx
  [x.kind.code + x.st.code * 4 + x.status.code * 32 + flag x.bad 7 + flag x.dying 8 + flag x.susp 9 + flag x.lrec.isSome 10 + x.level * 2 ^ 12 +
    x.count * 2 ^ 32, x.recAddr.toNat, x.next, x.left, x.succ.length, x.skip.length, ready.length, (x.pri.map fun l => l + 1).getD 0, x.canc.length] ++ x.succ ++ x.skip ++ ready ++
  (x.canc.flatMap fun y => [y.1, y.2.toNat]) ++
  (match x.lrec with | some r => (List.range 16).map fun i => bitsOf r.toNat (64 * i + 63) (64 * i) | none => [])

/-- GRAPH: one record for each incomplete graph. -/
def State.graphBody (s : State) (d : Nat) (g : Graph) : List Byte :=
  wordsBytes ([d, g.id.toNat, g.phase, g.n, g.left, g.status.code] ++
    (List.range g.n).flatMap fun i => s.nodeWords d (graphBase g.id + i))

/-- Reads back one node's words: the entry, its queued tasks, and what follows. -/
def nodeOfWords (id : BitVec 32) (j : Nat) (w : List Nat) : Node × List Nat × List Nat :=
  let f := wAt w 0
  let a := wAt w 4
  let b := wAt w 5
  let c := wAt w 6
  let t := w.drop 9
  let m := wAt w 8
  let rest := t.drop (a + b + c + 2 * m)
  let has := bitsOf f 10 10 == 1
  ({ Node.zero with
      graph := id, job := j, kind := nodeKindOf (f % 4), st := nodeStOf (bitsOf f 4 2), status := statusOf (bitsOf f 6 5)
      bad := bitsOf f 7 7 == 1, dying := bitsOf f 8 8 == 1, susp := bitsOf f 9 9 == 1, level := bitsOf f 31 12
      count := f / 2 ^ 32, recAddr := BitVec.ofNat 64 (wAt w 1), next := wAt w 2, left := wAt w 3
      succ := t.take a, skip := (t.drop a).take b, pri := if wAt w 7 = 0 then none else some (wAt w 7 - 1)
      canc := (List.range m).map fun i => (wAt t (a + b + c + 2 * i), BitVec.ofNat 64 (wAt t (a + b + c + 2 * i + 1)))
      lrec := if has then some (BitVec.ofNat 1024 (((rest.take 16).zipIdx.map fun (x, i) => x * 2 ^ (64 * i)).sum)) else none },
    (t.drop (a + b)).take c, if has then rest.drop 16 else rest)

/-- Installs a graph's nodes from their words. -/
def State.putNodes (s : State) (d j : Nat) (id : BitVec 32) : Nat → Nat → List Nat → State
  | 0, _, _ => s
  | k + 1, n, w =>
    let r := nodeOfWords id j w
    let s := s.updDie d fun x => { x with order := x.order + 1, nodes := tset x.nodes n { r.1 with order := x.order, aged := s.now } }
    let s := r.2.1.foldl (fun s q =>
      s.updCluster (q / 2 ^ 40) fun c => { c with ready := readyIns ⟨n, lnchOf id n, j, q % 2 ^ 32, bitsOf q 39 32, s.now⟩ c.ready }) s
    State.putNodes s d j id k (n + 1) r.2.2

/-- GRAPH at the receiver: its identifier names the same table entries, which must be free. -/
def State.putGraph (s : State) (j : Nat) (body : List Byte) : State × Nat :=
  let w := byteWords body
  let d := wAt w 0 % 4
  let id := BitVec.ofNat 32 (wAt w 1)
  let n := wAt w 3
  let base := graphBase id
  if (s.dieAt d).nodes.any fun y => decide (base ≤ y.1) && decide (y.1 < base + n) then (s, admBusy)
  else
    let s := s.updDie d fun x => { x with graphs := x.graphs ++ [⟨id, j, wAt w 2, n, wAt w 4, statusOf (wAt w 5)⟩] }
    (s.putNodes d j id n base (w.drop 6), admOk)

/-! Contexts. -/

/-- The registers that XRD reaches, in REG order (R125). -/
def xregs : List XReg :=
  ((List.range 0x54).filter csrListed).map XReg.ctl ++ (List.range 64).map XReg.sreg ++ (List.range 16).map XReg.preg ++
  (List.range 32).map XReg.nreg ++ [XReg.resume] ++ (List.range 64).flatMap (fun k => (List.range 32).map (XReg.vreg k)) ++
  (List.range 32).flatMap fun k => (List.range 32).map (XReg.dreg k)

def shapeWords : Shape → List Nat
  | .scalar n sx => [0, n, flag sx 0]
  | .vector ty mf => [1, ty, mf]
  | .lanes n sx => [2, n, flag sx 0]
def shapeOfWords (a b c : Nat) : Shape :=
  match a with | 0 => .scalar b (c == 1) | 1 => .vector b c | _ => .lanes b (c == 1)

/-- A queue entry that is not yet popped: its request, by which its load issues again (R175), or its data when it has none. -/
def QEntry.words (e : QEntry) : List Nat :=
  [flag e.vec 0 + flag e.req.isSome 1, e.addr.toNat] ++
  match e.req with
  | some q => [spaceCode q.space] ++ shapeWords q.shape ++ [q.addr.toNat, q.mask.toNat, q.scope, q.lanes.length] ++ q.lanes.flatMap fun x => [x.1, x.2.toNat]
  | none => (List.range 32).map fun i => bitsOf e.data.toNat (64 * i + 63) (64 * i)

def QChan.words (q : QChan) : List Nat :=
  let es := q.ents.drop q.popped
  es.length :: es.flatMap QEntry.words

/-- Reads back queue entries: those with a request are loaded again when the context resumes. -/
def qOfWords : Nat → List Nat → List QEntry × List Nat
  | 0, w => ([], w)
  | k + 1, w =>
    let f := wAt w 0
    let addr := BitVec.ofNat 64 (wAt w 1)
    if bitsOf f 1 1 = 1 then
      let nl := wAt w 9
      let a := BitVec.ofNat 64 (wAt w 6)
      let q : MemReq := ⟨spaceOf (wAt w 2), shapeOfWords (wAt w 3) (wAt w 4) (wAt w 5), a, BitVec.ofNat 64 (wAt w 7),
        (List.range nl).map fun i => (wAt w (10 + 2 * i), BitVec.ofNat 64 (wAt w (11 + 2 * i))), wAt w 8, [], 0, false⟩
      let r := qOfWords k (w.drop (10 + 2 * nl))
      (⟨f % 2 == 1, 0, .faulted ⟨partL, 0x08, 0x01, a⟩, some q, 0, addr⟩ :: r.1, r.2)
    else
      let x := BitVec.ofNat 2048 ((((w.drop 2).take 32).zipIdx.map fun (x, i) => x * 2 ^ (64 * i)).sum)
      let r := qOfWords k (w.drop 34)
      (⟨f % 2 == 1, x, .ready, none, 0, addr⟩ :: r.1, r.2)

def waitWords : Option Wait → List Nat
  | none => [0, 0, 0, 0]
  | some (.handle h st sc) => [1, h, match st with | .free => 0 | .filling => 1 | .full => 2 | .draining => 3, sc]
  | some (.counter c t sc) => [2, c, t, sc]
  | some (.barrier k sc) => [3, k, 0, sc]
  | some (.rdv sc) => [4, 0, 0, sc]
def hStateOf (n : Nat) : HState := match n with | 0 => .free | 1 => .filling | 2 => HState.full | _ => .draining
def waitOfWords (w : List Nat) : Option Wait :=
  match wAt w 0 with
  | 0 => none
  | 1 => some (.handle (wAt w 1) (hStateOf (wAt w 2)) (wAt w 3))
  | 2 => some (.counter (wAt w 1) (wAt w 2) (wAt w 3))
  | 3 => some (.barrier (wAt w 1) (wAt w 3))
  | _ => some (.rdv (wAt w 3))

def walkerWords (k : Nat) (w : Walker) : List Nat :=
  [k, flag w.exh 0 + flag w.bad 1] ++ (List.range 6).map (fun i => w.idx.getD i 0) ++
    (List.range 8).map fun i => bitsOf w.body.toNat (64 * i + 63) (64 * i)
def walkersOfWords : Nat → List Nat → Tab Walker × List Nat
  | 0, w => ([], w)
  | k + 1, w =>
    let x : Walker := ⟨BitVec.ofNat 512 ((((w.drop 8).take 8).zipIdx.map fun (x, i) => x * 2 ^ (64 * i)).sum), (w.drop 2).take 6,
      bitsOf (wAt w 1) 0 0 == 1, bitsOf (wAt w 1) 1 1 == 1⟩
    let r := walkersOfWords k (w.drop 16)
    ((wAt w 0, x) :: r.1, r.2)

/-- What the context's place and task need beside the listed fields: core, slot, next bundle, task index, windows, wait, tile states,
walkers, barriers, full handles; DERR of the tiles stands with the core. -/
def State.ctxExtra (s : State) (core ctx : Nat) (c : Ctx) : List Nat :=
  let t := c.tk
  let tiles := (s.coreAt core).tiles.filter fun x => x.ctx == ctx && x.serial == t.serial
  let hs := ((s.coreAt core).handles.filter fun h => h.2.st == HState.full && decide (t.hLo ≤ h.1) && decide (h.1 < t.hLo + t.hCnt)).map Prod.fst
  [core + c.derr.toNat * 256, ctx, c.pc.toNat, t.tidx, t.spBase, t.clBase, t.clSize, flag c.entry 0 + flag c.waitHit 1 + flag t.rdv.isSome 2 + t.rdv.getD 0 * 8] ++
  waitWords c.waitOp ++ [tiles.length] ++ tiles.map (fun x => x.t + flag (x.stat == .saved) 8) ++
  [c.walkers.length] ++ (c.walkers.flatMap fun (k, w) => walkerWords k w) ++
  [t.bars.length] ++ (t.bars.flatMap fun b =>
    let x := tget Barrier.zero (s.clusterAt (clusterOf core)).bars b
    [b, x.exp, x.cnt, (x.mask.map fun i => 2 ^ i).sum]) ++ [hs.length] ++ hs

/-- CONTEXT: the registers that XRD reaches, the pending queue addresses, TSHP0 to TSHP7, and the model's own words. -/
def State.ctxBody (s : State) (core ctx : Nat) : List Byte :=
  let c := s.ctxAt core ctx
  let c := { Ctx.settle { c with count := c.pend.foldl (fun m p => Max.max m p.due) c.count } with count := c.count }
  wordsBytes ((xregs.map fun r => (r.read core ctx c).toNat) ++ c.q0.words ++ c.q1.words ++
    (List.range 8).map (fun k => (tget 0 c.csr.tshp k).toNat) ++ s.ctxExtra core ctx c)

/-- A frozen context from its words: registers, queues, tile shapes, then the model's own. -/
def ctxOfWords (w : List Nat) : Ctx × List Nat :=
  let c := (xregs.zip w).foldl (fun c (r, x) => r.write c (BitVec.ofNat 64 x)) Ctx.reset
  let w := w.drop xregs.length
  let a := qOfWords (wAt w 0) (w.drop 1)
  let b := qOfWords (wAt a.2 0) (a.2.drop 1)
  let c := (List.range 8).foldl (fun c k => { c with csr := c.csr.put (8 + k) (BitVec.ofNat 64 (wAt b.2 k)) }) c
  ({ c with q0 := ⟨a.1, 0, 0, []⟩, q1 := ⟨b.1, 0, 0, []⟩, stat := .frozen, freeze := .hearth }, b.2.drop 8)

/-- The launch's binding on its cluster, made when its first context arrives; its barriers and group must be free there.  Each context
brings the window of its task i. -/
def State.putBind (s : State) (cl : Nat) (l : BitVec 32) (j i : Nat) (bars : List (List Nat)) (rdv : Option Nat) (base size : Nat) : Option State :=
  let c := s.clusterAt cl
  if c.binds.any fun b => b.lnch == l then
    some (s.updCluster cl fun k => { k with binds := k.binds.map fun b => if b.lnch == l then { b with wins := b.wins ++ [(i, base)] } else b })
  else if bars.any (fun b => !(c.freeBars.contains (wAt b 0))) || (match rdv with | some g => c.binds.any fun b => b.rdv == some g | none => false) then none
  else
    some (s.updCluster cl fun k => { k with
      binds := k.binds ++ [⟨l, j, bars.map fun b => wAt b 0, rdv, [(i, base)], size⟩]
      bars := bars.foldl (fun t b => tset t (wAt b 0) ⟨wAt b 1, wAt b 2, (List.range 40).filter fun i => bitsOf (wAt b 3) i i == 1⟩) k.bars })

/-- CONTEXT at the receiver: the same core and context must be free for the job; the task is its launch's. -/
def State.putCtx (s : State) (j : Nat) (body : List Byte) : State × Option (Nat × Nat) × Nat :=
  let (c, w) := ctxOfWords (byteWords body)
  let core := wAt w 0 % 256
  let ctx := wAt w 1 % 4
  let l := c.csr.lnch
  let d := lnchDie l
  let n := lnchNode l
  let x := s.node d n
  let f := wAt w 7
  let tiles := (w.drop 13).take (wAt w 12)
  let w1 := w.drop (13 + wAt w 12)
  let (walkers, w2) := walkersOfWords (wAt w1 0) (w1.drop 1)
  let nb := wAt w2 0
  let bars := (List.range nb).map fun i => (w2.drop (1 + 4 * i)).take 4
  let w3 := w2.drop (1 + 4 * nb)
  let hs := (w3.drop 1).take (wAt w3 0)
  let k := s.coreAt core
  match x.lrec with
  | none => (s, none, admInvalid)
  | some r =>
    if (k.ctxAt ctx).stat ≠ .free || (k.bound.getD j != j) then (s, none, admBusy)
    else
      match s.putBind (clusterOf core) l j (wAt w 3) bars (if bitsOf f 2 2 = 1 then some (f / 8) else none) (wAt w 5) (wAt w 6) with
      | none => (s, none, admBusy)
      | some s =>
        let h := ((s.progOf (s.job j).asid (lrProg r)).map Prog.header).getD 0
        let t := s.taskOf (clusterOf core) d n (wAt w 3) x.level x r h (wAt w 4) false
        let c := { c with
          pc := BitVec.ofNat 64 (wAt w 2), entry := bitsOf f 0 0 == 1, waitHit := bitsOf f 1 1 == 1
          waitOp := waitOfWords ((w.drop 8).take 4), walkers := walkers, task := some t
          derr := BitVec.ofNat 8 (wAt w 0 / 256) }
        let s := { s with nextSerial := s.nextSerial + 1 }
        let s := s.setCtxAt core ctx c
        let s := s.updNode d n fun y => { y with serials := y.serials ++ [t.serial] }
        let s := s.updCore core fun k => { k with
          bound := some j
          handles := hs.foldl (fun t h => tset t h ⟨HState.full, none⟩) k.handles
          tiles := k.tiles ++ tiles.filterMap fun v =>
            if bitsOf v 8 8 = 1 then
              some ⟨ctx, t.serial, v % 8, .saved, none, none, none, false, false,
                (if t.save = 0 then 0 else t.save + BitVec.ofNat 64 (4096 * (v % 8))), j, s.jobX j, false, 0⟩
            else none }
        (s, some (core, ctx), admOk)

/-- TILE: a tile of the context before it. -/
def State.tileBody (s : State) (core : Nat) (x : Tile) (p : Nat) : List Byte :=
  wordsBytes [x.t, 0] ++ memBytes s.mem (tileBase core p) 4096

def State.putTileRec (s : State) (j : Nat) (at1 : Option (Nat × Nat)) (body : List Byte) : State × Nat :=
  match at1 with
  | none => (s, admInvalid)
  | some (core, ctx) =>
    match (s.coreAt core).freePhys with
    | none => (s, admBusy)
    | some p =>
      let v := ofBytes (body.take 8)
      let t := (s.ctxAt core ctx).tk
      let s := s.putBytes (tileBase core p) ((body.drop 16).take 4096)
      (s.updCore core fun k => { k with tiles := k.tiles ++
        [⟨ctx, t.serial, v % 8, .dirty, some p, none, none, false, false,
          (if t.save = 0 then 0 else t.save + BitVec.ofNat 64 (4096 * (v % 8))), j, s.jobX j, false, 0⟩] }, admOk)

/-! Windows. -/

/-- Space codes of windows: those of R170, and 4 for the Crucible. -/
def winBase (code place : Nat) (b : Job) (off : Nat) : Nat :=
  match code with
  | 0 => spBase (place % 256) + off
  | 1 => clBase (place % 32) + off
  | 2 => dscrBase (place % 4) + (b.dsw.getD (place % 4) (0, 0)).1 * 2 ^ 16
  | _ => crucibleBase + b.crBase * 4096

/-- WINDOW: space code, size, contents; then its core, cluster or die, and its offset there. -/
def State.winBody (s : State) (b : Job) (code place off n : Nat) : List Byte :=
  wordsBytes [code, n] ++ memBytes s.mem (winBase code place b off) n ++ List.replicate ((8 - n % 8) % 8) 0 ++ wordsBytes [place, off]

def State.putWin (s : State) (j : Nat) (body : List Byte) : State × Nat :=
  let code := ofBytes (body.take 8)
  let n := ofBytes ((body.drop 8).take 8)
  let w := byteWords (body.drop (16 + (n + 7) / 8 * 8))
  (s.putBytes (winBase code (wAt w 0) (s.job j) (wAt w 1)) ((body.drop 16).take n), admOk)

/-- The windows of a job: code, place, offset, size. -/
def State.jobWins (s : State) (j : Nat) : List (Nat × Nat × Nat × Nat) :=
  let b := s.job j
  let sp := (s.ctxsWhere fun _ k t => t.job == j && decide (k < 4)).map fun (i, k) => let t := (s.ctxAt i k).tk; (0, i, t.spBase, t.spSize)
  let cl := s.clusters.flatMap fun (y : Nat × Cluster) =>
    (y.2.binds.filter fun b => b.job == j && b.clSize != 0).flatMap fun b => (b.wins.map Prod.snd).eraseDups.map fun w => (1, y.1, w, b.clSize)
  let ds := b.dsw.zipIdx.filterMap fun (w, d) => if w.2 = 0 then none else some (2, d, 0, w.2 * 2 ^ 16)
  sp.eraseDups ++ cl ++ ds ++ (if b.crSize = 0 then [] else [(4, 0, 0, b.crSize * 4096)])

/-! The pre-copy engine (R376). -/

/-- The 4 KiB units of the MLOG leaves below a table, in ascending virtual address: address, physical address, leaf. -/
def State.mlogUnits (s : State) : Nat → Nat → Nat → List (Nat × Nat × Nat)
  | level, table, va =>
    (List.range 512).flatMap fun i =>
      let e := s.pteAt (table + 8 * i)
      let va := va + i * 2 ^ (12 + 9 * level)
      if !pteV e then []
      else if pteLeaf e then
        if !pteMlog e then []
        else
          let size := if level = 0 then 4096 else leafSize level false
          (List.range (size / 4096)).map fun u => (va + 4096 * u, ptePpn e * 4096 + 4096 * u, e)
      else match level with
        | 0 => []
        | l + 1 => State.mlogUnits s l (ptePpn e * 4096) va

/-- A record sealed under the stream key: header, body, tag; the IV is SEQ then PASS. -/
def sealRecord (mat : BitVec 512) (pass seq typ : Nat) (body : List Byte) : List Byte :=
  let body := pad16 body
  let r := gcmSeal (mat.setWidth 256) (BitVec.ofNat 96 (seq % 2 ^ 64 + pass % 2 ^ 32 * 2 ^ 64)) [] body
  toBytes (recHeader seq body.length typ) 16 ++ r.1 ++ toBytes r.2.toNat 16

/-- Sends one record, with the stream's next SEQ. -/
def State.sendRec (p : State × Nat) (mat : BitVec 512) (pass endpoint typ : Nat) (body : List Byte) : State × Nat :=
  ({ p.1 with hostOut := p.1.hostOut ++ [.ue endpoint (sealRecord mat pass p.2 typ body)] }, p.2 + 1)

/-- Takes a unit's dirty bit: whether it was set; it is clear afterwards. -/
def State.takeDirty (s : State) (pa : Nat) : State × Bool :=
  match bitmapPlace (pa / 4096 * 4096) with
  | none => (s, false)
  | some (a, b) =>
    let old := s.byteAt s.key0 a
    (s.storeBytes s.key0 a [old &&& ~~~ BitVec.ofNat 8 (2 ^ b)], old.getLsbD b)

/-- One unit: its PAGE record when the kind is full or its bit was set. -/
def State.sendUnit (p : State × Nat) (mat : BitVec 512) (kind pass endpoint : Nat) (u : Nat × Nat × Nat) : State × Nat :=
  let (s, dirty) := p.1.takeDirty u.2.1
  if kind = 0 || dirty then
    State.sendRec (s, p.2) mat pass endpoint rtPage
      (wordsBytes [u.1, pteFmt u.2.2 + pteGeo u.2.2 * 16] ++ s.bytesAt ((s.keyMat (pteKey u.2.2)).getD 0) u.2.1 4096)
  else (s, p.2)

/-- The saved state of a job as records (R376, R377). -/
def State.jobRecs (s : State) (j : Nat) : List (Nat × List Byte) :=
  let graphs := (List.range 4).flatMap fun d => ((s.dieAt d).graphs.filter fun g => g.job == j).map fun g => (rtGraph, s.graphBody d g)
  let ctxs := (s.ctxsWhere fun _ k t => t.job == j && decide (k < 4)).flatMap fun (i, k) =>
    let t := (s.ctxAt i k).tk
    (rtContext, s.ctxBody i k) :: ((s.coreAt i).tiles.filterMap fun x =>
      if x.ctx = k ∧ x.serial = t.serial then x.phys.map fun p => (rtTile, s.tileBody i x p) else none)
  [(rtJob, jobBody (s.job j))] ++ graphs ++ ctxs ++
    (s.jobWins j).map fun (c, p, o, n) => (rtWindow, s.winBody (s.job j) c p o n)

def State.sendStream (s : State) (j kind pass endpoint : Nat) (mat : BitVec 512) : State :=
  let p := (s.mlogUnits 3 (s.job j).root 0).foldl (fun p u => State.sendUnit p mat kind pass endpoint u) (s, 0)
  if kind ≠ 2 then p.1
  else ((p.1.jobRecs j ++ [(rtEnd, [])]).foldl (fun (p : State × Nat) (r : Nat × List Byte) => State.sendRec p mat pass endpoint r.1 r.2) p).1

/-! The receiver (R376, R377). -/

/-- PAGE: the data at their virtual address through the job's own tables and keys. -/
def State.putPage (s : State) (j : Nat) (body : List Byte) : State × Nat :=
  let va := ofBytes (body.take 8)
  match s.walkFrom (s.job j).tenant va 3 (s.job j).root with
  | .fault _ => (s, admInvalid)
  | .leaf e at1 level =>
    let s := s.setD at1
    let p := pageOf (s.job j).tenant (s.aptNode (leafPA e level va)) e level va
    if s.keyDead p.key p.pa then (s, admInvalid)
    else ((s.logDirty p 4096).storeAt p.key p.pa ((body.drop 16).take 4096), admOk)

/-- One record, and the context that TILE records after it belong to. -/
def State.putRecord (s : State) (j : Nat) (at1 : Option (Nat × Nat)) (typ : Nat) (crit : Bool) (body : List Byte) : State × Option (Nat × Nat) × Nat :=
  let keep (r : State × Nat) : State × Option (Nat × Nat) × Nat := (r.1, at1, r.2)
  if typ = rtPage then keep (s.putPage j body)
  else if typ = rtJob then keep (s.putJob j body)
  else if typ = rtGraph then keep (s.putGraph j body)
  else if typ = rtContext then s.putCtx j body
  else if typ = rtTile then keep (s.putTileRec j at1 body)
  else if typ = rtWindow then keep (s.putWin j body)
  else if crit then (s, at1, admInvalid)
  else (s, at1, admOk)

/-- A stream's records in turn: a wrong SEQ, a cut record or a failed tag ends it with MALFORMED. -/
def State.recvStream (mat : BitVec 512) (j pass : Nat) : Nat → Nat → List Byte → State → Option (Nat × Nat) → State × Nat
  | 0, _, _, s, _ => (s, admMalformed)
  | k + 1, seq, bs, s, at1 =>
    if bs.isEmpty then (s, admOk)
    else
      let h := ofBytes (bs.take 16)
      let len := bitsOf h 63 32
      let ct := (bs.drop 16).take len
      let tag := (bs.drop (16 + len)).take 16
      if bitsOf h 127 64 ≠ seq ∨ tag.length < 16 then (s, admMalformed)
      else
        match gcmOpen (mat.setWidth 256) (BitVec.ofNat 96 (seq % 2 ^ 64 + pass % 2 ^ 32 * 2 ^ 64)) [] ct (BitVec.ofNat 128 (ofBytes tag)) with
        | none => (s, admMalformed)
        | some body =>
          if bitsOf h 14 0 = rtEnd then (s, admOk)
          else
            let r := s.putRecord j at1 (bitsOf h 14 0) (bitsOf h 15 15 == 1) body
            if r.2.2 ≠ admOk then (r.1, r.2.2)
            else State.recvStream mat j pass k (seq + 1) (bs.drop (32 + len)) r.1 r.2.1

/-! The commands (R375). -/

/-- The launches of a job that are not complete: die, node. -/
def State.jobLaunches (s : State) (j : Nat) : List (Nat × Nat) :=
  (List.range 4).flatMap fun d => (s.dieAt d).nodes.filterMap fun (n, x) =>
    if x.job == j && x.kind == .launch && !x.st.complete then some (d, n) else none

/-- Whether every task is FROZEN with nothing held, every engine command of the job complete, and no handle of its cores FILLING or
DRAINING. -/
def State.jobStill (s : State) (j : Nat) : Bool :=
  let mine (l : List CopyIn) : Bool := l.any fun x => x.job == j
  (s.ctxsWhere fun _ _ t => t.job == j).all (fun (i, k) =>
    let c := s.ctxAt i k
    decide (c.stat = .frozen) && c.held.isEmpty && c.irrev.isEmpty) &&
  !(s.cores.any fun (_, k) => k.mq.any (fun e => e.cmd.job == j) || k.mmaWait.any (fun c => c.job == j) ||
    (k.bound == some j && k.handles.any fun h => h.2.st == .filling || h.2.st == .draining)) &&
  !(s.clusters.any fun (_, c) => mine (c.copies.map Copying.inp) || mine c.intake) &&
  !(mine s.fab.pktq || mine (s.fab.unsent.map Unsent.inp) || mine s.fab.remq || mine (s.fab.remote.map RemOp.inp) || mine s.fab.collq) &&
  !(s.fab.colls.any fun c => c.job == j && c.dies.any fun d => (List.range d.ents.length).any fun b => !(c.ends.contains b)) &&
  !(s.cores.any fun (_, k) => k.stq.any fun p => p.job == j)

/-- MIGQUIESCE: the launches are suspended; the command stays at the head of its queue until the job is still. -/
def evMigquiesce (j : Nat) (s : State) : Out :=
  .next (
    if !s.adminOpen || s.sn.recovery || !s.adminMay .job || !s.feat.getLsbD 1 || (s.job j).st != .running then
      s.admin .job fun s => (s, admInvalid, 0)
    else
      let s := (s.jobLaunches j).foldl (fun s (d, n) => if (s.node d n).susp then s else s.suspend d n) s
      if !s.jobStill j then s
      else
        (s.updJob j fun b => { b with quiesced := true }).adminEnd admOk (s.ctxsWhere fun _ _ t => t.job == j).length)

/-- A stream key of the job's tenant. -/
def State.streamKey (s : State) (j k : Nat) : Option (BitVec 512) :=
  match tfind s.keys k with
  | some r => if r.owner = (s.job j).tenant then some r.mat else none
  | none => none

/-- A PASS that is not greater than the one recorded with the key (R375). -/
def passUsed (t : Tab Nat) (key pass : Nat) : Bool :=
  match tfind t key with
  | some n => decide (pass % 2 ^ 32 ≤ n)
  | none => false

/-- MIGSEND: kinds 0 full, 1 dirty, 2 final. -/
def evMigsend (j kind pass key endpoint : Nat) (s : State) : Out :=
  .next (s.admin .job fun s =>
    if !s.feat.getLsbD 1 || (s.job j).st != .running || decide (2 < kind) || (kind == 2 && !(s.job j).quiesced) then (s, admInvalid, 0)
    else
      match s.streamKey j key with
      | none => (s, admNotOwner, 0)
      | some mat =>
        if passUsed s.sn.sendPass key pass then (s, admInvalid, 0)
        else
          let s := { s with sn := { s.sn with sendPass := tset s.sn.sendPass key (pass % 2 ^ 32) } }
          (s.sendStream j kind pass endpoint mat, admOk, 0))

/-- MIGRECV of the stream that the event brings. -/
def evMigrecv (j pass key : Nat) (bs : List Byte) (s : State) : Out :=
  .next (s.admin .job fun s =>
    if !s.feat.getLsbD 1 || (s.job j).st != .running then (s, admInvalid, 0)
    else
      match s.streamKey j key with
      | none => (s, admNotOwner, 0)
      | some mat =>
        if passUsed s.sn.recvPass key pass then (s, admInvalid, 0)
        else
          let s := { s with sn := { s.sn with recvPass := tset s.sn.recvPass key (pass % 2 ^ 32) } }
          let r := State.recvStream mat j pass (bs.length + 1) 0 bs s none
          (r.1, r.2, 0))

/-- MIGRESUME: every suspended launch resumes and each frozen task continues, one that a trap stopped too (log entry 150). -/
def evMigresume (j : Nat) (s : State) : Out :=
  .next (s.admin .job fun s =>
    if !s.feat.getLsbD 1 || (s.job j).st != .running then (s, admInvalid, 0)
    else
      let s := (s.jobLaunches j).foldl (fun s (d, n) => s.unsuspend d n) (s.updJob j fun b => { b with quiesced := false })
      ((s.ctxsWhere fun _ _ t => t.job == j).foldl (fun s (i, k) => s.resumeCtx i k 2) s, admOk, 0))

/-! The events, with the arguments in focus. -/

def execMigquiesce (s : State) : Out := evMigquiesce (s.arg 2) s
def execMigsend (s : State) : Out := evMigsend (s.arg 2) (s.arg 3) (s.arg 4) (s.arg 5) (s.arg 6) s
def execMigrecv (s : State) : Out := evMigrecv (s.arg 2) (s.arg 3) (s.arg 4) s.cur.inp s
def execMigresume (s : State) : Out := evMigresume (s.arg 2) s

end Sys2Proof.Machine
end

