-- ==== Sys2Proof/Machine/HostEvents.lean ====
section
/-! DEFINITION. The host's other ways in: BAR2, SPDM and TDISP messages, IDE, measurements, and hot reset and link-down (R360, R364,
R365, R367, R372). -/

namespace Sys2Proof.Machine

/-! BAR2 (R360). -/

/-- The key of a function's BAR2 accesses. -/
def State.apKey (s : State) (fn : Nat) : Nat :=
  if fn = 0 then bitsOf (s.reg (pkgBase + 0x100)).toNat 12 0 else (s.tdi fn).apkey

/-- Whether a BAR2 access of n bytes completes with Completer Abort. -/
def State.barAborts (s : State) (fn a n : Nat) : Bool :=
  s.sn.recovery || decide (0x40_0000_0000 < a + n) || !(rangeMapped a n) ||
  (match plocOf a with
    | .ctl _ _ | .pkgCtl _ => true
    | _ => false) ||
  (match tfind s.keys (s.apKey fn) with
    | none => true
    | some k => if fn = 0 then s.confidential k.owner else k.owner != (s.tdi fn).tenant) ||
  (fn != 0 && (s.tdi fn).st != .run)

/-- What BAR0 reads at an offset of the package control block: PF0 every register; a VF its own APKEY and the doorbells of the jobs whose
FUNC it is, and zero elsewhere (R360, R361, R382). -/
def State.barRead (s : State) (fn off : Nat) : Word :=
  if fn = 0 then s.ctlRead (pkgBase + off)
  else if off = 0x100 then BitVec.ofNat 64 (s.tdi fn).apkey
  else if 0x1000 ≤ off ∧ off < 0x1400 then
    match tfind s.jobs ((off - 0x1000) / 0x10) with
    | some b => if b.func = fn then s.ctlRead (pkgBase + off) else 0
    | none => 0
  else 0

/-- The dump area of a die (R374). -/
def dumpBase (d : Nat) : Nat := dramBase d + 0xB_FC20_0000
def dumpSize : Nat := 0x3C0_0000

/-- Whether bytes lie in a dump area. -/
def inDump (a n : Nat) : Bool := (List.range 4).any fun d => decide (dumpBase d ≤ a) && decide (a + n ≤ dumpBase d + dumpSize)

/-- Numbers of an access that does not go through BAR2: the side-band's vendor MCTP read of the dump (R378), and from 512 a function's read
of BAR0 (R360; log entry 184). -/
def fnSide : Nat := 256
def fnBar0 : Nat := 512

def State.hostReply (s : State) (side : Bool) (d : List Byte) : State := { s with hostOut := s.hostOut ++ [.reply side d] }

/-- A host access through BAR2: its bytes, or an abort that performs nothing.  Also the reads of BAR0 and of the dump. -/
def evBar2Access (fn : Nat) (write : Bool) (a n : Nat) (data : List Byte) (s : State) : Out :=
  .next (
    if fn = fnSide then
      (if s.sn.dumped.isSome && !write && inDump a n then s.hostReply true (s.bytesAt s.key0 a n) else s)
    else if !s.linkUp || n = 0 then s
    else if fnBar0 ≤ fn then
      (if write || decide (0x10000 ≤ a) then s
       else { s with hostOut := s.hostOut ++ [.bar (fn - fnBar0) true (toBytes (s.barRead (fn - fnBar0) (a / 8 * 8)).toNat 8)] })
    else
      let n := if write then data.length else n
      let mat := (s.keyMat (s.apKey fn)).getD 0
      let out (s : State) (ok : Bool) (d : List Byte) : State := { s with hostOut := s.hostOut ++ [.bar fn ok d] }
      if s.barAborts fn a n then out s false []
      else if write then out (s.storeBytes mat a data) true []
      else out s true (s.bytesAt mat a n))

/-! Sessions and keys (R364, R365). -/

def State.reply (s : State) (side : Bool) (status : Nat) : State := s.hostReply side [BitVec.ofNat 8 status]

/-- A signature of the device identity key over an SPDM transcript (R372). -/
def State.identitySign (s : State) (transcript : List Byte) : List Byte :=
  toBytes (ecdsaSign s.sn.identity (Config.freeBits 256 s.fresh) (sha256 transcript)).toNat 64

/-- The device identity: its public key, and the certificate that chains to a Loyhus root (R364, R372; log entry 203). -/
def State.identityOf (s : State) : List Byte := toBytes (ecPublic s.sn.identity).toNat 64 ++ Config.identityCert

/-- A secured session is set up over MCTP or DOE; `tenant`, when it is one, is proved by a signature over the transcript that the
event brings, its last 64 bytes, under the tenant's registered key.  The answer gives the device identity and its signature over the
transcript. -/
def evSpdmSecuredSession (id : Nat) (side : Bool) (tenant : Nat) (bs : List Byte) (s : State) : Out :=
  .next (
    if (side && s.sn.recovery) || (!side && !s.linkUp) then s
    else
      let old := (tfind s.sn.sessions id).getD ⟨side, []⟩
      let old := if old.side = side then old else ⟨side, []⟩
      let body := bs.take (bs.length - 64)
      let sig := BitVec.ofNat 512 (ofBytes (bs.drop (bs.length - 64)))
      let proved := (tfind s.tenants tenant).isSome && match s.tenantKey tenant with
        | some k => ecdsaOk k (sha256 body) sig
        | none => false
      let x : Spdm := if proved && !old.tenants.contains tenant then ⟨side, old.tenants ++ [tenant]⟩ else old
      ({ s with sn := { s.sn with sessions := tset s.sn.sessions id x } }).draw.hostReply side
        (BitVec.ofNat 8 admOk :: s.identityOf ++ s.identitySign bs))

/-- A key message in a session: only a confidential tenant whose key the requester has proved may send it. -/
def State.keyMessage (s : State) (id tenant : Nat) (f : State → State × Nat) : State :=
  match tfind s.sn.sessions id with
  | none => s
  | some x =>
    if !(x.tenants.contains tenant) || !(s.confidential tenant) then s.reply x.side admDenied
    else let r := f s; r.1.reply x.side r.2

def evKeySet (id tenant k : Nat) (mat : BitVec 512) (s : State) : Out :=
  .next (s.keyMessage id tenant fun s =>
    if k = 0 then (s, admDenied)
    else if 8192 ≤ k then (s, admInvalid)
    else if (tfind s.keys k).isSome then (s, admBusy)
    else (s.loadKey k tenant mat, admOk))

def evKeyZero (id tenant k : Nat) (s : State) : Out :=
  .next (s.keyMessage id tenant fun s =>
    match tfind s.keys k with
    | some r => if r.owner = tenant then (s.dropKey k, admOk) else (s, admNotOwner)
    | none => (s, if 8192 ≤ k then admInvalid else admOk))

/-- One of the 64 Selective IDE streams takes its key (R364). -/
def evIdeStreamProgram (i : Nat) (key : BitVec 256) (s : State) : Out :=
  .next (if !s.linkUp || decide (64 ≤ i) then s else { s with sn := { s.sn with streams := tset s.sn.streams i key } })

/-! Measurements (R372, R373). -/

def State.bootWord (s : State) : Nat :=
  let slot := tget FwSlot.none s.sn.slots s.sn.running
  s.sn.otpBoot % 2 ^ 8 * 2 ^ 48 + slot.svn % 2 ^ 8 * 2 ^ 40 + s.sn.nomx.toNat * 2 ^ 8 + s.sn.att % 4 * 4 + flag s.sn.fb 1 + s.sn.running % 2

def State.measurement (s : State) (i : Nat) : List Byte :=
  match i with
  | 1 => toBytes Config.romDigest.toNat 32
  | 2 => toBytes (sha256 (tget FwSlot.none s.sn.slots s.sn.running).image).toNat 32
  | 3 => toBytes Config.configDigest.toNat 32
  | 4 => toBytes s.bootWord 8
  | 5 => toBytes (Config.fuseDigest s.sn.otpsvn).toNat 32
  | _ => []

/-- The DMTF value type of a measurement: ROM, firmware, firmware configuration, hardware configuration, each a digest; raw bits with bit 7
set, whose type the spec does not state (log entry 185). -/
def State.measType (s : State) (i : Nat) : Nat :=
  match i with
  | 1 => 0 | 2 => 1 | 3 => 3 | 5 => 2
  | _ => 128 + (Config.freeBits 7 s.fresh).toNat

/-- A measurement block of the DMTF form: index, specification 1, sizes, value type and value (R372). -/
def State.measBlock (s : State) (i : Nat) : List Byte :=
  let m := s.measurement i
  toBytes i 1 ++ toBytes 1 1 ++ toBytes (m.length + 3) 2 ++ toBytes (s.measType i) 1 ++ toBytes m.length 2 ++ m

/-- The measurements that an index asks for: one, with 255 all of them, with 0 their number alone. -/
def measAsked (i : Nat) : List Nat := [1, 2, 3, 4, 5].filter fun k => k == i || i == 255

/-- GET_MEASUREMENTS of an index: the blocks, signed with the device identity key over the transcript that the request brings and the
answer. -/
def evGetMeasurements (side : Bool) (i : Nat) (s : State) : Out :=
  .next (
    if (side && s.sn.recovery) || (!side && !s.linkUp) then s
    else
      let body := BitVec.ofNat 8 (if i = 0 then 5 else (measAsked i).length) :: (measAsked i).flatMap s.measBlock
      s.draw.hostReply side (body ++ s.identitySign (s.cur.inp ++ body)))

/-! Link-down (R367). -/

/-- The confidential tenants that the actions are for: one of them, or all. -/
def State.downTenant (s : State) (only t : Nat) : Bool := s.confidential t && (only == 0 || only == t)

def linkdownEvs (only : Nat) : List Ev := [⟨.linkdownStopConfJobs, 0, 0, 0, [only], []⟩, ⟨.linkdownZeroise, 0, 0, 0, [only], []⟩]

/-- By 1 µs: confidential jobs stop as for a kill, and their reports are discarded. -/
def evLinkdownStopConfJobs (only : Nat) (s : State) : Out :=
  .next ((s.jobs.filter fun y => decide (y.2.st = .running) && s.downTenant only y.2.tenant).foldl (fun s (y : Nat × Job) =>
    let s := { s.updJob y.1 fun b => { b with st := .linkKilled, reports := [] } with rptQueue := s.rptQueue.filter fun j => j != y.1 }
    (s.killJob 4 y.1 0x11 0x03 0).dropCode y.1) s)

/-- The on-chip state of a job: scratchpad, lane slices, operand memory and tiles of the cores that are bound to it or have unbound from it
and are still to be zeroed, and its windows. -/
def State.zeroJob (s : State) (j : Nat) : State :=
  let b := s.job j
  let s := (s.cores.filter fun y => y.2.bound == some j || y.2.unbindJob == some j).foldl (fun s (y : Nat × Core) =>
    let i := y.1
    let s := (s.zeroRange (spBase i) 0x60000).zeroRange (lsBase i 0) 0x10000
    (s.zeroRange (omBase i 0) 0x40000).zeroRange (tileBase i 0) 0x8000) s
  let s := s.clusters.foldl (fun s (y : Nat × Cluster) =>
    (y.2.clJob.filter fun u => u.2 == j).foldl (fun s (u : Nat × Nat) => s.zeroRange (clBase y.1 + u.1 * 2048) 2048) s) s
  let s := b.dsw.zipIdx.foldl (fun s ((w, d) : (Nat × Nat) × Nat) => s.zeroRange (dscrBase d + w.1 * 2 ^ 16) (w.2 * 2 ^ 16)) s
  s.zeroRange (crucibleBase + b.crBase * 4096) (b.crSize * 4096)

/-- Every key of a tenant that the actions are for becomes EMPTY. -/
def State.dropKeys (s : State) (only : Nat) : State :=
  (s.keys.filter fun y => s.downTenant only y.2.owner).foldl (fun s (y : Nat × KeyRec) => s.dropKey y.1) s

/-- By 4 µs: the killed jobs' on-chip state is zeroised and the tenants' keys become EMPTY. -/
def evLinkdownZeroise (only : Nat) (s : State) : Out :=
  .next (((s.jobs.filter fun y => decide (y.2.st = .linkKilled) && s.downTenant only y.2.tenant).foldl
    (fun s (y : Nat × Job) => s.zeroJob y.1) s).dropKeys only)

/-- Time 0 of a hot reset or link-down: every TDI in ERROR, IDE keys and the sessions over DOE gone, DMA stopped; the later actions
follow. -/
def evLinkDown (s : State) : Out :=
  .next { s with
    linkUp := false
    dmaOn := false
    agenda := s.agenda ++ linkdownEvs 0
    sn := { s.sn with
      tdis := (List.range 255).map fun i => (i + 1, { s.tdi (i + 1) with st := .error })
      streams := []
      sessions := s.sn.sessions.filter fun y => y.2.side } }

def evHostLinkUp (s : State) : Out := .next { s with linkUp := true }

/-- PF0's Bus Master Enable is set: DMA runs, and the buffered reports are written in order. -/
def evBusMasterEnable (s : State) : Out :=
  .next (if !s.linkUp then s
    else s.rptQueue.foldl (fun s j => s.flushReports j 1) { s with dmaOn := true })

/-! TDISP (R365). -/

/-- The interface report of a TDI: the number of its BAR ranges, and of each the base, its 4 KiB pages and its BAR (log entry 186). -/
def interfaceReport (f : Nat) : List Byte :=
  let range (bar pages : Nat) : List Byte := toBytes (Config.barBase f bar).toNat 8 ++ toBytes pages 4 ++ toBytes bar 4
  toBytes 2 4 ++ range 0 (2 ^ 4) ++ range 2 (2 ^ 26)

/-- LOCK_INTERFACE binds an unlocked TDI to a tenant; the answer brings the interface report. -/
def evLockInterface (f tenant : Nat) (s : State) : Out :=
  .next (
    if !s.linkUp then s
    else if f = 0 ∨ 256 ≤ f ∨ (s.tdi f).st ≠ .unlocked ∨ (tfind s.tenants tenant).isNone ∨ !s.feat.getLsbD 0 then s.reply false admInvalid
    else (s.setTdi f { s.tdi f with st := .locked, tenant := tenant }).hostReply false (BitVec.ofNat 8 admOk :: interfaceReport f))

def evTdiEnterRun (f : Nat) (s : State) : Out :=
  .next (
    if !s.linkUp then s
    else if (s.tdi f).st ≠ .locked then s.reply false admInvalid
    else (s.setTdi f { s.tdi f with st := .run }).reply false admOk)

/-- A TDI goes to CONFIG_UNLOCKED, or to ERROR; one that leaves RUN starts the link-down actions for its bound tenant alone. -/
def evTdiLeaveRun (f : Nat) (err : Bool) (s : State) : Out :=
  .next (
    if f = 0 ∨ 256 ≤ f then s
    else
      let t := s.tdi f
      let s := s.setTdi f { t with st := if err then .error else .unlocked, tenant := if err then t.tenant else 0 }
      if t.st = .run && s.confidential t.tenant then { s with agenda := s.agenda ++ linkdownEvs t.tenant } else s)

/-! The events, with the arguments in focus. -/

def execBar2Access (s : State) : Out := evBar2Access (s.arg 0) (s.arg 1 != 0) (s.arg 2) (s.arg 3) s.cur.inp s
def execSpdmSecuredSession (s : State) : Out := evSpdmSecuredSession (s.arg 0) (s.arg 1 != 0) (s.arg 2) s.cur.inp s
def execKeySet (s : State) : Out := evKeySet (s.arg 0) (s.arg 1) (s.arg 2) (BitVec.ofNat 512 (s.arg 3)) s
def execKeyZero (s : State) : Out := evKeyZero (s.arg 0) (s.arg 1) (s.arg 2) s
def execIdeStreamProgram (s : State) : Out := evIdeStreamProgram (s.arg 0) (BitVec.ofNat 256 (s.arg 1)) s
def execGetMeasurements (s : State) : Out := evGetMeasurements (s.arg 0 != 0) (s.arg 1) s
def execLinkdownStopConfJobs (s : State) : Out := evLinkdownStopConfJobs (s.arg 0) s
def execLinkdownZeroise (s : State) : Out := evLinkdownZeroise (s.arg 0) s
def execLinkDown (s : State) : Out := evLinkDown s
def execHostLinkUp (s : State) : Out := evHostLinkUp s
def execBusMasterEnable (s : State) : Out := evBusMasterEnable s
def execLockInterface (s : State) : Out := evLockInterface (s.arg 0) (s.arg 1) s
def execTdiEnterRun (s : State) : Out := evTdiEnterRun (s.arg 0) s
def execTdiLeaveRun (s : State) : Out := evTdiLeaveRun (s.arg 0) (s.arg 1 != 0) s

end Sys2Proof.Machine
end

