-- ==== Sys2Proof/Machine/BootEvents.lean ====
section
/-! DEFINITION. Boot, firmware updates, power, and the fatal dump (R217, R347, R366 to R374, R378, R379, R434). -/

namespace Sys2Proof.Machine

/-! Events of the outside world, which a package reset does not take back and which a DUMPED package still answers. -/

def outside : Instr → Bool
  | .packageReset | .firmwareHealthy | .watchdogExpire | .firmwareUpdate | .firmwareCommit | .powerLimitSet | .clockStep | .thermalTrip
  | .dumpMarkerArrive | .packetArrival | .getMeasurements | .spdmSecuredSession | .linkDown | .hostLinkUp | .busMasterEnable | .bar2Access
  | .featctlCommit | .registerWrite | .admitJob | .closejob | .killjob | .jobstat | .tenantCreate | .tenantDestroy | .keygen | .keyzero
  | .counter | .fwconfirm | .migquiesce | .migsend | .migrecv | .migresume | .sqSubmitGraph | .sqClosePhase | .sqCloseJob | .keySet
  | .keyZero | .lockInterface | .tdiEnterRun | .tdiLeaveRun | .ideStreamProgram | .torusLinkTrained | .torusLinkDown
  | .remoteRequestArrive | .remoteResponseArrive | .collChunkArrive | .collAbortArrive | .timeStep => true
  | _ => false

/-! The supervisor's area (R217, R374). -/

/-- Nonzero bytes of a run from an address. -/
def memFrom : Nat → List Byte → Mem
  | _, [] => []
  | a, b :: t => if b = 0 then memFrom (a + 1) t else (a, b) :: memFrom (a + 1) t

/-- The supervisor area of die 0, and its tables in its upper half. -/
def supArea : Nat := 0xB_FFE0_0000
def supTables : Nat := supArea + 0x10_0000

/-- A pointer to table `t`, and a leaf with its flags (R323). -/
def supPtr (t : Nat) : Nat := 1 + (supTables / 4096 + t) * 2 ^ 10
def supLeaf (pa flags : Nat) : Nat := 129 + flags + pa / 4096 * 2 ^ 10

/-- Entry i of table `t`, every range at the virtual address equal to its physical one: 0 the root; 1 the GiB pages of the package; 2
to 64 those of the apertures; 65 to 68 the 2 MiB pages below each die's reserved area; 69 the scratchpads and the Crucible; 70 and 72
the control blocks; 71 the area itself, whose first `n` pages hold the image. -/
def supPte (n t i : Nat) : Nat :=
  let w := 2
  if t = 0 then (if i = 0 then supPtr 1 else if i % 2 = 0 ∧ i < 128 then supPtr (1 + i / 2) else 0)
  else if t = 1 then
    (if i < 256 ∧ i % 64 < 47 then supLeaf (i * 2 ^ 30) w
     else if i < 256 ∧ i % 64 = 47 then supPtr (65 + i / 64)
     else if i = 248 then supPtr 69 else if i = 252 then supPtr 70 else 0)
  else if t ≤ 64 then (if i < 256 then supLeaf ((t - 1) * 2 ^ 40 + i * 2 ^ 30) w else 0)
  else if t ≤ 68 then
    (if i < 480 then supLeaf (dramBase (t - 65) + 47 * 2 ^ 30 + i * 2 ^ 21) w else if t = 65 ∧ i = 511 then supPtr 71 else 0)
  else if t = 69 then
    (if i < 64 then supLeaf (dscrBase 0 + i * 2 ^ 21) (w + if i % 16 < 2 then 64 else 0)
     else if 128 ≤ i ∧ i < 132 then supLeaf (crucibleBase + (i - 128) * 2 ^ 21) w else 0)
  else if t = 70 then (if i = 0 then supPtr 72 else 0)
  else if t = 71 then (if i < n then supLeaf (supArea + i * 4096) 8 else supLeaf (supArea + i * 4096) w)
  else (if i < 64 then supLeaf (ctlBase 0 + i * 4096) (w + 256)
    else if 256 ≤ i ∧ i < 272 then supLeaf (ctlBase 0 + i * 4096) (w + 256) else 0)

/-- The supervisor of a firmware image that has one: its header in the first 384 bytes, padding to 512, and its blocks in plaintext (R217;
log entry 167). -/
def fwSup (img : List Byte) : Option (BitVec 3072 × List (BitVec 4096)) :=
  let h := BitVec.ofNat 3072 (ofBytes (img.take 384))
  let body := img.drop 512
  if shBad h then none
  else some (h, (List.range (body.length / 512)).map fun k => BitVec.ofNat 4096 (ofBytes ((body.drop (512 * k)).take 512)))

/-- The image as a sealed program under key 0: header, blocks, tags. -/
def supImage (h : BitVec 3072) (blocks : List (BitVec 4096)) (mat : BitVec 512) : List Byte :=
  let sealed := blocks.zipIdx.map fun (b, i) => gcmSeal (Config.gcmKey mat) (blockIv (shNonce h) i) [] (toBytes b.toNat 512)
  toBytes h.toNat 512 ++ (sealed.flatMap fun x => x.1) ++ sealed.flatMap fun x => toBytes x.2.toNat 16

def supBytes (h : BitVec 3072) (blocks : List (BitVec 4096)) (mat : BitVec 512) : List Byte :=
  let img := (supImage h blocks mat).take 0x10_0000
  img ++ List.replicate (0x10_0000 - img.length) 0 ++
    (List.range 73).flatMap fun t => (List.range 512).flatMap fun i => toBytes (supPte ((img.length + 4095) / 4096) t i) 8

/-- Places the supervisor of the running image, when it has one of R352's form whose ENDORSE is the firmware key's. -/
def State.installSup (s : State) (slot : FwSlot) : State :=
  match fwSup slot.image with
  | none => s
  | some (h, blocks) =>
    if shBad h || shTenant h != 0 || shCkey h != 0 || decide (blocks.length ≠ shBlocks h) || !shSigned h s.sn.fwKey then s
    else { s with
      mem := memFrom supArea (supBytes h blocks s.key0)
      supRoot := supTables
      supProg := BitVec.ofNat 64 supArea
      progs := [⟨BitVec.ofNat 64 supArea, 0, 0x10000, h⟩] }

/-! Package reset (R369). -/

def State.slot (s : State) (i : Nat) : FwSlot := tget FwSlot.none s.sn.slots i

/-- Whether a slot's image verifies: its signature, under the firmware key whose digest OTP holds (R368). -/
def State.fwGood (s : State) (x : FwSlot) : Bool :=
  keyDigest s.sn.fwKey == s.sn.otpKey && ecdsaOk s.sn.fwKey (sha256 x.image) x.sig

/-- The ROM's tests of a slot: attempts left, image verified, SVN not rolled back. -/
def State.slotOk (s : State) (i : Nat) : Bool :=
  let x := s.slot i
  s.fwGood x && decide (x.att < 3) && decide (s.sn.otpsvn ≤ x.svn)

/-- The slot that the ROM takes, and the fallback flag. -/
def State.bootSlot (s : State) : Option (Nat × Bool) :=
  if s.slotOk s.sn.pref then some (s.sn.pref, false)
  else if s.slotOk (1 - s.sn.pref) then some (1 - s.sn.pref, true)
  else none

/-- The package as a reset leaves it: every store zero, key 0 drawn anew, the identity key derived again from OTP, the flash, the OTP and
the firmware key kept; the history of what has left
the package and the counters of the model's own stay. -/
def State.cleared (s : State) : State :=
  { State.reset with
    keys := [(0, ⟨Config.randomKey s.fresh, 0⟩)]
    hostOut := s.hostOut ++ [.reset]
    fab := { Fabric.reset with net := s.fab.net }
    sn := { Sniras.reset with slots := s.sn.slots, pref := s.sn.pref, otpsvn := s.sn.otpsvn, fwKey := s.sn.fwKey, otpKey := s.sn.otpKey }
    nextSerial := s.nextSerial
    cur := s.cur
    agenda := s.agenda.filter fun e => outside e.ins
    turn := s.turn
    fresh := s.fresh + 1 }

/-- The ROM boots: it takes a slot, adds an attempt, arms the watchdog, and the firmware places the supervisor; or recovery. -/
def State.boot (s : State) : State :=
  let c := s.cleared
  match s.bootSlot with
  | none => { c with sn := { c.sn with recovery := true, offered := 0, fb := true, otpBoot := s.sn.otpsvn } }
  | some (i, fb) =>
    let x := s.slot i
    ({ c with sn := { c.sn with
        running := i, fb := fb, watchdog := true, otpBoot := s.sn.otpsvn
        slots := tset c.sn.slots i { x with att := x.att + 1 } } }).installSup x

/-- Requests of the firmware class (R366): the host's is BUSY while the side-band's update is in progress; the side-band's aborts the
host's. -/
def State.firmwareClass (s : State) (side : Bool) (f : State → State × Nat) : State :=
  let s := if side then s.abortUpdate else s
  if !side && s.sn.update == some true then s.reply side admBusy else let r := f s; r.1.reply side r.2

/-- A package reset by the host, the side-band (1) or the package itself (2). -/
def evPackageReset (origin : Nat) (s : State) : Out :=
  .next (
    if origin = 0 && s.sn.update == some true then s.reply false admBusy
    else if origin = 0 && s.sn.recovery then s.reply false admInvalid
    else (if origin = 1 then s.abortUpdate else s).boot)

/-- The firmware declares itself healthy: the attempt count goes into the evidence and is cleared, the watchdog is off. -/
def evFirmwareHealthy (s : State) : Out :=
  .next (
    if !s.sn.watchdog then s
    else
      let x := s.slot s.sn.running
      { s with sn := { s.sn with
          healthy := true, watchdog := false, att := x.att
          slots := tset s.sn.slots s.sn.running { x with att := 0 } } })

/-- The watchdog resets the package when it expires before the firmware is healthy. -/
def evWatchdogExpire (s : State) : Out := .next (if s.sn.watchdog then s.boot else s)

/-! Firmware updates (R370). -/

/-- Writes the inactive slot: SVN, signature over the digest of the whole image, and the image. -/
def evFirmwareUpdate (side : Bool) (svn : Nat) (sig : BitVec 512) (img : List Byte) (s : State) : Out :=
  .next (s.firmwareClass side fun s =>
    let i := 1 - s.sn.running
    let x : FwSlot := ⟨svn % 128, sig, img, (s.slot i).att⟩
    ({ s with sn := { s.sn with update := some side, slots := tset s.sn.slots i x } }, admOk))

/-- The commit step: a verified image that is not rolled back becomes the preferred slot with no attempts. -/
def evFirmwareCommit (side : Bool) (s : State) : Out :=
  .next (s.firmwareClass side fun s =>
    if s.sn.update ≠ some side then (s, admInvalid)
    else
      let i := 1 - s.sn.running
      let x := s.slot i
      let s := { s with sn := { s.sn with update := none } }
      if !s.fwGood x || decide (x.svn < s.sn.otpsvn) then (s, admInvalid)
      else ({ s with sn := { s.sn with pref := i, slots := tset s.sn.slots i { x with att := 0 } } }, admOk))

/-! Power (R379). -/

/-- A power limit of 900 to 1,800 W. -/
def evPowerLimitSet (side : Bool) (watts : Nat) (s : State) : Out :=
  .next (
    if side && s.sn.recovery then s
    else s.firmwareClass side fun s =>
      if 900 ≤ watts ∧ watts ≤ 1800 then ({ s with sn := { s.sn with power := watts } }, admOk) else (s, admInvalid))

/-- The core clock goes down a step of 125 MHz, or back up; timing only. -/
def evClockStep (down : Bool) (s : State) : Out :=
  .next { s with sn := { s.sn with clock := if down then Min.min (s.sn.clock + 1) 31 else s.sn.clock - 1 } }

/-! The fatal dump (R378, R434). -/

/-- Records in sequence, with END last; those that exceed the area are dropped. -/
def dumpRecs : Nat → Nat → List (Nat × List Byte) → List Byte
  | seq, _, [] => toBytes (recHeader seq 0 rtEnd) 16
  | seq, at1, (typ, body) :: t =>
    let b := pad16 body
    if dumpSize < at1 + 32 + b.length then dumpRecs seq at1 t
    else toBytes (recHeader seq b.length typ) 16 ++ b ++ dumpRecs (seq + 1) (at1 + 16 + b.length) t

/-- Whether a job's records go into the dump. -/
def State.dumps (s : State) (j : Nat) : Bool := !s.confidential (s.tenantOf j)

/-- CONTEXT, TILE and GRAPH records of a die's non-confidential jobs and of the supervisor. -/
def State.dieRecs (s : State) (d : Nat) : List (Nat × List Byte) :=
  let ctxs := s.cores.flatMap fun (i, k) =>
    if i / 64 ≠ d then []
    else k.ctxs.flatMap fun (n, c) =>
      if decide (c.stat = .free) || !(c.csr.sup || match c.task with | some t => s.dumps t.job | none => false) then []
      else (rtContext, s.ctxBody i n) :: k.tiles.filterMap fun x =>
        if x.ctx = n ∧ x.serial = c.tk.serial then x.phys.map fun p => (rtTile, s.tileBody i x p) else none
  let graphs := ((s.dieAt d).graphs.filter fun g => s.dumps g.job).map fun g => (rtGraph, s.graphBody d g)
  ctxs ++ graphs

/-- A recorded packet, and an entry of the park queue. -/
def parkedBody (i : Nat) (e : Parked) : List Byte := wordsBytes [i, e.code, e.time, e.pkt.plen] ++ pad16 (e.pkt.image ++ e.pkt.payload)
def chanBody (port : Nat) (ps : List (List Byte)) : List Byte := wordsBytes [port, ps.length] ++ ps.flatMap pad16

/-- CHANSTATE of a port, when it has recorded anything. -/
def State.chanRec (s : State) (port : Nat) : List (Nat × List Byte) :=
  let ps := (s.sn.chan.filter fun x => x.1 == port).map Prod.snd
  if ps.isEmpty then [] else [(rtChanstate, chanBody port ps)]

/-- The records of a die's area: its header and its own, and on die 0 the I/O die's. -/
def State.dumpOf (s : State) (d cause : Nat) (ports : List Nat) : List (Nat × List Byte) :=
  (rtDumphdr, wordsBytes [cause, s.now, s.bootWord]) :: s.dieRecs d ++
    if d = 0 then (s.fab.park.filterMap fun (i, e) => if s.confidential e.pkt.tenant then none else some (rtParked, parkedBody i e)) ++
      ports.flatMap s.chanRec
    else []

/-- Packets in the lanes at the cut and on their way out of them, under their arrival port; the port of the first marker records nothing
(log entry 188). -/
def State.heldPackets (s : State) (port : Option Nat) : List (Nat × List Byte) :=
  let held : List (Nat × Packet) :=
    (s.fab.lanes.flatMap fun (l, x) => (x.pkt.toList ++ x.queue.map Prod.fst).map fun p => (l, p)) ++
    s.fab.leaving.map fun x => (x.lane, x.pkt)
  (held.filter fun y => port != some y.1).map fun y => (y.1, y.2.image ++ y.2.payload)

/-- A fatal event (R378): confidential keys are zeroised, every core and engine stops, the dies write their dump areas under key 0,
and at the cut a marker leaves by every present port.  Causes: 0 a trap in the supervisor, 1 an error in Sniras's own state, 2 a
thermal trip, 3 a marker, which arrived by a port. -/
def State.fatal (s : State) (cause : Nat) (port : Option Nat) : State :=
  if s.sn.dumped.isSome then s
  else
    let s := s.dropKeys 0
    let s := { s with sn := { s.sn with dumped := some cause, cutPorts := port.toList, chan := s.heldPackets port } }
    let done := (List.range 8).filter fun p => decide (6 ≤ p) || !(s.present p) || port == some p
    let s := (List.range 4).foldl (fun s d => s.storeBytes s.key0 (dumpBase d) (dumpRecs 0 0 (s.dumpOf d cause done))) s
    s.updFab fun f => { f with net := f.net ++ ((List.range 6).filter s.present).map NetMsg.marker }

def evFatalDump (cause : Nat) (s : State) : Out := .next (s.fatal cause none)
def evThermalTrip (s : State) : Out := .next (s.fatal 2 none)

/-- The place of END in die 0's area, and its number. -/
def State.dumpEnd (s : State) : Nat → Nat → Nat × Nat
  | 0, at1 => (at1, 0)
  | k + 1, at1 =>
    let h := ofBytes (s.bytesAt s.key0 (dumpBase 0 + at1) 16)
    if bitsOf h 14 0 = rtEnd then (at1, bitsOf h 127 64) else State.dumpEnd s k (at1 + 16 + bitsOf h 63 32)

/-- A dump marker: it is the node's own fatal event when it has had none; otherwise it ends its port's recording, whose CHANSTATE
takes the place of END. -/
def evDumpMarkerArrive (port : Nat) (s : State) : Out :=
  .next (
    if s.sn.dumped.isNone then s.fatal 3 (some port)
    else if s.sn.cutPorts.contains port then s
    else
      let (at1, seq) := s.dumpEnd (dumpSize / 16) 0
      let s := s.storeBytes s.key0 (dumpBase 0 + at1) (dumpRecs seq at1 (s.chanRec port))
      { s with sn := { s.sn with cutPorts := s.sn.cutPorts ++ [port] } })

/-! The events, with the arguments in focus. -/

def execPackageReset (s : State) : Out := evPackageReset (s.arg 0) s
def execFirmwareHealthy (s : State) : Out := evFirmwareHealthy s
def execWatchdogExpire (s : State) : Out := evWatchdogExpire s
def execFirmwareUpdate (s : State) : Out :=
  evFirmwareUpdate (s.arg 0 != 0) (s.arg 1) (BitVec.ofNat 512 (s.arg 2)) s.cur.inp s
def execFirmwareCommit (s : State) : Out := evFirmwareCommit (s.arg 0 != 0) s
def execPowerLimitSet (s : State) : Out := evPowerLimitSet (s.arg 0 != 0) (s.arg 1) s
def execClockStep (s : State) : Out := evClockStep (s.arg 0 != 0) s
def execThermalTrip (s : State) : Out := evThermalTrip s
def execFatalDump (s : State) : Out := evFatalDump (s.arg 0) s
def execDumpMarkerArrive (s : State) : Out := evDumpMarkerArrive (s.arg 0) s

end Sys2Proof.Machine
end

