-- ==== Sys2Proof/Machine/Wait.lean ====
section
/-! DEFINITION. What a bundle waits for before it issues: pops and pushes (R95), ordering (R131), the norm scoreboard (R43), tiles
(R195, R197), misses of the TLB (R325) and scratchpad banks (R207). -/

namespace Sys2Proof.Machine

/-- The focus is a context. -/
def State.focus (s : State) (core ctx : Nat) : State := { s with cur := { Cur.reset with core := core, ctx := ctx } }

/-! What an operation names. -/

/-- The source selectors of an operation (R56, R133). -/
def opSels (i : Instr) : List Sel :=
  match instrCode i with
  | .r _ _ op => [op.xa, op.xb, op.xc]
  | .ri _ _ op => [op.xa]
  | .y o op => if o = 0x07 then [(selOfBits (BitVec.ofNat 10 (bitsOf op.imm.toNat 12 3))).getD (.reg 0)] else []
  | _ => []

/-- The channels that an operation pops (R58). -/
def opPops (i : Instr) : List Bool := (opSels i).filterMap fun x => match x with | .queue q => some q | _ => none

/-- The channel that an operation pushes (R67, R176, R177, R183, R185). -/
def opPush (i : Instr) : Option Bool :=
  match instrCode i with
  | .ri .l _ op => some (op.dst.getLsbD 0)
  | .r .l o op => if o = 0x002 ∨ o = 0x005 ∨ o = 0x006 then some (op.dst.getLsbD 0) else none
  | .r .t o _ => if 0x010 ≤ o.toNat then some true else none
  | _ => none

/-- Norms that a source in a role reads (R31, R166). -/
def SRole.norms (r : SRole) (x : Sel) : List Nat :=
  match r with
  | .d => [selNum x]
  | .d8 => (List.range 8).map fun i => selNum x + i
  | _ => []

/-- Norms that an operation reads; DCVT reads the direction alone (R42), DNSET the pair that it writes (R167). -/
def normReads (i : Instr) : List Nat :=
  match instrCode i with
  | .r sl o op =>
    match (if o = 0x08D then none else rowOf sl o.toNat) with
    | some row =>
      let g := row.sig (rawR op)
      g.a.norms op.xa ++ g.b.norms op.xb ++ g.c.norms op.xc ++ (if g.dst = .n then [op.dst.toNat] else [])
    | none => []
  | _ => []

/-- The norm that an operation writes when its guard is 1 (R38); XWR cancels what is in flight instead of waiting for it (R126). -/
def normWrites (c : Ctx) (i : Instr) : List Nat :=
  match instrCode i with
  | .r sl o op =>
    match rowOf sl o.toNat with
    | some row =>
      let d := (row.sig (rawR op)).dst
      if (d = .d || d = .n) && c.guard op.pred op.pn then [op.dst.toNat] else []
    | none => []
  | _ => []

/-! Waits. -/

/-- Why a bundle waits: a pop, an ordering operation, a full channel, a wait that the count of R91 counts, a claim, a miss of the TLB. -/
structure Waits where
  pop : Bool
  hold : Bool
  full : Bool
  counted : Bool
  claim : Bool
  miss : Bool
  deriving DecidableEq, Repr

def Waits.none : Waits := ⟨false, false, false, false, false, false⟩
def Waits.any (w : Waits) : Bool := w.pop || w.hold || w.full || w.counted || w.claim || w.miss
def Waits.join (a b : Waits) : Waits :=
  ⟨a.pop || b.pop, a.hold || b.hold, a.full || b.full, a.counted || b.counted, a.claim || b.claim, a.miss || b.miss⟩

/-- The waits that count toward the queue switch of R98: a pop, an ordering hold (R132), and a miss (R325). -/
def Waits.stall (w : Waits) : Bool := w.pop || w.hold || w.miss

/-- Whether the entry that a pop takes is still to come (R95). -/
def QChan.awaits (x : QChan) : Bool :=
  match x.ents[x.popped]? with
  | some e => e.stat == .pending || e.stat == .atomic
  | none => false

/-- Whether a push waits for space (R95). -/
def QChan.noRoom (x : QChan) : Bool := x.full && x.popped != x.ents.length

/-- The wait of an ordering operation (R131). -/
def State.orderWait (s : State) (i : Instr) : Bool :=
  let k := s.cur.core
  let x := s.cur.ctx
  match i with
  | .acq op => s.ctx.guardY op && !(s.acqHolds k x)
  | .rel op => s.ctx.guardY op && !(s.relHolds k x s.cur.scope)
  | .fence op => s.ctx.guardY op && !(s.relHolds k x s.cur.scope)
  | .fencex op => s.ctx.guardY op && !(s.fencexHolds k x s.cur.scope op.imm.toNat)
  | _ => false

/-- The wait of an immediate operation on its tile (R195). -/
def State.tileWait (s : State) (i : Instr) : Bool :=
  let c := s.ctx
  match i with
  | .tcfg op => c.guard op.pred op.pn && s.tileWaits op.dst.toNat false
  | .tstat op => c.guard op.pred op.pn && s.tileWaits (selNum op.xa) false
  | .trow op => c.lanes op.pred op.pn != 0 && s.tileWaits (selNum op.xa) true
  | .tcol op => c.lanes op.pred op.pn != 0 && s.tileWaits (selNum op.xa) true
  | _ => false

/-- The wait of a claim for a physical tile (R197). -/
def State.claimWait (s : State) (i : Instr) : Bool :=
  match i with
  | .tcfg op =>
    s.ctx.guard op.pred op.pn && s.ctx.srcS s.cur op.xa != 0 && (s.myTile op.dst.toNat).isNone && s.core.freePhys.isNone
  | _ => false

/-- The access of a store or an atomic, which is translated before its bundle issues (R325). -/
def State.storeReq (s : State) (i : Instr) : Option MemReq :=
  match i with
  | .sts op | .stp op => some (s.stsReq op)
  | .stv op => some (s.stvReq op)
  | .stg op => some (s.stgReq op)
  | .stw op => some (s.stwReq op)
  | .aadd op | .afadd op | .amin op | .amax op | .axch op | .acas op | .aand op | .aor op | .axor op => some (s.atomReq op)
  | _ => none

/-- The channel of a queue load from the scratchpad. -/
def State.spLoadOf (s : State) (i : Instr) : Option Bool :=
  let if1 (sp : Space) (op : BitVec 8) : Option Bool := if sp = .sp then some (op.getLsbD 0) else none
  match i with
  | .lda op => if1 (mdSpace op.md) op.dst
  | .ldx op | .ldg op => if1 (mdSpace op.md) op.dst
  | .ldw op => if1 (s.ctx.walkReq (s.ctx.walker (selNum op.xa)) op.pred op.pn s.cur.scope).space op.dst
  | _ => none

/-- Whether a store goes to the scratchpad. -/
def State.spStore (s : State) (i : Instr) : Bool := match s.storeReq i with | some q => q.space == .sp | none => false

/-- What keeps an access to the scratchpad behind the earlier ones of its queue, which it may not overtake (R304): loads of its channel that
have still to return, or stores that a target has still to acknowledge. -/
def State.spWait (s : State) (i : Instr) : Bool :=
  (match s.spLoadOf i with | some q => (s.ctx.chan q).ents.any fun e => e.stat == .pending | none => false) ||
    (s.spStore i && s.apWaits s.cur.core s.cur.ctx)

/-- The pages whose walks an operation waits for. -/
def State.missing (s : State) (i : Instr) : List Word := ((s.storeReq i).map fun q => s.pagesOut q true).getD []

/-- What one operation of the context in focus waits for; pops that DONE.QP marks as taken are not taken again (R214). -/
def State.opWaits (s : State) (i : Instr) : Waits :=
  let c := s.ctx
  let pop := !(c.mask.getLsbD 8) && (opPops i).any fun q => (c.chan q).awaits
  { pop := pop
    miss := !pop && !(s.missing i).isEmpty
    hold := s.orderWait i || s.spWait i
    full := match opPush i with | some q => (c.chan q).noRoom | none => false
    counted := (normReads i ++ normWrites c i).any (fun k => c.normBusy k) || s.tileWait i
    claim := s.claimWait i }

/-- What the operations of a bundle wait for. -/
def State.waitsOf (s : State) (ops : List Instr) : Waits := ops.foldl (fun w i => w.join (s.opWaits i)) Waits.none

/-! The bundle at a context's program counter. -/

/-- The entry that selectors of a channel receive: the one at its head, or the kept one once DONE marks the pops as taken; zero when
none was kept (R214). -/
def Ctx.headFor (c : Ctx) (q : Bool) : Option QEntry :=
  if c.mask.getLsbD 8 then some ((if q then c.kept1 else c.kept0).getD ⟨false, 0, .ready, none, 0, 0⟩)
  else (c.chan q).ents[(c.chan q).popped]?

/-- Channels that the operations pop. -/
def popsOf (ops : List Instr) : List Bool := [false, true].filter fun q => ops.any fun i => (opPops i).contains q

/-- Sets the focus for a bundle: address, scope, the next bundle in order, and the heads. -/
def State.atBundle (s : State) (core ctx : Nat) (scope : Nat) (ops : List Instr) : State :=
  let c := s.ctxAt core ctx
  let q := popsOf ops
  (s.focus core ctx).updCur fun x => { x with
    addr := c.pc, scope := scope, next := c.pc + 64#64
    head0 := if q.contains false then c.headFor false else none
    head1 := if q.contains true then c.headFor true else none }

/-- Attributes of the issuing context (R72, R139, R251, R363). -/
def Ctx.attr (c : Ctx) : Attr := ⟨c.csr.sup, c.tk.nomx, c.csr.feat, bitsOf c.csr.shape.toNat 13 10⟩

/-- The operations of a bundle that DONE leaves (R214), with their slots. -/
def undoneOps (b : Bundle) (done : BitVec 9) : List (SlotId × Instr) :=
  slots.filterMap fun sl => match b.op sl with
    | some i => if done.getLsbD (sl.part - 1) then none else some (sl, i)
    | none => none

/-- The bundle that a context is to issue, when it stands in the fetch buffer and decodes. -/
def State.nextBundle (s : State) (core ctx : Nat) : Option Bundle :=
  let c := s.ctxAt core ctx
  match s.bundleAt core ctx c.pc with
  | some w => match decodeBundle c.attr w with
    | .bundle b => some b
    | .ill _ _ => none
  | none => none

/-- What a context waits for at its next bundle. -/
def State.ctxWaits (s : State) (core ctx : Nat) : Waits :=
  match s.nextBundle core ctx with
  | some b =>
    let is := (undoneOps b (s.ctxAt core ctx).mask).map Prod.snd
    (s.atBundle core ctx b.scope.toNat is).waitsOf is
  | none => Waits.none

/-- Whether a QSTALL context becomes READY: every entry that its bundle awaits has arrived, an ordering operation's own condition holds, and
the walks it waited for have ended (R97, R132, R325).  The bundle's operations are kept, since its block may leave the fetch buffer. -/
def State.stallOver (s : State) (core ctx : Nat) : Bool :=
  let c := s.ctxAt core ctx
  !((s.atBundle core ctx c.stallScope c.stallOps).waitsOf c.stallOps).stall

/-! Scratchpad banks (R207). -/

/-- The largest number of distinct words that the active lanes of an access need from one bank. -/
def bankLoad (lanes : List (Nat × Word)) (base n : Nat) : Nat :=
  let words := ((lanes.flatMap fun (x : Nat × Word) => [(base + x.2.toNat) / 16, (base + x.2.toNat + n - 1) / 16]).foldl
    (fun (l : List Nat) (w : Nat) => if l.contains w then l else w :: l) [])
  (List.range 48).foldl (fun m b => Max.max m (words.filter fun w => w % 48 == b).length) 0

/-- The bank load of one operation, 0 unless it is a per-lane access to the scratchpad. -/
def State.bankOf (s : State) (i : Instr) : Nat :=
  let c := s.ctx
  let go (op : ROp) (f : Word → Nat → Word) : Nat :=
    if mdSpace op.md = .sp then
      let a := c.srcS s.cur op.xa
      bankLoad (laneList (c.lanes op.pred op.pn) (f a)) (s.window s.cur.core c .sp).1 (mdBytes op.md)
    else 0
  match i with
  | .ldx op => go op fun a k => a + BitVec.ofNat 64 k * c.srcS s.cur op.xb
  | .ldg op => go op fun a k => a + BitVec.ofInt 64 (sextN 32 (vlane (c.srcV s.cur op.xb) k))
  | .stg op => go op fun a k => a + BitVec.ofInt 64 (sextN 32 (vlane (c.srcV s.cur op.xb) k))
  | _ => 0

/-- Empty issue cycles before a bundle issues. -/
def State.bankWait (s : State) (ops : List Instr) : Nat := ops.foldl (fun m i => Max.max m (s.bankOf i)) 0 - 1

end Sys2Proof.Machine
end

