-- ==== Sys2Proof/Machine/CoreEvents.lean ====
section
/-! DEFINITION. The events of a core: results, closes, waits, loads, switches, errors, partition X, pre-emption, fetch and debug stops
(R91 to R105, R175, R213 to R223, R343, R344, R355). -/

namespace Sys2Proof.Machine

/-! Stops and rewinds, with their records (R339). -/

/-- TRAP, and DBG_STOP after it for a debug cause (R343). -/
def State.stopRecord (s : State) (core ctx : Nat) (t : Trap) : State :=
  let c := s.ctxAt core ctx
  let s := s.emitCtx core ctx 0x03 (t.val.toNat + (trapcOf t).toNat * 2 ^ 64 + ctx * 2 ^ 84 + c.csr.done.toNat * 2 ^ 87) 0
  if t.cause = 3 then
    s.emitCtx core ctx 0x38 (ctx + t.sub % 4 * 8 + c.pc.toNat / 64 * 64 + t.val.toNat * 2 ^ 64) t.part
  else s

/-- CORESTOP (R342, R343): every other ordinary context of the core freezes with DONE = 0. -/
def State.coreStop (s : State) (core ctx : Nat) : State :=
  (List.range 4).foldl (fun s i =>
    let c := s.ctxAt core i
    if i = ctx || c.stat = .free || c.stat = .frozen then s
    else
      let s := s.giveUp core i
      s.updCtxAt core i fun c => { c with stat := .frozen, freeze := .corestop, frozenN := 0, csr := { c.csr with done := 0 } }) s

def State.dbgCorestop (s : State) (core : Nat) : Bool := (s.reg (dbgBase core)).getLsbD 1

/-- Once no context of the core stands at a debug stop, what CORESTOP froze resumes with "continue" (R343). -/
def State.coreRelease (s : State) (core : Nat) : State :=
  let k := s.coreAt core
  if (List.range 5).any fun i => (k.ctxAt i).debugStopped then s
  else
    ((List.range 4).filter fun i => (k.ctxAt i).stat == .frozen && (k.ctxAt i).freeze == .corestop).foldl
      (fun s i => s.thaw core i) s

/-- The event of a fatal cause (R378). -/
def fatalEv (core cause : Nat) : Ev := ⟨.fatalDump, core, 4, 0, [cause], []⟩

/-- A trap inside partition X (R216): a handler's kills the victim's task with the victim's own stop, an urgent routine's its own
task; the supervisor's is fatal. -/
def State.stopX (s : State) (core : Nat) (t : Trap) : State :=
  match (s.coreAt core).xrole with
  | .handler v =>
    let c := s.ctxAt core v
    (s.leaveX core).killTask core v c.csr.trapc c.csr.trapv
  | .urgent _ => s.killTask core 4 (trapcOf t) t.val
  | .super _ => { s with agenda := s.agenda ++ [fatalEv core 0] }
  | .none => s

/-- What follows the stop that the focus has taken: its records, CORESTOP, and the rule for partition X. -/
def State.afterStop (s : State) (core ctx : Nat) : State :=
  match s.cur.stop with
  | none => s
  | some t =>
    let s := s.stopRecord core ctx t
    let s := if t.cause = 3 && s.dbgCorestop core then s.coreStop core ctx else s
    if ctx = 4 then s.stopX core t else s

/-- A precise stop of a context at its program counter. -/
def State.stopAt (s : State) (core ctx : Nat) (t : Trap) (done : BitVec 9) : State :=
  (((s.focus core ctx).takeTrap t done).afterStop core ctx)

/-! Fates (R127, R214, R216, R218, R344). -/

/-- END in partition X (R124, R216, R217, R222). -/
def State.endX (s : State) (core : Nat) : State :=
  let k := s.coreAt core
  match k.xrole with
  | .urgent _ => s.endUrgent core false 0
  | .handler v =>
    let act := ((k.ctxAt 4).sGet 1).toNat % 4
    let s := s.leaveX core
    if act = 0 then s.updCore core fun k => { k with xqueue := k.xqueue ++ [.super v] } else s.resumeCtx core v act
  | .super _ => s.leaveX core
  | .none => s

/-- ERET (R127). -/
def State.eretX (s : State) (core : Nat) : State :=
  ((List.range 4).foldl (fun s i => s.resumeCtx core i (s.ctxAt core i).act.toNat) s).leaveX core

/-! The close (R105) and what takes effect with it. -/

/-- A context leaves the port and becomes READY; gap cycles that remain run on (R50, R94). -/
def State.depart (s : State) (core ctx : Nat) : State := ((s.runGap core ctx).giveUp core ctx).makeReady core ctx

/-- END, ERET and YLD take effect, an END or ERET once the gap cycles of its bundle have run (R50); an ordinary pre-emption and a time-slice
switch follow a close (R99, R124, R134, R223). -/
def State.afterClose (s : State) (core ctx : Nat) : State :=
  let c := s.ctxAt core ctx
  let s := s.updCtxAt core ctx fun c => { c with yld := false }
  if c.stat = .free || c.waitOp.isSome then s
  else
    match c.endReq with
    | some .endTask => let s := s.runGap core ctx; if ctx = 4 then s.endX core else s.freeCtx core ctx false 0
    | some .eret => (s.runGap core ctx).eretX core
    | none =>
      let other := (List.range 4).any fun i => i != ctx && (s.ctxAt core i).stat == .ready
      if c.preempt then { s with agenda := ⟨.ordinaryPreemption, core, ctx, 0, [], []⟩ :: s.agenda }
      else if ctx = 4 then s
      else if c.yld && other then s.depart core ctx
      else if (s.coreAt core).sliceUp then { s with agenda := ⟨.timeSliceSwitch, core, ctx, 0, [], []⟩ :: s.agenda }
      else s

/-- The close of the segment whose closing bundle has issued. -/
def evSegmentClose (core ctx : Nat) (s : State) : Out :=
  .next (
    let c := s.ctxAt core ctx
    if !c.closing || c.stat != .issuing then s
    else
      let s := s.closeSegment core ctx
      if (s.ctxAt core ctx).closing then s else s.inLast core fun s => s.afterClose core ctx)

/-- A segment that has issued 256 bundles is closed (R104). -/
def evSegmentLimitClose (core ctx : Nat) (s : State) : Out :=
  let c := s.ctxAt core ctx
  if c.segOpen && decide (256 ≤ c.segN) && !c.closing && c.stat = .issuing then
    evSegmentClose core ctx (s.updCtxAt core ctx fun c => { c with entry := true, closing := true })
  else .next s

/-! Results. -/

/-- Results due by a context's count become visible (R91). -/
def evResultVisible (core ctx : Nat) (s : State) : Out := .next (s.updCtxAt core ctx Ctx.settle)

/-- The count at which the last write in flight to a pair becomes visible. -/
def Ctx.normDue (c : Ctx) (k : Nat) : Nat :=
  c.pend.foldl (fun m p => if p.writes.any (fun w => match w with
    | .pair j _ _ => j == k
    | .norm j _ => j == k
    | _ => false) then Max.max m p.due else m) c.count

/-- The pending writes of a norm complete: the context that waits for them counts the cycles (R43, R91). -/
def evNormScoreboardClear (core ctx pair : Nat) (s : State) : Out :=
  .next (
    let c := s.ctxAt core ctx
    if c.stat != .issuing then s
    else
      (s.countCycles core ctx (c.normDue pair - c.count)).updCtxAt core ctx Ctx.settle)

/-! Waits. -/

/-- A WAITING context whose wait holds becomes READY, or ends if its bundle held END (R97, R124). -/
def evWaitSatisfied (core ctx : Nat) (s : State) : Out :=
  .next (
    let c := s.ctxAt core ctx
    match c.waitOp with
    | none => s
    | some w =>
      if c.stat != .waiting || !s.waitHolds core ctx w then s
      else
        let s := s.waitDone core ctx w
        match c.endReq with
        | some .endTask => if ctx = 4 then s.endX core else s.freeCtx core ctx false 0
        | some .eret => s.eretX core
        | none => s.makeReady core ctx)

/-! Loads (R95, R175, R210, R300). -/

/-- Whether the L1 serves the 8-byte unit of an address to a load: one of core scope in `g` may be, unit by unit (R300, R301). -/
def State.l1Serves (s : State) (core : Nat) (q : MemReq) (a : Nat) : Bool :=
  q.space == .g && q.scope == 0 && (tfind (s.coreAt core).l1 (a / 64)).isSome && Config.freeBool (s.fresh * 2 ^ 64 + a / 8)

/-- Bytes of one run of a load. -/
def State.runBytes (s : State) (core : Nat) (q : MemReq) (r : Run) : List Byte :=
  (s.placeBytes r.key r.pa r.n).zipIdx.map fun (y : Byte × Nat) =>
    let a := r.pa + y.2
    if s.l1Serves core q a then ((tfind (s.coreAt core).l1 (a / 64)).getD []).getD (a % 64) 0 else y.1

/-- The lines that a load returns stand in the L1 (R210). -/
def State.fillRuns (s : State) (core : Nat) (q : MemReq) : State :=
  if q.space != .g then s
  else q.runs.foldl (fun s r => (linesOf r.pa r.n).foldl (fun s l => s.l1Fill core r.key (l * 64)) s) s

/-- The data of an entry's load, or its poison (R220, R351). -/
def State.loadData (s : State) (core ch : Nat) (e : QEntry) (q : MemReq) (bad : Bool) : State × QEntry :=
  if bad || q.runs.any fun r => s.isPoisoned r.pa r.n || s.keyDead r.key r.pa then
    (s, { e with req := some q, stat := .faulted ⟨partL, 0x0C, 0x02, poisonVal 4 ch⟩ })
  else
    let rs := q.runs.map fun r => (r, s.runBytes core q r)
    let scale (b : Nat) : Nat :=
      match scalePlace q.runs (4 * b) with
      | some (pa, key) => ofBytes (s.placeBytes key pa 1)
      | none => 0
    let (d, fl) := q.value rs scale
    ((s.fillRuns core q).draw, { e with req := some q, data := d, fl := fl, stat := .ready })

/-- What the load of an entry returns: its data and flags, or poison; one through an aperture asks the node that holds it, and returns with its
answer (R386). -/
def State.loadEntry (s : State) (core ch : Nat) (e : QEntry) (q : MemReq) : State × QEntry :=
  let away := q.runs.filter fun r => onAperture r.pa
  match away.head? with
  | none => s.loadData core ch e q false
  | some r =>
    let t := (s.ctxAt core s.cur.ctx).tk
    let at1 (k : ApKind) : ApWait := ⟨s.cur.ctx, t.serial, t.job, r.pa, k⟩
    let acks := (s.coreAt core).acks
    let back (bad : Bool) : State := s.updCore core fun k => { k with acks := k.acks.erase (at1 (.back ch bad)) }
    if acks.contains (at1 (.back ch true)) then (back true).loadData core ch e q true
    else if acks.contains (at1 (.back ch false)) then (back false).loadData core ch e q false
    else if acks.contains (at1 (.load ch)) then (s, { e with req := some q })
    else ((away.foldl (fun s r => s.sendAp r.key r.pa (.load r.n)) s).owesAck core (at1 (.load ch)), { e with req := some q })

/-- Translation of a load of the context in focus that has pushed its entry already (R325): the walks that it still waits for, or its place, or
its fault.  Its watchpoints have been met at issue. -/
def State.placeLoad (s : State) (q : MemReq) : State × Option (MemReq ⊕ Trap) :=
  let out := s.pagesOut q false
  if !out.isEmpty then (s.askWalks false out, none)
  else
    let skip := s.ctx.dbgSkip
    let (s, a) := (s.updCtx fun c => { c with dbgSkip := some c.pc }).locate partL q true false
    (s.updCtx fun c => { c with dbgSkip := skip }, match a with
      | .ok r => some (.inl r)
      | .fault t | .trap t => some (.inr t)
      | .idle => some (.inl q))

/-- The load of an entry that is still to return, in turn: one that still waits for a walk holds back those behind it (R304). -/
def State.returnLoad (s : State) (core ch : Nat) (e : QEntry) (q : MemReq) : State × QEntry :=
  if q.space == .g && q.runs.isEmpty then
    match s.placeLoad q with
    | (s, none) => (s, e)
    | (s, some (.inl r)) => s.loadEntry core ch e r
    | (s, some (.inr t)) => (s, { e with stat := .faulted t })
  else s.loadEntry core ch e q

/-- The first entry of a list whose load is still to return gets its data. -/
def State.loadFirst (s : State) (core ch : Nat) : List QEntry → Option (State × List QEntry)
  | [] => none
  | e :: t =>
    match e.stat, e.req with
    | .pending, some q => let (s, e) := s.returnLoad core ch e q; some (s, e :: t)
    | _, _ => (State.loadFirst s core ch t).map fun (y : State × List QEntry) => (y.1, e :: y.2)

/-- Data of the oldest queued load of a channel that has not returned; those of a rewound run that await their match come
after the others. -/
def evLoadDataArrival (core ctx ch : Nat) (s : State) : Out :=
  .next (
    let q := ch == 1
    let x := (s.ctxAt core ctx).chan q
    let s := { s with cur := { s.cur with core := core, ctx := ctx } }
    match s.loadFirst core (ch % 2) x.ents with
    | some (s, es) => s.updCtxAt core ctx fun c => c.setChan q { c.chan q with ents := es }
    | none =>
      match s.loadFirst core (ch % 2) x.old with
      | some (s, es) => s.updCtxAt core ctx fun c => c.setChan q { c.chan q with old := es }
      | none => s)

/-- The loads of a channel that have still to return do, as far as they can: an access to the scratchpad comes after them (R304). -/
def State.arriveAll (s : State) (core ctx ch : Nat) : State :=
  ((s.ctxAt core ctx).chan (ch == 1)).ents.foldl (fun s _ =>
    if ((s.ctxAt core ctx).chan (ch == 1)).ents.any fun e => e.stat == .pending then
      match evLoadDataArrival core ctx ch s with | .next t => t | _ => s
    else s) s

/-- A store of a context's T queue is performed at its home (R299), or the target of an access through an aperture answers it (R386, R417). -/
def evCoreStorePerformed (core ctx i ack : Nat) (s : State) : Out :=
  .next (if ack = 0 then s.performStore core ctx i else s.takeAck core ctx i ack)

/-! Switches (R98, R99, R132). -/

def Core.othersReady (k : Core) (ctx : Nat) : Bool := (List.range 4).any fun i => i != ctx && (k.ctxAt i).stat == .ready

/-- QSWITCH (R339). -/
def State.emitSwitch (s : State) (core ctx code : Nat) : State :=
  s.emitCtx core ctx 0x08 (ctx + code * 8 + (s.ctxAt core ctx).pc.toNat / 64 * 64) 0

/-- Whether the queue switch is due (R98): the bundle has waited LDQSW cycles on a pop, an ordering hold or a miss, and another context is
READY.  DESIGN CHOICE (log entry 191): it stays due when one becomes READY later. -/
def State.switchDue (s : State) (core ctx : Nat) : Bool :=
  let c := s.ctxAt core ctx
  c.stat == .issuing && c.csr.ldqsw != 0 && decide (c.csr.ldqsw.toNat ≤ c.stallN) && (s.coreAt core).othersReady ctx &&
    (s.ctxWaits core ctx).stall

/-- The queue switch (R98, R132): the context keeps what it waits for, and rewinds on its return if its segment is open. -/
def evQueueSwitch (core ctx : Nat) (s : State) : Out :=
  .next (
    if !s.switchDue core ctx then s
    else
      let w := s.ctxWaits core ctx
      let b := s.nextBundle core ctx
      let is := (b.map fun b => (undoneOps b (s.ctxAt core ctx).mask).map Prod.snd).getD []
      let s := s.emitSwitch core ctx (if w.pop || w.miss then 0 else 1)
      (s.giveUp core ctx).updCtxAt core ctx fun c => { c with
        stat := .qstall, stallOps := is, stallScope := (b.map fun b => b.scope.toNat).getD 0, rewindNext := if c.segOpen then some 1 else none })

/-- A holder leaves at its close because a READY context has waited 1,024 cycles. -/
def evTimeSliceSwitch (core ctx : Nat) (s : State) : Out :=
  .next (
    let c := s.ctxAt core ctx
    if c.stat = .issuing && decide (ctx < 4) && !c.segOpen && !c.closing && (s.coreAt core).sliceUp then s.depart core ctx else s)

/-- Whether the holder of the port is to leave at the bundle boundary (R99): no close came within 1,024 further cycles, one that waits for room
among them; a close that has begun or can begin comes first. -/
def State.departDue (s : State) (core ctx : Nat) : Bool :=
  let c := s.ctxAt core ctx
  c.stat == .issuing && decide (ctx < 4) && (s.coreAt core).gap == 0 && decide (1024 ≤ c.sliceN) &&
    !(c.closing && (c.feeding || s.closeRoom core ctx))

/-- No close came within 1,024 further cycles: the holder leaves at the bundle boundary, and rewinds on its return. -/
def evForcedDeparture (core ctx : Nat) (s : State) : Out :=
  .next (
    if !s.departDue core ctx then s
    else
      let s := s.emitSwitch core ctx 2
      let s := s.updCtxAt core ctx fun c => { c with rewindNext := if c.segOpen then some 2 else none }
      (s.giveUp core ctx).makeReady core ctx)

/-! Errors (R219, R220). -/

/-- An error in a word of stored memory (R209, R220, R234): one bit is corrected and counted; two bits poison the word. -/
def State.storedError (s : State) (core ctx struct index : Nat) (single : Bool) : State :=
  let a := eccPlace core struct index
  let body := index % 2 ^ 48 + struct % 256 * 2 ^ 48
  let s := if single then s else s.poisonRange a 8
  if eccShared struct then
    s.emit (eccSource core struct index) 0 (if single then 0x28 else 0x29) (if single then body else body + 2 ^ 56 + ctx * 2 ^ 59)
  else if single then s.emitCorr core ctx struct index
  else s.emitUncorr core ctx struct index 1

/-- An error in a line of the L1 (R210): an uncorrectable one drops the line, which is fetched again. -/
def State.l1Error (s : State) (core ctx index : Nat) (single : Bool) : State :=
  if single then s.emitCorr core ctx 9 index
  else (s.updCore core fun k => { k with l1 := terase k.l1 (index / 64) }).emitUncorr core ctx 9 index 2

/-- A double-bit error in transient state (R219, R220): the consuming context's open segment rewinds, or its task is killed when it is the
second such error at one SEGPC with no close between; the action of a close that has begun runs on. -/
def State.transientError (s : State) (core ctx struct index : Nat) : State :=
  let c := s.ctxAt core ctx
  let s := s.emitUncorr core ctx struct index 0
  if !c.segOpen || c.feeding then s
  else if c.errN ≠ 0 && c.errPc = c.csr.segpc then
    if ctx = 4 then s.stopX core ⟨0, 0x10, 0, c.csr.segpc⟩ else s.killTask core ctx (killCause 0x10 0) c.csr.segpc
  else
    let s := s.rdvHold core ctx
    let s := s.updCtxAt core ctx fun c => { c with errN := 1, errPc := c.csr.segpc }
    s.rewindCtx core ctx 0

/-- An error that SECDED, parity or a residue finds (R209, R210, R220): in stored memory, a line of the L1, a register word of a drowsy bank,
which the next wake finds (R249), or other transient state. -/
def evTransientError (core ctx struct index : Nat) (single : Bool) (s : State) : Out :=
  .next (
    let c := s.ctxAt core ctx
    if eccStored struct then s.storedError core ctx struct index single
    else if struct = 9 then s.l1Error core ctx index single
    else if c.stat = .free then s
    else if struct = 8 && c.drowsy.getLsbD (wordBank (index / 4096) (index / 64 % 64)) then
      s.updCtxAt core ctx fun c => { c with ecc := c.ecc ++ [(index / 4096, index / 64 % 64, index % 64, !single)] }
    else if single then s.emitCorr core ctx struct index
    else s.transientError core ctx struct index)

/-! Partition X (R100, R215, R217, R222). -/

/-- Copies of a victim's registers under their architectural names, with their poison (R215). -/
def Ctx.copyRegs (v : Ctx) (c : Ctx) : Ctx :=
  { c with
    sRegs := v.sRegs
    pRegs := (List.range 16).map fun k => (k, v.pGet k)
    vRegs := (List.range 64).map fun k => (k, v.vGet k)
    dRegs := v.dRegs
    nRegs := v.nRegs
    bad := v.bad.filter (fun x => x.1 == 0 || x.1 == 3) ++
      ((List.range 16).filter fun k => v.badReg 1 (v.pPhys k)).map (fun k => (1, k)) ++
      ((List.range 64).filter fun k => v.badReg 2 (v.vPhys k)).map fun k => (2, k) }

/-- Control registers that every routine in partition X takes from a stopped context. -/
def Csr.stopped (v : Csr) (c : Csr) : Csr := { c with trapc := v.trapc, trapv := v.trapv, segpc := v.segpc, done := v.done }

/-- Partition X as a trap handler of a victim starts in it. -/
def handlerCtx (v : Ctx) (feat : BitVec 256) : Ctx :=
  v.copyRegs { Ctx.reset with
    csr := { v.csr.stopped Csr.reset with
      lnch := v.csr.lnch, tcx := v.csr.tcx, tcy := v.csr.tcy, tcz := v.csr.tcz, rseed := v.csr.rseed, rmode := v.csr.rmode
      bndlo := v.csr.bndlo, bndhi := v.csr.bndhi, feat := feat }
    pc := v.tk.handler
    entry := true
    copied := true
    task := v.task }

/-- Partition X as the supervisor starts in it. -/
def superCtx (core k : Nat) (v : Ctx) (entry : Word) (feat : BitVec 256) : Ctx :=
  { Ctx.reset with
    sRegs := [(1, csrGet core k v.csr 0x33), (2, v.csr.trapc.setWidth 64), (3, v.csr.trapv), (4, v.csr.segpc)]
    nRegs := (List.range 32).map fun i => (i, 0)
    csr := { v.csr.stopped Csr.reset with sup := true, bndlo := 0, bndhi := 0x5FFFF, feat := feat }
    pc := entry
    entry := true
    copied := true }

/-- The address of the supervisor's ENTOFF bundle (R217, R352). -/
def State.supEntry (s : State) : Option Word :=
  (s.progOf 0 s.supProg).map fun p => codeBase s.supProg + BitVec.ofNat 64 (64 * shEntOff p.header)

/-- Partition X enters the routine of the first request that waits, for a trap or for the supervisor; a request whose victim is
no longer FROZEN falls away. -/
def evHandlerEntry (core : Nat) (s : State) : Out :=
  .next (
    let k := s.coreAt core
    match k.xrole, k.xqueue with
    | .none, .trap v :: rest =>
      let s := s.updCore core fun k => { k with xqueue := rest }
      if (k.ctxAt v).stat != .frozen then s
      else
        let s := s.updCore core fun k => { k with xrole := .handler v }
        (s.setCtxAt core 4 (handlerCtx (k.ctxAt v) s.feat)).makeReady core 4
    | .none, .super v :: rest =>
      let s := s.updCore core fun k => { k with xqueue := rest }
      if (k.ctxAt v).stat != .frozen then s
      else
        match s.supEntry with
        | none => s
        | some a =>
          let s := s.updCore core fun k => { k with xrole := .super v }
          (s.setCtxAt core 4 (superCtx core v (k.ctxAt v) a s.feat)).makeReady core 4
    | _, _ => s)

/-- The holder of the port is frozen for an urgent routine: rewound if its segment is open, which it is while a close waits to begin (R219,
R222). -/
def State.freezeUrgent (s : State) (core ctx : Nat) : State :=
  let s := s.giveUp core ctx
  let s := if (s.ctxAt core ctx).segOpen then s.rewindCtx core ctx 3 else s
  s.updCtxAt core ctx fun c => { c with stat := .frozen, freeze := .urgent, frozenN := 0 }

/-- The launch of an urgent request, with its record and header, once its window and operand slots fit. -/
def State.urgentInfo (s : State) (core : Nat) (l : BitVec 32) : Option (Nat × Nat × Node × BitVec 1024 × BitVec 3072 × Nat) :=
  let d := lnchDie l
  let n := lnchNode l
  let x := s.node d n
  match x.lrec with
  | none => none
  | some r =>
    match s.progOf (s.job x.job).asid (lrProg r) with
    | none => none
    | some p =>
      match (s.coreAt core).freeSp (winSize p.header / 1024) with
      | none => none
      | some b => if (s.coreAt core).omFree.length < lrNosl r then none else some (d, n, x, r, p.header, b * 1024)

/-- Whether something of the core comes before any urgent pre-emption: a close of the port's holder that has begun, or that can begin (R219);
gap cycles, in which no context issues, of a bundle whose segment no rewind takes back (R50); a stall of the core's source (R337). -/
def State.closeFirst (s : State) (core : Nat) : Bool :=
  let k := s.coreAt core
  s.stalled (srcCore core) ||
  match k.port with
  | some h =>
    let c := s.ctxAt core h
    (c.closing && (c.feeding || s.closeRoom core h)) || (k.gap != 0 && !c.segOpen)
  | none => k.gap != 0

/-- An urgent pre-emption: partition X takes the port at the bundle boundary, and the context that held it is FROZEN. -/
def evUrgentPreemption (core : Nat) (s : State) : Out :=
  .next (
    let k := s.coreAt core
    match k.xrole, k.xqueue with
    | .none, .urgent l :: rest =>
      match (if k.zeroing || s.closeFirst core then none else s.urgentInfo core l) with
      | none => s
      | some (d, n, x, r, h, sp) =>
        let s := s.updCore core fun k => { k with xqueue := rest }
        let s := s.emit (srcCore core) (s.tenantOf x.job) 0x05 ((match k.port with
          | some v => v + (k.ctxAt v).pc.toNat / 64 * 64
          | none => 7) + l.toNat * 2 ^ 64)
        let s := match k.port with
          | some v => s.freezeUrgent core v
          | none => s
        let s := s.updCore core fun y => { y with gap := 0, xrole := .urgent k.port.toList }
        let s := s.startTask core 4 d n 0 (lrPrio r) x r h sp true
        if (s.ctxAt core 4).stat = .free then s
        else (s.updCtxAt core 4 fun c => { c with stat := .issuing }).updCore core fun k => { k with port := some 4 }
    | _, _ => s)

/-- An ordinary pre-emption that the Hearth has asked for takes effect: at once for a WAITING context, otherwise after a close
(R223). -/
def evOrdinaryPreemption (core ctx : Nat) (s : State) : Out :=
  .next (
    let c := s.ctxAt core ctx
    if !c.preempt then s
    else if c.stat = .waiting then s.freezeOrd core ctx
    else if c.stat = .issuing && !c.segOpen && !c.closing then ((s.runGap core ctx).giveUp core ctx).freezeOrd core ctx
    else s)

/-! Fetch and breakpoints (R118, R343, R355). -/

/-- The block of a context's next bundle comes to the fetch buffer; its translation traps at the bundle, and a tag that fails kills
the task and its job. -/
def evFetchBlockArrive (core ctx : Nat) (s : State) : Out :=
  .next (
    let c := s.ctxAt core ctx
    if c.stat = .free || (s.bundleAt core ctx c.pc).isSome then s
    else
      match s.fetchBlock core ctx c.pc with
      | (s, .ok) => s
      | (s, .trap cause sub) => s.stopAt core ctx ⟨0, cause, sub, c.pc⟩ 0
      | (s, .broken) =>
        if c.csr.sup then { s with agenda := s.agenda ++ [fatalEv core 0] }
        else s.fetchFail (dieOf core) c.tk.job c.tk.serial c.pc)

/-- Whether a context's next bundle meets an enabled instruction breakpoint (R342). -/
def State.breakHit (s : State) (core ctx : Nat) : Bool :=
  let c := s.ctxAt core ctx
  (List.range 4).any fun k =>
    let b := (s.reg (dbgBase core + 0x08 + 8 * k)).toNat
    pteBit b 5 && pteBit b ctx && b / 64 == c.pc.toNat / 64

/-- A bundle at an enabled breakpoint stops before decode; the first issue after a "continue" is not matched again. -/
def evDebugBreakpoint (core ctx : Nat) (s : State) : Out :=
  .next (
    let c := s.ctxAt core ctx
    if c.stat = .issuing && !c.skips && s.breakHit core ctx then s.stopAt core ctx ⟨0, 0x03, 0x02, c.pc⟩ 0 else s)

/-! The events, at the place and with the arguments in focus. -/

def execResultVisible (s : State) : Out := evResultVisible s.cur.core s.cur.ctx s
def execNormScoreboardClear (s : State) : Out := evNormScoreboardClear s.cur.core s.cur.ctx (s.arg 0) s
def execSegmentClose (s : State) : Out := evSegmentClose s.cur.core s.cur.ctx s
def execSegmentLimitClose (s : State) : Out := evSegmentLimitClose s.cur.core s.cur.ctx s
def execWaitSatisfied (s : State) : Out := evWaitSatisfied s.cur.core s.cur.ctx s
def execLoadDataArrival (s : State) : Out := evLoadDataArrival s.cur.core s.cur.ctx (s.arg 0) s
def execQueueSwitch (s : State) : Out := evQueueSwitch s.cur.core s.cur.ctx s
def execTimeSliceSwitch (s : State) : Out := evTimeSliceSwitch s.cur.core s.cur.ctx s
def execForcedDeparture (s : State) : Out := evForcedDeparture s.cur.core s.cur.ctx s
def execTransientError (s : State) : Out := evTransientError s.cur.core s.cur.ctx (s.arg 0) (s.arg 1) (s.arg 2 == 1) s
def execHandlerEntry (s : State) : Out := evHandlerEntry s.cur.core s
def execUrgentPreemption (s : State) : Out := evUrgentPreemption s.cur.core s
def execOrdinaryPreemption (s : State) : Out := evOrdinaryPreemption s.cur.core s.cur.ctx s
def execFetchBlockArrive (s : State) : Out := evFetchBlockArrive s.cur.core s.cur.ctx s
def execDebugBreakpoint (s : State) : Out := evDebugBreakpoint s.cur.core s.cur.ctx s
def execCoreStorePerformed (s : State) : Out := evCoreStorePerformed s.cur.core s.cur.ctx (s.arg 0) (s.arg 1) s

end Sys2Proof.Machine
end

