-- ==== Sys2Proof/Machine/Renorm.lean ====
section
/-! DEFINITION. Renormalisation of directional values (R35), exact for every input: every component is
`(u + w·β)·2^(off/2^24)` with integers u, w and β = 2^(d/2^24), and every comparison is the sign of a quadratic in β. -/

namespace Sys2Proof.Machine

/-- Fixed-point units of a norm code: 24 fraction bits (R31). -/
def normOne : Int := 2 ^ 24

/-- The sign of `r + s·√2` for integers r, s. -/
def signRoot2 (r s : Int) : Int :=
  if r = 0 then s.sign
  else if s = 0 then r.sign
  else if r.sign = s.sign then r.sign
  else if r * r > 2 * s * s then r.sign
  else s.sign

/-- Integer bounds at scale 2^w of 2^(d/2^24), for any d; the bounds' scale is the third component. -/
def betaEncl (d : Int) (p : Nat) : Encl :=
  let w := p + 32
  let (a, n) := fxExp2 w (d * (2 ^ w : Nat) / normOne)
  enclShift a w n

/-- Lower and upper value of `p · x` for x within an enclosure of a positive real. -/
def mulEnds (p lo hi : Int) : Int × Int := if p ≥ 0 then (p * lo, p * hi) else (p * hi, p * lo)

/-- Doublings of precision that decide every comparison of R35.  A value P(β) with integer coefficients of `bits` bits in all and
β = 2^(d/2^24) is an algebraic number of degree at most 2^24 whose conjugates are no greater than 2^bits, and its norm is a
nonzero integer once its denominator is cleared; so, where it is not zero, it is at least 2^(−2^24·bits) in magnitude.  From 64
bits on, 25 + log2 bits doublings reach that precision; this allows more. -/
def irrFuel (bits : Nat) : Nat := 40 + Nat.log2 (bits + 1)

/-- The bits of a quadratic in β = 2^(d/2^24). -/
def polyBits (d p0 p1 p2 : Int) : Nat :=
  Nat.log2 (p0.natAbs + 1) + Nat.log2 (p1.natAbs + 1) + Nat.log2 (p2.natAbs + 1) + 4 * (d.natAbs / 2 ^ 24 + 1) + 8

/-- The sign of p0 + p1·β + p2·β², β = 2^(d/2^24), exactly: rational β, β a rational multiple of √2, and otherwise
1, β, β² are linearly independent over the rationals, so that only the zero polynomial vanishes, and enclosures of growing
precision decide within `irrFuel` doublings. -/
def signQ (d p0 p1 p2 : Int) : Int :=
  if p1 = 0 ∧ p2 = 0 then p0.sign
  else if d % normOne = 0 then
    let k := d / normOne
    if k ≥ 0 then (p0 + p1 * 2 ^ k.toNat + p2 * 4 ^ k.toNat).sign
    else (p0 * 4 ^ (-k).toNat + p1 * 2 ^ (-k).toNat + p2).sign
  else if d % normOne = 2 ^ 23 then
    -- β = 2^k √2, β² = 2^(2k+1)
    let k := d / normOne
    if k ≥ 0 then signRoot2 (p0 + p2 * 2 * 4 ^ k.toNat) (p1 * 2 ^ k.toNat)
    else signRoot2 (p0 * 4 ^ (-k).toNat + p2 * 2) (p1 * 2 ^ (-k).toNat)
  else go (irrFuel (polyBits d p0 p1 p2)) 64
where
  go : Nat → Nat → Int
    | 0, _ => 0
    | fuel + 1, p =>
      let b := betaEncl d p
      let one : Int := (2 ^ b.w : Nat)
      let (l1, h1) := mulEnds p1 b.lo b.hi
      let (l2, h2) := mulEnds p2 (b.lo * b.lo) (b.hi * b.hi)
      let lo := p0 * one * one + l1 * one + l2
      let hi := p0 * one * one + h1 * one + h2
      if lo > 0 then 1 else if hi < 0 then -1 else go fuel (2 * p)

/-- A vector to renormalise: components `(u + w·2^(d/2^24))·2^(off/2^24)`. -/
structure XVec where
  us : List Int
  ws : List Int
  d : Int
  off : Int
  deriving DecidableEq, Repr

/-- A quadratic in β. -/
structure Quad where
  p0 : Int
  p1 : Int
  p2 : Int
  deriving DecidableEq, Repr

def Quad.scale (k : Int) (q : Quad) : Quad := ⟨k * q.p0, k * q.p1, k * q.p2⟩
def Quad.add (a b : Quad) : Quad := ⟨a.p0 + b.p0, a.p1 + b.p1, a.p2 + b.p2⟩
def Quad.sub (a b : Quad) : Quad := ⟨a.p0 - b.p0, a.p1 - b.p1, a.p2 - b.p2⟩
/-- `(u + wβ)²`. -/
def Quad.sq (u w : Int) : Quad := ⟨u * u, 2 * u * w, w * w⟩
def Quad.sign (d : Int) (q : Quad) : Int := signQ d q.p0 q.p1 q.p2

/-- N2, the exact sum of squares, as a quadratic in β (the factor 2^(2·off) left out). -/
def XVec.n2 (x : XVec) : Quad :=
  (x.us.zip x.ws).foldl (fun acc (u, w) => acc.add (Quad.sq u w)) ⟨0, 0, 0⟩

/-- The sign of one component. -/
def compSign (d : Int) (u w : Int) : Int := signQ d u w 0

/-- Whether `a = 32768·|x|/L` exceeds, equals or lies below `h/2`: the sign of 2^32·x² − h²·N2. -/
def cmpHalf (d : Int) (n2 : Quad) (u w : Int) (h : Int) : Int :=
  ((Quad.sq u w).scale (2 ^ 32) |>.sub (n2.scale (h * h))).sign d

/-- `round_rne(a)` saturated to 0..32767, by bisection on half-integers. -/
def firstRound (d : Int) (n2 : Quad) (u w : Int) : Nat :=
  -- the least k with a ≤ k + 1/2
  let k := go 17 0 32768
  let tie := decide (cmpHalf d n2 u w (2 * k + 1) = 0)
  let m := if tie && k % 2 == 1 then k + 1 else k
  min m 32767
where
  go : Nat → Nat → Nat → Nat
    | 0, lo, _ => lo
    | fuel + 1, lo, hi =>
      if lo ≥ hi then lo
      else
        let mid := (lo + hi) / 2
        if cmpHalf d n2 u w (2 * mid + 1) > 0 then go fuel (mid + 1) hi else go fuel lo mid

/-- One lane of the correction: components, the sign of x, the current m. -/
structure RLane where
  u : Int
  w : Int
  m : Nat
  deriving DecidableEq, Repr

/-- The sign of `m − a` for a lane. -/
def gapSign (d : Int) (n2 : Quad) (l : RLane) : Int := -(cmpHalf d n2 l.u l.w (2 * l.m))

/-- The sign of `(m_i − a_i) − (m_j − a_j)`: with X = |x_i| − |x_j| and M = m_i − m_j, the sign of M·L − 32768·X. -/
def gapCmp (d : Int) (n2 : Quad) (i j : RLane) : Int :=
  let si := compSign d i.u i.w
  let sj := compSign d j.u j.w
  let u := si * i.u - sj * j.u
  let w := si * i.w - sj * j.w
  let mm : Int := (i.m : Int) - j.m
  let xs := compSign d u w
  -- compare M·L with 32768·X
  if mm > 0 ∧ xs ≤ 0 then 1
  else if mm < 0 ∧ xs ≥ 0 then -1
  else if mm = 0 then -xs
  else
    let q := ((n2.scale (mm * mm)).sub ((Quad.sq u w).scale (2 ^ 30))).sign d
    if mm > 0 then q else -q

/-- The index of the best eligible lane: the largest gap, the lowest index on a tie. -/
def pickLane (eligible : RLane → Bool) (better : RLane → RLane → Bool) (ls : List RLane) : Option Nat :=
  (ls.zipIdx.foldl (fun (acc : Option (RLane × Nat)) (l, i) =>
    if eligible l then
      match acc with
      | none => some (l, i)
      | some (b, j) => if better l b then some (l, i) else some (b, j)
    else acc) none).map Prod.snd

def sumSq (ls : List RLane) : Int := ls.foldl (fun (a : Int) l => a + (l.m * l.m : Nat)) 0

/-- The two correction loops of R35; a lane is moved at most once, so 256 rounds of fuel suffice. -/
def correctDown (d : Int) (n2 : Quad) : Nat → List RLane → List RLane
  | 0, ls => ls
  | fuel + 1, ls =>
    if sumSq ls - 2 ^ 30 > 2 ^ 18 then
      match pickLane (fun l => decide (gapSign d n2 l > 0)) (fun a b => decide (gapCmp d n2 a b > 0)) ls with
      | none => ls
      | some i => correctDown d n2 fuel (ls.modify i fun l => { l with m := l.m - 1 })
    else ls

def correctUp (d : Int) (n2 : Quad) : Nat → List RLane → List RLane
  | 0, ls => ls
  | fuel + 1, ls =>
    if 2 ^ 30 - sumSq ls > 2 ^ 18 then
      match pickLane (fun l => decide (gapSign d n2 l < 0) && decide (l.m < 32767))
          (fun a b => decide (gapCmp d n2 a b < 0)) ls with
      | none => ls
      | some i => correctUp d n2 fuel (ls.modify i fun l => { l with m := l.m + 1 })
    else ls

/-- Rounds to nearest the value `c + x` for an integer c and an irrational x enclosed at growing precision, within `fuel`
doublings. -/
def roundNear (fuel : Nat) (c : Int) (g : Nat → Encl) : Int :=
  go fuel 96
where
  near (a : Int) (w : Nat) : Int := (2 * a + (2 ^ w : Nat)) / (2 * 2 ^ w : Nat)
  go : Nat → Nat → Int
    | 0, p => let e := g p; c + near e.lo e.w
    | fuel + 1, p =>
      let e := g p
      if near e.lo e.w = near e.hi e.w then c + near e.lo e.w else go fuel (2 * p)

/-- `round_rne(log2(L)·2^24)`, L² = N2·2^(2·off/2^24): `off + ½·log2(N2)·2^24`.  A rounding boundary is `log2 N2 = (2k + 1)/2^24`,
and N2 − 2^((2k + 1)/2^24) is again a number as `irrFuel` describes, never zero unless N2 is a power of two, so that the
doublings always decide. -/
def normCode (x : XVec) (n2 : Quad) : Int :=
  let fuel := irrFuel (2 * polyBits x.d n2.p0 n2.p1 n2.p2 + 64)
  -- a rational N2 when β is rational or absent
  let rat : Option (Nat × Nat) :=
    if n2.p1 = 0 ∧ n2.p2 = 0 then some (n2.p0.toNat, 1)
    else if x.d % normOne = 0 then
      let k := x.d / normOne
      if k ≥ 0 then some ((n2.p0 + n2.p1 * 2 ^ k.toNat + n2.p2 * 4 ^ k.toNat).toNat, 1)
      else some ((n2.p0 * 4 ^ (-k).toNat + n2.p1 * 2 ^ (-k).toNat + n2.p2).toNat, 4 ^ (-k).toNat)
    else none
  match rat with
  | some (n, dd) =>
    if isPow2 n then
      x.off + ((Nat.log2 n : Int) - Nat.log2 dd) * (2 ^ 23 : Nat)
    else
      roundNear fuel x.off fun p =>
        let a := fxLog2 (p + 64) n dd * (2 ^ 23 : Nat)
        let e := slack (p + 64) * (2 ^ 23 : Nat)
        ⟨a - e, a + e, p + 64⟩
  | none =>
    -- N2 within [lo, hi] / 4^w, from the enclosure of β
    roundNear fuel x.off fun p =>
      let b := betaEncl x.d (p + 64)
      let one : Int := (2 ^ b.w : Nat)
      let (l1, h1) := mulEnds n2.p1 b.lo b.hi
      let (l2, h2) := mulEnds n2.p2 (b.lo * b.lo) (b.hi * b.hi)
      let lo := (n2.p0 * one * one + l1 * one + l2).toNat
      let hi := (n2.p0 * one * one + h1 * one + h2).toNat
      let den := 4 ^ b.w
      -- a sum that has not yet parted from zero decides nothing
      if lo = 0 then ⟨-(2 ^ (p + 70)), 2 ^ (p + 70), p + 64⟩
      else
        let w := p + 64
        ⟨(fxLog2 w lo den - slack w) * (2 ^ 23 : Nat), (fxLog2 w hi den + slack w) * (2 ^ 23 : Nat), w⟩

/-- A renormalised pair: the 128 codes (as integers) and the norm code, with the flags. -/
structure Pair where
  q : List Int
  n : BitVec 32
  fl : Flags
  deriving DecidableEq, Repr

/-- The zero code and NaD (R33). -/
def normZero : BitVec 32 := 0x80000000#32
def normNaD : BitVec 32 := 0x7FFFFFFF#32

/-- R35 for a vector of finite components (NaN and infinite inputs are the caller's case). -/
def renorm (x : XVec) : Pair :=
  let n2 := x.n2
  if n2.sign x.d = 0 then ⟨[], normZero, 0⟩
  else
    let ls := (x.us.zip x.ws).map fun (u, w) => (⟨u, w, firstRound x.d n2 u w⟩ : RLane)
    let ls := correctUp x.d n2 256 (correctDown x.d n2 256 ls)
    let q := ls.map fun l => if compSign x.d l.u l.w < 0 then -(l.m : Int) else (l.m : Int)
    let t := normCode x n2
    if t ≤ -(2 ^ 31) then ⟨[], normZero, fUF⟩
    else if t ≥ 2 ^ 31 - 1 then ⟨q, 0x7FFFFFFE#32, fOF⟩
    else ⟨q, BitVec.ofInt 32 t, 0⟩

/-- R36: a norm formed without renormalising saturates likewise; `none` is the zero code. -/
def normSat (t : Int) : BitVec 32 × Flags :=
  if t ≤ -(2 ^ 31) then (normZero, fUF)
  else if t ≥ 2 ^ 31 - 1 then (0x7FFFFFFE#32, fOF)
  else (BitVec.ofInt 32 t, 0)

/-- R40: `round(q·2^(n − 15))` in a format and mode, n = code/2^24, q ≠ 0. -/
def expandElem (f : Fmt) (mode : RMode) (r : Nat) (q : Int) (code : Int) : Nat × Flags :=
  let neg := decide (q < 0)
  if code % normOne = 0 then encodeFmt f mode .none r (.fin neg q.natAbs (code / normOne - 15))
  else if q = 0 then encodeFmt f mode .none r XVal.zero
  else
    roundEncl f mode r fun p =>
      let b := betaEncl code (p + 32)
      let lo := (q.natAbs : Int) * b.lo
      let hi := (q.natAbs : Int) * b.hi
      if neg then ⟨-hi, -lo, b.w + 15⟩ else ⟨lo, hi, b.w + 15⟩

end Sys2Proof.Machine
end

