-- ==== Sys2Proof/Machine/Directional.lean ====
section
/-! DEFINITION. The directional instructions (R31 to R45, R164 to R169). -/

namespace Sys2Proof.Machine

/-- What a norm code says (R33). -/
inductive NormKind where
  | ordinary | zero | nad
  deriving DecidableEq, Repr

def normKind (n : BitVec 32) : NormKind :=
  if n = 0x80000000#32 then .zero else if n = 0x7FFFFFFF#32 then .nad else .ordinary

/-- Active lanes (R32). -/
def Ctx.dlenN (c : Ctx) : Nat := c.csr.dlen.toNat

/-- The direction's codes below DLEN; a lane at or beyond it reads zero (R32). -/
def Ctx.codes (c : Ctx) (k : Nat) : List Int := (List.range c.dlenN).map fun i => dlane (c.dGet k) i

/-- IV when some operand is NaD; otherwise ZD when some operand is the zero code (R36). -/
def specialFlags (ks : List NormKind) : Flags :=
  if ks.contains .nad then fIV else if ks.contains .zero then fZD else 0

/-- Places the outcome of a renormalisation, or a special pair, under the whole-register guard (R38). -/
def State.putRenorm (s : State) (part lat : Nat) (g : Bool) (dst : Nat) (p : Pair) (fl : Flags) : State :=
  s.putPair part lat g dst (dpack p.q) p.n (p.fl ||| fl)

def pairNaD : Pair := ⟨[], normNaD, 0⟩
def pairZero : Pair := ⟨[], normZero, 0⟩

/-- Integers at a common power of two: the least exponent among the finite values. -/
def commonExp (xs : List XVal) : Int :=
  xs.foldl (fun (a : Int) x => match x with | .fin _ m e => if m = 0 then a else Min.min a e | _ => a) 0

def atExp (e0 : Int) : XVal → Int
  | .fin s m e => if m = 0 then 0 else signedAt s m e e0
  | _ => 0

/-- The source elements of DNRM and DMULV below DLEN: BF16 elements of one source, which may be a constant (R59), or FP32 of two
registers (R39). -/
def Ctx.dsrc (c : Ctx) (cur : Cur) (f32 : Bool) (x : Sel) : List XVal :=
  if f32 then
    let a := c.vGet (selNum x)
    let b := c.vGet (selNum x + 1)
    (List.range c.dlenN).map fun i => (decodeFmt .f32 (if i < 64 then vlane a i else vlane b (i - 64))).1
  else
    let a := c.srcE cur .bf16 x
    (List.range c.dlenN).map fun i => (decodeFmt .bf16 (velem 16 a i)).1

/-- The source role of that operand. -/
def dsrcRole (f32 : Bool) (x : Sel) : SKind × Sel := (if f32 then .v2 else .v, x)

/-- A vector of finite exact values, with no irrational factor. -/
def ratVec (xs : List XVal) (off : Int) : XVec :=
  let e0 := commonExp xs
  ⟨xs.map (atExp e0), xs.map fun _ => 0, 0, off + e0 * normOne⟩

/-- DNRM (R39). -/
def execDnrm (u : VUnit) (op : ROp) (s : State) : Out :=
  let part := partOf u
  let g := s.ctx.guard op.pred op.pn
  let f32 := op.md.getLsbD 0
  s.sources part [dsrcRole f32 op.xa] none fun c =>
    let xs := c.dsrc s.cur f32 op.xa
    if xs.all XVal.isFin then s.putRenorm part 8 g op.dst.toNat (renorm (ratVec xs 0)) 0
    else s.putRenorm part 8 g op.dst.toNat pairNaD fIV

/-- One element of DEXP (R40). -/
def dexpElem (c : Ctx) (k : Nat) (f : Fmt) (mode : RMode) (i r : Nat) : Nat × Flags :=
  if i ≥ c.dlenN then (0, 0)
  else match normKind (c.nGet k) with
    | .zero => (0, 0)
    | .nad => (f.canonNaN, 0)
    | .ordinary => expandElem f mode r (dlane (c.dGet k) i) (c.nGet k).toInt

/-- The FP32 forms write vd and vd + 1 under one predicate; the latch entry holds vd (R165). -/
def State.putV2 (s : State) (part lat : Nat) (m : Word) (nw : Bool) (dst : Nat) (x y : Vec) (fl : Flags) : State :=
  let c := s.ctx
  s.post (part - 1) lat (if nw then [] else [.v (c.vPhys dst) m x, .v (c.vPhys (dst + 1)) m y])
    (some (.vector (maskVec m x))) fl false

/-- DEXP (R40, R165): a zero code sets ZD, a NaD code IV. -/
def execDexp (u : VUnit) (op : ROp) (s : State) : Out :=
  let part := partOf u
  let m := s.ctx.lanes op.pred op.pn
  s.sources part [(.d, op.xa)] none fun c =>
    let k := selNum op.xa
    let mode := rmodeOf c.csr.rmode.toNat
    let stoc := decide (mode = .stoc)
    let spec := if m != 0 then specialFlags [normKind (c.nGet k)] else 0
    if op.md.getLsbD 0 then
      let (x, f1, g1) := elems 32 stoc m c.csr.rseed (dexpElem c k .f32 mode)
      let (y, f2, g2) := elems 32 stoc m g1 fun i r => dexpElem c k .f32 mode (i + 64) r
      (s.setGen g2).putV2 part 8 m op.nw op.dst.toNat x y (f1 ||| f2 ||| spec)
    else
      let (x, f1, g1) := elems 16 stoc m c.csr.rseed (dexpElem c k .bf16 mode)
      (s.setGen g1).putV part 8 m op.nw op.dst.toNat x (f1 ||| spec)

/-- R37: the cosine of two directions, as an FP32 pattern. -/
def cosine (c : Ctx) (a b : Nat) : Nat × Flags :=
  let ks := [normKind (c.nGet a), normKind (c.nGet b)]
  if ks.contains .nad then (Fmt.f32.canonNaN, fIV)
  else if ks.contains .zero then (0, fZD)
  else
    let t := ((c.codes a).zip (c.codes b)).foldl (fun (acc : Int) (x, y) => acc + x * y) 0
    rneF32 (.fin (decide (t < 0)) t.natAbs (-30))

/-- DDOT (R37, R166). -/
def execDdot (u : VUnit) (op : ROp) (s : State) : Out :=
  let part := partOf u
  let c := s.ctx
  let m := c.lanes op.pred op.pn
  let g := c.guard op.pred op.pn
  let sc := op.md.getLsbD 0
  let active := if sc then g else m != 0
  s.sources part [(.d, op.xa), (.d, op.xb)] none fun c =>
    let (x, fl) := cosine c (selNum op.xa) (selNum op.xb)
    if sc then s.putS part 6 g op.nw op.dst.toNat (BitVec.ofNat 64 x) fl
    else s.putV part 6 m op.nw op.dst.toNat (bcast32 x) (if active then fl else 0)

/-- DDOT8 (R166): lanes 0 to 7, the rest +0; a lane masked off raises no flag. -/
def execDdot8 (u : VUnit) (op : ROp) (s : State) : Out :=
  let part := partOf u
  let m := s.ctx.lanes op.pred op.pn
  let b := selNum op.xb
  s.sources part ((.d, op.xa) :: (List.range 8).map fun j => (.d, .reg (BitVec.ofNat 8 (b + j)))) none fun c =>
    let (x, fl, _) := elems 32 false m 0 fun k _ => if k < 8 then cosine c (selNum op.xa) (b + k) else (0, 0)
    s.putV part 6 m op.nw op.dst.toNat x fl

/-- DSCL (R167).  DESIGN CHOICE: an ordinary result writes a's direction, cut to the current
DLEN (R32), also when dd is da; R41's table names the norm alone. -/
def execDscl (u : VUnit) (op : ROp) (s : State) : Out :=
  let part := partOf u
  let g := s.ctx.guard op.pred op.pn
  s.sources part [(.d, op.xa), (.s, op.xb)] none fun c =>
    let k := selNum op.xa
    match normKind (c.nGet k) with
    | .zero => s.putRenorm part 2 g op.dst.toNat pairZero fZD
    | .nad => s.putRenorm part 2 g op.dst.toNat pairNaD fIV
    | .ordinary =>
      let (n, fl) := normSat ((c.nGet k).toInt + (c.srcS s.cur op.xb).toInt)
      s.putRenorm part 2 g op.dst.toNat ⟨if n = normZero then [] else c.codes k, n, fl⟩ 0

/-- DNGET (R167). -/
def execDnget (u : VUnit) (op : ROp) (s : State) : Out :=
  let part := partOf u
  let g := s.ctx.guard op.pred op.pn
  s.sources part [(.d, op.xa)] none fun c =>
    let n := c.nGet (selNum op.xa)
    s.putS part 2 g op.nw op.dst.toNat (n.signExtend 64) (specialFlags [normKind n])

/-- DNSET (R167): an ordinary code replaces the norm of an ordinary pair and keeps its direction, writing the norm alone (R41).
DESIGN CHOICE: a special code onto a zero or NaD pair sets no flag, as R167 names none there. -/
def execDnset (u : VUnit) (op : ROp) (s : State) : Out :=
  let part := partOf u
  let g := s.ctx.guard op.pred op.pn
  s.sources part [(.s, op.xa), (.d, .reg op.dst)] none fun c =>
    let k := op.dst.toNat
    let n := (c.srcS s.cur op.xa).setWidth 32
    match normKind n, normKind (c.nGet k) with
    | .zero, _ => s.putRenorm part 2 g k pairZero 0
    | .nad, _ => s.putRenorm part 2 g k pairNaD 0
    | .ordinary, .zero => s.putRenorm part 2 g k pairZero fZD
    | .ordinary, .nad => s.putRenorm part 2 g k pairNaD fIV
    | .ordinary, .ordinary => if g then s.post (part - 1) 2 [.norm k n] none 0 false else s

/-- x = α·A + β·B built exactly, with rational factors (R168); a zero-code operand contributes the zero vector. -/
def combine (c : Ctx) (a b : Nat) (fa fb : XVal) : XVec :=
  let za := normKind (c.nGet a) == .zero
  let zb := normKind (c.nGet b) == .zero
  let e0 := commonExp [fa, fb]
  let ka := atExp e0 fa
  let kb := atExp e0 fb
  let qa := if za then (c.codes a).map fun _ => 0 else (c.codes a).map (· * ka)
  let qb := if zb then (c.codes b).map fun _ => 0 else (c.codes b).map (· * kb)
  let na := (c.nGet a).toInt
  let nb := (c.nGet b).toInt
  let base := (e0 - 15) * normOne
  if za ∨ qa.all (· == 0) then ⟨qb, qb.map fun _ => 0, 0, nb + base⟩
  else if zb ∨ qb.all (· == 0) then ⟨qa, qa.map fun _ => 0, 0, na + base⟩
  else ⟨qa, qb, nb - na, na + base⟩

/-- The shared form of DADD, DSUB and DLERP: special operands first (R36, R168), then renormalisation. -/
def dcombine (u : VUnit) (op : ROp) (s : State) (srcs : List (SKind × Sel)) (f : Ctx → XVal × XVal) : Out :=
  let part := partOf u
  let g := s.ctx.guard op.pred op.pn
  s.sources part srcs none fun c =>
    let a := selNum op.xa
    let b := selNum op.xb
    let ks := [normKind (c.nGet a), normKind (c.nGet b)]
    let (fa, fb) := f c
    if ks.contains .nad ∨ !fa.isFin ∨ !fb.isFin then s.putRenorm part 10 g op.dst.toNat pairNaD fIV
    else s.putRenorm part 10 g op.dst.toNat (renorm (combine c a b fa fb)) (specialFlags ks)

def execDadd (u : VUnit) (op : ROp) (s : State) : Out :=
  dcombine u op s [(.d, op.xa), (.d, op.xb)] fun _ => (.fin false 1 0, .fin false 1 0)
def execDsub (u : VUnit) (op : ROp) (s : State) : Out :=
  dcombine u op s [(.d, op.xa), (.d, op.xb)] fun _ => (.fin false 1 0, .fin true 1 0)

/-- DLERP: factors 1 − t and t, t an FP32 in c[31:0] (R168). -/
def execDlerp (u : VUnit) (op : ROp) (s : State) : Out :=
  dcombine u op s [(.d, op.xa), (.d, op.xb), (.s, op.xc)] fun c =>
    let t := (decodeFmt .f32 ((c.srcS s.cur op.xc).toNat % 2 ^ 32)).1
    (((XVal.fin false 1 0).add false t.neg).1, t)

/-- DMULV (R168). -/
def execDmulv (u : VUnit) (op : ROp) (s : State) : Out :=
  let part := partOf u
  let g := s.ctx.guard op.pred op.pn
  let f32 := op.md.getLsbD 0
  s.sources part [(.d, op.xa), dsrcRole f32 op.xb] none fun c =>
    let k := selNum op.xa
    let vs := c.dsrc s.cur f32 op.xb
    let kind := normKind (c.nGet k)
    if kind == .nad || !(vs.all XVal.isFin) then s.putRenorm part 10 g op.dst.toNat pairNaD fIV
    else if kind == .zero then s.putRenorm part 10 g op.dst.toNat pairZero fZD
    else
      let prods := ((c.codes k).zip vs).map fun (q, v) => ((XVal.ofInt q).mul v).1
      s.putRenorm part 10 g op.dst.toNat (renorm (ratVec prods ((c.nGet k).toInt - 15 * normOne))) 0

/-- DNEG and DMOV (R169): the truncated codes, negated or not. -/
def dcopy (u : VUnit) (op : ROp) (s : State) (f : Int → Int) : Out :=
  let part := partOf u
  let g := s.ctx.guard op.pred op.pn
  s.sources part [(.d, op.xa)] none fun c =>
    let k := selNum op.xa
    match normKind (c.nGet k) with
    | .zero => s.putRenorm part 2 g op.dst.toNat pairZero fZD
    | .nad => s.putRenorm part 2 g op.dst.toNat pairNaD fIV
    | .ordinary => s.putRenorm part 2 g op.dst.toNat ⟨(c.codes k).map f, c.nGet k, 0⟩ 0

def execDneg (u : VUnit) (op : ROp) (s : State) : Out := dcopy u op s fun q => -q
def execDmov (u : VUnit) (op : ROp) (s : State) : Out := dcopy u op s fun q => q

/-- DCVT (R165): the direction without its norm, raw, BF16 or FP32; latency 4. -/
def execDcvt (u : VUnit) (op : ROp) (s : State) : Out :=
  let part := partOf u
  let m := s.ctx.lanes op.pred op.pn
  s.sources part [(.d, op.xa)] none fun c =>
    let q (i : Nat) : Int := (c.codes (selNum op.xa)).getD i 0
    match bitsOf op.md.toNat 1 0 with
    | 0 => s.putV part 4 m op.nw op.dst.toNat (dpack (c.codes (selNum op.xa))) 0
    | 1 =>
      let mode := rmodeOf c.csr.rmode.toNat
      let (x, fl, gen) := elems 16 (decide (mode = .stoc)) m c.csr.rseed fun i r =>
        encodeFmt .bf16 mode .none r (.fin (decide (q i < 0)) (q i).natAbs (-15))
      (s.setGen gen).putV part 4 m op.nw op.dst.toNat x fl
    | _ =>
      let f (i : Nat) : Nat := (rneF32 (.fin (decide (q i < 0)) (q i).natAbs (-15))).1
      s.putV2 part 4 m op.nw op.dst.toNat (vbuild 32 f) (vbuild 32 fun i => f (i + 64)) 0

end Sys2Proof.Machine
end

