-- ==== Sys2Proof/Machine/VecConv.lean ====
section
/-! DEFINITION. Conversion and quantisation in the A and B slots (R147 to R150). -/

namespace Sys2Proof.Machine

/-- PAIR: source code, destination code, and 4 when the pair adds it to PART (R147). -/
def cvtPair (pair : Nat) : Nat × Nat × Nat :=
  if pair ≤ 80 then (pair / 9 + 1, pair % 9 + 1, 0)
  else match pair with
    | 81 => (1, 6, 4) | 82 => (1, 9, 4) | 83 => (7, 6, 4) | 84 => (7, 9, 4)
    | 85 => (6, 1, 4) | 86 => (6, 7, 4) | 87 => (9, 1, 4) | _ => (9, 7, 4)

/-- VCVT (R147 to R149), in RMODE; latency 4. -/
def execVcvt (u : VUnit) (op : ROp) (s : State) : Out :=
  let part := partOf u
  let m := s.ctx.lanes op.pred op.pn
  let (sc, dc, add) := cvtPair (bitsOf op.md.toNat 9 3)
  let fs := fmtN sc
  let fd := fmtN dc
  let ws := fs.width
  let wd := fd.width
  let p := bitsOf op.md.toNat 1 0 + add
  let clampOn := op.md.getLsbD 2
  s.sources part (vsrcs (if clampOn then [op.xa, op.xb] else [op.xa])) none fun c =>
    let a := c.srcE s.cur fs op.xa
    let b := c.srcE s.cur .f32 op.xb
    let mode := rmodeOf c.csr.rmode.toNat
    let ns := 2048 / ws
    let nd := 2048 / wd
    -- the destination lanes of the run (R148)
    let lanesRun := ns * wd / 32
    let run := if wd < ws then laneMask (fun k => decide (p * lanesRun ≤ k) && decide (k < (p + 1) * lanesRun)) else allOnes
    let mm := m &&& run
    let (x, fl, gen) := elems wd (decide (mode = .stoc)) mm c.csr.rseed fun j r =>
      let i := if wd < ws then j - p * ns else if wd > ws then p * nd + j else j
      let cl := if clampOn then clampOfF32 (vlane b (j * wd / 32)) else .none
      convert fs fd mode cl r (velem ws a i)
    (s.setGen gen).putV part 4 mm op.nw op.dst.toNat x fl

/-- Blocks of the unquantised side (R150). -/
def quantBlocks (ty : Nat) : Nat := if ty = 1 then 8 else 16

/-- The draws of a run of elements and the generator afterwards (R22). -/
def drawN : Nat → Word → List Nat × Word
  | 0, g => ([], g)
  | n + 1, g => let g' := lfsrStep g; let (l, h) := drawN n g'; (lfsrDraw g' :: l, h)

/-- VQNT's blocks in turn: scale code and codes of each, with the flags and the generator (R25, R150). -/
def quantRun (mode : RMode) (band : XVal) (fm : Fmt) (a : Vec) : Nat → Nat → Word → List (Nat × List Nat) × Flags × Word
  | 0, _, g => ([], 0, g)
  | n + 1, j, g =>
    let (rs, g') := if mode = .stoc then drawN 8 g else (List.replicate 8 0, g)
    let xs := (List.range 8).map fun i => (decodeFmt fm (velem fm.width a (8 * j + i))).1
    let (code, els, fl) := encBlock mode .none band rs xs
    let (l, fl2, g2) := quantRun mode band fm a n (j + 1) g'
    ((code, els) :: l, fl ||| fl2, g2)

/-- VQNT (R150): a guard on the whole operation. -/
def execVqnt (u : VUnit) (op : ROp) (s : State) : Out :=
  let part := partOf u
  let c := s.ctx
  let g := c.guard op.pred op.pn
  let ty := c.typ (bitsOf op.md.toNat 3 0)
  let p := bitsOf op.md.toNat 6 4
  let nb := quantBlocks ty
  let ok := (ty == 1 || ty == 2 || ty == 3) && decide (p * nb + nb ≤ 48)
  s.sources part (vsrcs [op.xa, op.xb]) (illUnless s part ok) fun c =>
    if !g then s.putV part 4 0 op.nw op.dst.toNat 0 0
    else
      let fm := fmtN ty
      let a := c.srcE s.cur fm op.xa
      let band := (decodeFmt .bf16 (velem 16 (c.srcE s.cur .bf16 op.xb) 0)).1
      let mode := rmodeOf c.csr.rmode.toNat
      let (bl, fl, gen) := quantRun mode band fm a nb 0 c.csr.rseed
      let els (j : Nat) : Nat := packElems 4 (fun i => (bl.getD (j - p * nb) (0, [])).2.getD i 0) 8
      let scales (k : Nat) : Nat := packElems 8 (fun i => (bl.getD (4 * (k - 48) + i - p * nb) (0, [])).1) 4
      let m := laneMask fun k =>
        (decide (p * nb ≤ k) && decide (k < p * nb + nb)) ||
        (decide (48 + p * nb / 4 ≤ k) && decide (k < 48 + (p * nb + nb) / 4))
      (s.setGen gen).putV part 4 m op.nw op.dst.toNat
        (vbuild 32 fun k => if k < 48 then els k else scales k) fl

/-- VDQNT (R150): the code 0b1000 is +0 whatever the scales (R14).  DESIGN CHOICE: an exact product of zero takes the sign of its factors' product, and a constant selector as va supplies 32-bit
lanes. -/
def execVdqnt (u : VUnit) (op : ROp) (s : State) : Out :=
  let part := partOf u
  let c := s.ctx
  let g := c.guard op.pred op.pn
  let ty := c.typ (bitsOf op.md.toNat 3 0)
  let p := bitsOf op.md.toNat 6 4
  let nb := quantBlocks ty
  let ok := (ty == 1 || ty == 2 || ty == 3) && decide (p * nb + nb ≤ 48)
  s.sources part (vsrcs [op.xa, op.xb]) (illUnless s part ok) fun c =>
    if !g then s.putV part 4 0 op.nw op.dst.toNat 0 0
    else
      let fm := fmtN ty
      let a := c.srcV s.cur op.xa
      let band := (decodeFmt .bf16 (velem 16 (c.srcE s.cur .bf16 op.xb) 0)).1
      let bandBad := !band.isFin || band.isZero
      let mode := rmodeOf c.csr.rmode.toNat
      let (x, fl, gen) := elems fm.width (decide (mode = .stoc)) allOnes c.csr.rseed fun i r =>
        if bandBad then (0, fIV)
        else
          let blk := p * nb + i / 8
          encodeFmt fm mode .none r (fp4Value (velem 4 a (8 * blk + i % 8)) (velem 8 a (192 + blk)) band).1
      (s.setGen gen).putV part 4 allOnes op.nw op.dst.toNat x fl

end Sys2Proof.Machine
end

