-- ==== Sys2Proof/Machine/VecPerm.lean ====
section
/-! DEFINITION. Permutations, reductions and scans under SHAPE (R154 to R158, with the trees of R29 and R30). -/

namespace Sys2Proof.Machine

/-- SHAPE's fields (R86). -/
def Ctx.rows (c : Ctx) : Nat := bitsOf c.csr.shape.toNat 9 6 + 1
def Ctx.cols (c : Ctx) : Nat := bitsOf c.csr.shape.toNat 5 0 + 1
def Ctx.etype (c : Ctx) : Nat := bitsOf c.csr.shape.toNat 13 10

/-- VSHUF (R154).  DESIGN CHOICE: a constant selector supplies 32-bit lanes in
every granularity. -/
def execVshuf (u : VUnit) (op : ROp) (s : State) : Out :=
  let part := partOf u
  let m := s.ctx.lanes op.pred op.pn
  let g := 32 / 2 ^ bitsOf op.md.toNat 1 0
  s.sources part (vsrcs [op.xa, op.xb]) none fun c =>
    let a := c.srcV s.cur op.xa
    let b := c.srcV s.cur op.xb
    let limit := c.rows * c.cols * typeWidth c.etype
    s.putV part 2 m op.nw op.dst.toNat (vbuild g fun i =>
      let j := velem g b i
      if j ≥ 2048 / g ∨ j * g ≥ limit then 0 else velem g a j) 0

/-- Rows or columns moved by an index (R155). -/
def moveLines (u : VUnit) (op : ROp) (s : State) (byRow : Bool) : Out :=
  let part := partOf u
  let m := s.ctx.lanes op.pred op.pn
  s.sources part (vsrcs [op.xa, op.xb]) none fun c =>
    let fm := fmtN c.etype
    let w := fm.width
    let a := c.srcV s.cur op.xa
    let b := c.srcV s.cur op.xb
    let rows := c.rows
    let cols := c.cols
    s.putV part 2 m op.nw op.dst.toNat (vbuild w fun e =>
      let r := e / cols
      let k := e % cols
      if r ≥ rows then 0
      else if byRow then (let i := vlane b r; if i ≥ rows then 0 else velem w a (i * cols + k))
      else (let i := vlane b k; if i ≥ cols then 0 else velem w a (r * cols + i))) 0

def execVrowm (u : VUnit) (op : ROp) (s : State) : Out := moveLines u op s true
def execVcolm (u : VUnit) (op : ROp) (s : State) : Out := moveLines u op s false

/-- VTRN (R156). -/
def execVtrn (u : VUnit) (op : ROp) (s : State) : Out :=
  let part := partOf u
  let m := s.ctx.lanes op.pred op.pn
  s.sources part (vsrcs [op.xa]) none fun c =>
    let fm := fmtN c.etype
    let w := fm.width
    let a := c.srcV s.cur op.xa
    let rows := c.rows
    let cols := c.cols
    s.putV part 2 m op.nw op.dst.toNat (vbuild w fun e =>
      if e ≥ rows * cols then 0 else velem w a (e % rows * cols + e / rows)) 0

/-- The operations of R29, on FP32 patterns or INT32 patterns. -/
def redOp (op : Nat) (isInt : Bool) (a b : Nat) : Nat × Flags :=
  if isInt then
    match op with
    | 0 => ((a + b) % 2 ^ 32, 0)
    | 1 => (if sextN 32 a < sextN 32 b then b else a, 0)
    | _ => (if sextN 32 b < sextN 32 a then b else a, 0)
  else
    let x := (decodeFmt .f32 a).1
    let y := (decodeFmt .f32 b).1
    match op with
    | 0 => let (v, e) := x.add false y; let (p, e2) := rneF32 v; (p, e ||| e2)
    | 1 => ((rneF32 (x.max y)).1, 0)
    | _ => ((rneF32 (x.min y)).1, 0)

/-- The identities of R29. -/
def redId (op : Nat) (isInt : Bool) : Nat :=
  if isInt then (match op with | 0 => 0 | 1 => 2 ^ 31 | _ => 2 ^ 31 - 1)
  else (match op with | 0 => 0x80000000 | 1 => 0xFF800000 | _ => 0x7F800000)

/-- One halving of the pairwise tree (R29). -/
def redLevel (op : Nat) (isInt : Bool) : List Nat → List Nat × Flags
  | a :: b :: t =>
    let (x, e) := redOp op isInt a b
    let (l, e2) := redLevel op isInt t
    (x :: l, e ||| e2)
  | l => (l, 0)

/-- The tree over a list padded to a power of two. -/
def redTree (op : Nat) (isInt : Bool) : Nat → List Nat → Flags → Nat × Flags
  | 0, l, fl => (l.headD 0, fl)
  | fuel + 1, l, fl =>
    if l.length ≤ 1 then (l.headD 0, fl)
    else let (l', e) := redLevel op isInt l; redTree op isInt fuel l' (fl ||| e)

/-- Least power of two not below n ≤ 64. -/
def padTo (n : Nat) : Nat := if n ≤ 1 then 1 else if n ≤ 2 then 2 else if n ≤ 4 then 4 else if n ≤ 8 then 8
  else if n ≤ 16 then 16 else if n ≤ 32 then 32 else 64

/-- R29: a reduction of positions, some of them inactive. -/
def reduce (op : Nat) (isInt : Bool) (xs : List (Option Nat)) : Nat × Flags :=
  let id := redId op isInt
  let l := xs.map (fun x => x.getD id)
  redTree op isInt 7 (l ++ List.replicate (padTo xs.length - xs.length) id) 0

/-- A source element widened to FP32 or INT32 (R157). -/
def widen32 (fm : Fmt) (x : Nat) : Nat :=
  if fm.isInt then toTwos 32 (sextN fm.width x) else (rneF32 (decodeFmt fm x).1).1

/-- VRED (R157): the predicate masks inputs only; latency 4.  DESIGN CHOICE (log entry 195): with SC = 1 the tree of row or column 0 alone runs. -/
def execVred (u : VUnit) (op : ROp) (s : State) : Out :=
  let part := partOf u
  let c := s.ctx
  let m := c.lanes op.pred op.pn
  let dead := op.pred == 0 && op.pn
  let ty := c.typ (bitsOf op.md.toNat 9 6)
  let okType := ty == 1 || ty == 2 || ty == 3 || ty == 7 || ty == 8
  s.sources part (vsrcs [op.xa]) (illUnless s part okType) fun c =>
    let fm := fmtN ty
    let w := fm.width
    let a := c.srcE s.cur fm op.xa
    let rows := c.rows
    let cols := c.cols
    let o := bitsOf op.md.toNat 2 0
    let byCol := op.md.getLsbD 3
    let line (k : Nat) : Nat × Flags :=
      let n := if byCol then rows else cols
      reduce o fm.isInt ((List.range n).map fun i =>
        let e := if byCol then i * cols + k else k * cols + i
        -- an element beyond the register (a TYPE wider than SHAPE's) has no lane whose predicate bit is 1, so it is not active
        if m.getLsbD (e * w / 32) then some (widen32 fm (velem w a e)) else none)
    if op.md.getLsbD 4 then
      let (x, fl) := line 0
      if dead then s.putS part 4 false op.nw op.dst.toNat 0 0
      else s.putS part 4 true op.nw op.dst.toNat (BitVec.ofNat 64 x) fl
    else
      let n := if byCol then cols else rows
      let rs := (List.range n).map line
      let fl := rs.foldl (fun f r => f ||| r.2) 0
      let v := vbuild 32 fun k => (rs.getD k (0, 0)).1
      if dead then s.putV part 4 0 op.nw op.dst.toNat 0 0
      else s.putV part 4 allOnes op.nw op.dst.toNat v fl

/-- R30: the chain of a scan. -/
def scanChain (op : Nat) (isInt : Bool) : Nat → List Nat → List Nat × Flags
  | _, [] => ([], 0)
  | acc, x :: t =>
    let (y, e) := redOp op isInt acc x
    let (l, e2) := scanChain op isInt y t
    (y :: l, e ||| e2)

/-- y[0] := x[0], with a NaN canonical (R13), then the chain; masked positions contribute ID (R30, R158). -/
def scanLine (op : Nat) (isInt : Bool) (xs : List (Option Nat)) : List Nat × Flags :=
  match xs.map (fun x => x.getD (redId op isInt)) with
  | [] => ([], 0)
  | x :: t => let (l, e) := scanChain op isInt x t; (x :: l, e)

/-- VSCAN (R158). -/
def execVscan (u : VUnit) (op : ROp) (s : State) : Out :=
  let part := partOf u
  let c := s.ctx
  let m := c.lanes op.pred op.pn
  let ty := c.typ (bitsOf op.md.toNat 9 6)
  s.sources part (vsrcs [op.xa]) (illUnless s part (ty == 1 || ty == 7)) fun c =>
    let a := c.srcE s.cur (fmtN ty) op.xa
    let rows := c.rows
    let cols := c.cols
    let o := bitsOf op.md.toNat 2 0
    let byCol := op.md.getLsbD 3
    let at_ (l i : Nat) : Nat := if byCol then i * cols + l else l * cols + i
    let res := (List.range (if byCol then cols else rows)).map fun l =>
      scanLine o (ty == 7) ((List.range (if byCol then rows else cols)).map fun i =>
        if m.getLsbD (at_ l i) then some (widen32 (fmtN ty) (vlane a (at_ l i))) else none)
    let fl := res.foldl (fun f r => f ||| r.2) 0
    let v := vbuild 32 fun e =>
      let l := if byCol then e % cols else e / cols
      let i := if byCol then e / cols else e % cols
      ((res.getD l ([], 0)).1).getD i 0
    let inside := laneMask fun k => decide (k < rows * cols)
    s.putV part 4 (m &&& inside) op.nw op.dst.toNat v fl

end Sys2Proof.Machine
end

