-- ==== Sys2Proof/Machine/Dispatch.lean ====
section
/-! DEFINITION. One arm per instruction: its meaning. -/

namespace Sys2Proof.Machine

def exec (i : Instr) (s : State) : Host.Outcome State Fault Refusal :=
  match i with
  | .add op => Sys2Proof.Machine.execAdd op s
  | .sub op => Sys2Proof.Machine.execSub op s
  | .addi op => Sys2Proof.Machine.execAddi op s
  | .mul op => Sys2Proof.Machine.execMul op s
  | .mulh op => Sys2Proof.Machine.execMulh op s
  | .mulhu op => Sys2Proof.Machine.execMulhu op s
  | .div op => Sys2Proof.Machine.execDiv op s
  | .divu op => Sys2Proof.Machine.execDivu op s
  | .rem op => Sys2Proof.Machine.execRem op s
  | .and op => Sys2Proof.Machine.execAnd op s
  | .or op => Sys2Proof.Machine.execOr op s
  | .xor op => Sys2Proof.Machine.execXor op s
  | .andn op => Sys2Proof.Machine.execAndn op s
  | .shl op => Sys2Proof.Machine.execShl op s
  | .shr op => Sys2Proof.Machine.execShr op s
  | .sra op => Sys2Proof.Machine.execSra op s
  | .rot op => Sys2Proof.Machine.execRot op s
  | .clz op => Sys2Proof.Machine.execClz op s
  | .popc op => Sys2Proof.Machine.execPopc op s
  | .min op => Sys2Proof.Machine.execMin op s
  | .max op => Sys2Proof.Machine.execMax op s
  | .minu op => Sys2Proof.Machine.execMinu op s
  | .maxu op => Sys2Proof.Machine.execMaxu op s
  | .sel op => Sys2Proof.Machine.execSel op s
  | .cmp op => Sys2Proof.Machine.execCmp op s
  | .pand op => Sys2Proof.Machine.execPand op s
  | .por op => Sys2Proof.Machine.execPor op s
  | .pxor op => Sys2Proof.Machine.execPxor op s
  | .pnot op => Sys2Proof.Machine.execPnot op s
  | .movi op => Sys2Proof.Machine.execMovi op s
  | .movhi op => Sys2Proof.Machine.execMovhi op s
  | .lea op => Sys2Proof.Machine.execLea op s
  | .bfx op => Sys2Proof.Machine.execBfx op s
  | .bfi op => Sys2Proof.Machine.execBfi op s
  | .csrr op => Sys2Proof.Machine.execCsrr op s
  | .csrw op => Sys2Proof.Machine.execCsrw op s
  | .br op => Sys2Proof.Machine.execBr op s
  | .brc op => Sys2Proof.Machine.execBrc op s
  | .call op => Sys2Proof.Machine.execCall op s
  | .ret op => Sys2Proof.Machine.execRet op s
  | .loopm op => Sys2Proof.Machine.execLoopm op s
  | .brlc op => Sys2Proof.Machine.execBrlc op s
  | .trap op => Sys2Proof.Machine.execTrap op s
  | .endTask op => Sys2Proof.Machine.execEndTask op s
  | .eret op => Sys2Proof.Machine.execEret op s
  | .xrd op => Sys2Proof.Machine.execXrd op s
  | .xwr op => Sys2Proof.Machine.execXwr op s
  | .vadd u op => Sys2Proof.Machine.execVadd u op s
  | .vsub u op => Sys2Proof.Machine.execVsub u op s
  | .vmul u op => Sys2Proof.Machine.execVmul u op s
  | .vfma u op => Sys2Proof.Machine.execVfma u op s
  | .vfms u op => Sys2Proof.Machine.execVfms u op s
  | .vnfma u op => Sys2Proof.Machine.execVnfma u op s
  | .vmin u op => Sys2Proof.Machine.execVmin u op s
  | .vmax u op => Sys2Proof.Machine.execVmax u op s
  | .vabs u op => Sys2Proof.Machine.execVabs u op s
  | .vneg u op => Sys2Proof.Machine.execVneg u op s
  | .vsf u op => Sys2Proof.Machine.execVsf u op s
  | .vcvt u op => Sys2Proof.Machine.execVcvt u op s
  | .vqnt u op => Sys2Proof.Machine.execVqnt u op s
  | .vdqnt u op => Sys2Proof.Machine.execVdqnt u op s
  | .vand u op => Sys2Proof.Machine.execVand u op s
  | .vor u op => Sys2Proof.Machine.execVor u op s
  | .vxor u op => Sys2Proof.Machine.execVxor u op s
  | .vnot u op => Sys2Proof.Machine.execVnot u op s
  | .vshl u op => Sys2Proof.Machine.execVshl u op s
  | .vshr u op => Sys2Proof.Machine.execVshr u op s
  | .vsra u op => Sys2Proof.Machine.execVsra u op s
  | .vcmp u op => Sys2Proof.Machine.execVcmp u op s
  | .vsel u op => Sys2Proof.Machine.execVsel u op s
  | .vmov u op => Sys2Proof.Machine.execVmov u op s
  | .vbcast u op => Sys2Proof.Machine.execVbcast u op s
  | .viota u op => Sys2Proof.Machine.execViota u op s
  | .vshuf u op => Sys2Proof.Machine.execVshuf u op s
  | .vrowm u op => Sys2Proof.Machine.execVrowm u op s
  | .vcolm u op => Sys2Proof.Machine.execVcolm u op s
  | .vtrn u op => Sys2Proof.Machine.execVtrn u op s
  | .vred u op => Sys2Proof.Machine.execVred u op s
  | .vscan u op => Sys2Proof.Machine.execVscan u op s
  | .vdot2 u op => Sys2Proof.Machine.execVdot2 u op s
  | .vext u op => Sys2Proof.Machine.execVext u op s
  | .vins u op => Sys2Proof.Machine.execVins u op s
  | .vlds u op => Sys2Proof.Machine.execVlds u op s
  | .vsts u op => Sys2Proof.Machine.execVsts u op s
  | .sadd u op => Sys2Proof.Machine.execSadd u op s
  | .ssub u op => Sys2Proof.Machine.execSsub u op s
  | .smul u op => Sys2Proof.Machine.execSmul u op s
  | .smin u op => Sys2Proof.Machine.execSmin u op s
  | .smax u op => Sys2Proof.Machine.execSmax u op s
  | .sand u op => Sys2Proof.Machine.execSand u op s
  | .sor u op => Sys2Proof.Machine.execSor u op s
  | .sxor u op => Sys2Proof.Machine.execSxor u op s
  | .dnrm u op => Sys2Proof.Machine.execDnrm u op s
  | .dexp u op => Sys2Proof.Machine.execDexp u op s
  | .ddot u op => Sys2Proof.Machine.execDdot u op s
  | .ddot8 u op => Sys2Proof.Machine.execDdot8 u op s
  | .dscl u op => Sys2Proof.Machine.execDscl u op s
  | .dnget u op => Sys2Proof.Machine.execDnget u op s
  | .dnset u op => Sys2Proof.Machine.execDnset u op s
  | .dadd u op => Sys2Proof.Machine.execDadd u op s
  | .dsub u op => Sys2Proof.Machine.execDsub u op s
  | .dneg u op => Sys2Proof.Machine.execDneg u op s
  | .dmulv u op => Sys2Proof.Machine.execDmulv u op s
  | .dlerp u op => Sys2Proof.Machine.execDlerp u op s
  | .dmov u op => Sys2Proof.Machine.execDmov u op s
  | .dcvt u op => Sys2Proof.Machine.execDcvt u op s
  | .omclaim op => Sys2Proof.Machine.execOmclaim op s
  | .omrel op => Sys2Proof.Machine.execOmrel op s
  | .omld op => Sys2Proof.Machine.execOmld op s
  | .omst op => Sys2Proof.Machine.execOmst op s
  | .mma op => Sys2Proof.Machine.execMma op s
  | .mmaq op => Sys2Proof.Machine.execMmaq op s
  | .tzero op => Sys2Proof.Machine.execTzero op s
  | .tcfg op => Sys2Proof.Machine.execTcfg op s
  | .trow op => Sys2Proof.Machine.execTrow op s
  | .tcol op => Sys2Proof.Machine.execTcol op s
  | .trowW op => Sys2Proof.Machine.execTrowW op s
  | .tcolW op => Sys2Proof.Machine.execTcolW op s
  | .tld op => Sys2Proof.Machine.execTld op s
  | .tst op => Sys2Proof.Machine.execTst op s
  | .tdrain op => Sys2Proof.Machine.execTdrain op s
  | .tsave op => Sys2Proof.Machine.execTsave op s
  | .tstat op => Sys2Proof.Machine.execTstat op s
  | .lda op => Sys2Proof.Machine.execLda op s
  | .ldw op => Sys2Proof.Machine.execLdw op s
  | .lds op => Sys2Proof.Machine.execLds op s
  | .ldv op => Sys2Proof.Machine.execLdv op s
  | .ldg op => Sys2Proof.Machine.execLdg op s
  | .ldx op => Sys2Proof.Machine.execLdx op s
  | .pft op => Sys2Proof.Machine.execPft op s
  | .qdrop op => Sys2Proof.Machine.execQdrop op s
  | .wset op => Sys2Proof.Machine.execWset op s
  | .wadv op => Sys2Proof.Machine.execWadv op s
  | .csel op => Sys2Proof.Machine.execCsel op s
  | .sts op => Sys2Proof.Machine.execSts op s
  | .stv op => Sys2Proof.Machine.execStv op s
  | .stw op => Sys2Proof.Machine.execStw op s
  | .stg op => Sys2Proof.Machine.execStg op s
  | .stp op => Sys2Proof.Machine.execStp op s
  | .aadd op => Sys2Proof.Machine.execAadd op s
  | .afadd op => Sys2Proof.Machine.execAfadd op s
  | .amin op => Sys2Proof.Machine.execAmin op s
  | .amax op => Sys2Proof.Machine.execAmax op s
  | .axch op => Sys2Proof.Machine.execAxch op s
  | .acas op => Sys2Proof.Machine.execAcas op s
  | .aand op => Sys2Proof.Machine.execAand op s
  | .aor op => Sys2Proof.Machine.execAor op s
  | .axor op => Sys2Proof.Machine.execAxor op s
  | .copy op => Sys2Proof.Machine.execCopy op s
  | .copym op => Sys2Proof.Machine.execCopym op s
  | .gath op => Sys2Proof.Machine.execGath op s
  | .scad op => Sys2Proof.Machine.execScad op s
  | .hrel op => Sys2Proof.Machine.execHrel op s
  | .taskl op => Sys2Proof.Machine.execTaskl op s
  | .tasksSetpri op => Sys2Proof.Machine.execTasksSetpri op s
  | .tasksSusp op => Sys2Proof.Machine.execTasksSusp op s
  | .tasksResume op => Sys2Proof.Machine.execTasksResume op s
  | .canc op => Sys2Proof.Machine.execCanc op s
  | .tmrk op => Sys2Proof.Machine.execTmrk op s
  | .pkb op => Sys2Proof.Machine.execPkb op s
  | .pksnd op => Sys2Proof.Machine.execPksnd op s
  | .pkprkCopy op => Sys2Proof.Machine.execPkprkCopy op s
  | .pkprkTake op => Sys2Proof.Machine.execPkprkTake op s
  | .pkprkRetry op => Sys2Proof.Machine.execPkprkRetry op s
  | .pkprkDrop op => Sys2Proof.Machine.execPkprkDrop op s
  | .rld op => Sys2Proof.Machine.execRld op s
  | .rst op => Sys2Proof.Machine.execRst op s
  | .faa op => Sys2Proof.Machine.execFaa op s
  | .ffn op => Sys2Proof.Machine.execFfn op s
  | .coll op => Sys2Proof.Machine.execColl op s
  | .resh op => Sys2Proof.Machine.execResh op s
  | .cbkt op => Sys2Proof.Machine.execCbkt op s
  | .cwgt op => Sys2Proof.Machine.execCwgt op s
  | .waith op => Sys2Proof.Machine.execWaith op s
  | .waitc op => Sys2Proof.Machine.execWaitc op s
  | .acq op => Sys2Proof.Machine.execAcq op s
  | .rel op => Sys2Proof.Machine.execRel op s
  | .fence op => Sys2Proof.Machine.execFence op s
  | .fencex op => Sys2Proof.Machine.execFencex op s
  | .chk op => Sys2Proof.Machine.execChk op s
  | .yld op => Sys2Proof.Machine.execYld op s
  | .brk op => Sys2Proof.Machine.execBrk op s
  | .trig op => Sys2Proof.Machine.execTrig op s
  | .fpclr op => Sys2Proof.Machine.execFpclr op s
  | .fpsnap op => Sys2Proof.Machine.execFpsnap op s
  | .bara op => Sys2Proof.Machine.execBara op s
  | .barw op => Sys2Proof.Machine.execBarw op s
  | .rdv op => Sys2Proof.Machine.execRdv op s
  | .pktPshr n => Sys2Proof.Machine.execPktPshr n s
  | .pktPopr n => Sys2Proof.Machine.execPktPopr n s
  | .pktPshi im => Sys2Proof.Machine.execPktPshi im s
  | .pktDup => Sys2Proof.Machine.execPktDup s
  | .pktSwp => Sys2Proof.Machine.execPktSwp s
  | .pktDrp => Sys2Proof.Machine.execPktDrp s
  | .pktAdd => Sys2Proof.Machine.execPktAdd s
  | .pktSub => Sys2Proof.Machine.execPktSub s
  | .pktMin => Sys2Proof.Machine.execPktMin s
  | .pktMax => Sys2Proof.Machine.execPktMax s
  | .pktAnd => Sys2Proof.Machine.execPktAnd s
  | .pktOr => Sys2Proof.Machine.execPktOr s
  | .pktXor => Sys2Proof.Machine.execPktXor s
  | .pktShl => Sys2Proof.Machine.execPktShl s
  | .pktShr => Sys2Proof.Machine.execPktShr s
  | .pktCeq => Sys2Proof.Machine.execPktCeq s
  | .pktClt => Sys2Proof.Machine.execPktClt s
  | .pktLdw => Sys2Proof.Machine.execPktLdw s
  | .pktAdw => Sys2Proof.Machine.execPktAdw s
  | .pktXcw => Sys2Proof.Machine.execPktXcw s
  | .pktTsc => Sys2Proof.Machine.execPktTsc s
  | .pktInc n => Sys2Proof.Machine.execPktInc n s
  | .pktNode => Sys2Proof.Machine.execPktNode s
  | .pktHops => Sys2Proof.Machine.execPktHops s
  | .pktPld w => Sys2Proof.Machine.execPktPld w s
  | .pktPaccI32 w => Sys2Proof.Machine.execPktPaccI32 w s
  | .pktPaccF32 w => Sys2Proof.Machine.execPktPaccF32 w s
  | .pktPaccMax w => Sys2Proof.Machine.execPktPaccMax w s
  | .pktJz t => Sys2Proof.Machine.execPktJz t s
  | .pktJnz t => Sys2Proof.Machine.execPktJnz t s
  | .pktJmp t => Sys2Proof.Machine.execPktJmp t s
  | .pktRoutePort n d => Sys2Proof.Machine.execPktRoutePort n d s
  | .pktRouteAuto n => Sys2Proof.Machine.execPktRouteAuto n s
  | .pktRoutePop n => Sys2Proof.Machine.execPktRoutePop n s
  | .pktClone n m => Sys2Proof.Machine.execPktClone n m s
  | .pktDlvrCtr => Sys2Proof.Machine.execPktDlvrCtr s
  | .pktDlvrHnd => Sys2Proof.Machine.execPktDlvrHnd s
  | .pktDlvrNode => Sys2Proof.Machine.execPktDlvrNode s
  | .pktDlvrGraph => Sys2Proof.Machine.execPktDlvrGraph s
  | .pktPark n => Sys2Proof.Machine.execPktPark n s
  | .pktDrop => Sys2Proof.Machine.execPktDrop s
  | .resultVisible => Sys2Proof.Machine.execResultVisible s
  | .normScoreboardClear => Sys2Proof.Machine.execNormScoreboardClear s
  | .segmentClose => Sys2Proof.Machine.execSegmentClose s
  | .segmentLimitClose => Sys2Proof.Machine.execSegmentLimitClose s
  | .waitSatisfied => Sys2Proof.Machine.execWaitSatisfied s
  | .loadDataArrival => Sys2Proof.Machine.execLoadDataArrival s
  | .queueSwitch => Sys2Proof.Machine.execQueueSwitch s
  | .timeSliceSwitch => Sys2Proof.Machine.execTimeSliceSwitch s
  | .forcedDeparture => Sys2Proof.Machine.execForcedDeparture s
  | .transientError => Sys2Proof.Machine.execTransientError s
  | .handlerEntry => Sys2Proof.Machine.execHandlerEntry s
  | .urgentPreemption => Sys2Proof.Machine.execUrgentPreemption s
  | .ordinaryPreemption => Sys2Proof.Machine.execOrdinaryPreemption s
  | .bankDrowsy => Sys2Proof.Machine.execBankDrowsy s
  | .fetchBlockArrive => Sys2Proof.Machine.execFetchBlockArrive s
  | .matrixCmdStart => Sys2Proof.Machine.execMatrixCmdStart s
  | .matrixCmdComplete => Sys2Proof.Machine.execMatrixCmdComplete s
  | .tileClaimEvict => Sys2Proof.Machine.execTileClaimEvict s
  | .lazySaveDone => Sys2Proof.Machine.execLazySaveDone s
  | .lazyRestoreDone => Sys2Proof.Machine.execLazyRestoreDone s
  | .matrixEngineFailure => Sys2Proof.Machine.execMatrixEngineFailure s
  | .machineCheck => Sys2Proof.Machine.execMachineCheck s
  | .baraAccept => Sys2Proof.Machine.execBaraAccept s
  | .graphAdmit => Sys2Proof.Machine.execGraphAdmit s
  | .nodeDecrement => Sys2Proof.Machine.execNodeDecrement s
  | .phaseOpen => Sys2Proof.Machine.execPhaseOpen s
  | .launchReady => Sys2Proof.Machine.execLaunchReady s
  | .launchExpand => Sys2Proof.Machine.execLaunchExpand s
  | .launchAge => Sys2Proof.Machine.execLaunchAge s
  | .taskDispatch => Sys2Proof.Machine.execTaskDispatch s
  | .taskSteal => Sys2Proof.Machine.execTaskSteal s
  | .urgentDispatch => Sys2Proof.Machine.execUrgentDispatch s
  | .coreUnbind => Sys2Proof.Machine.execCoreUnbind s
  | .nodeComplete => Sys2Proof.Machine.execNodeComplete s
  | .copyAccept => Sys2Proof.Machine.execCopyAccept s
  | .copyNodeStart => Sys2Proof.Machine.execCopyNodeStart s
  | .copyComplete => Sys2Proof.Machine.execCopyComplete s
  | .copymMmaEnqueue => Sys2Proof.Machine.execCopymMmaEnqueue s
  | .handleFree => Sys2Proof.Machine.execHandleFree s
  | .pageWalk => Sys2Proof.Machine.execPageWalk s
  | .tlbinvPage => Sys2Proof.Machine.execTlbinvPage s
  | .tlbinvAsid => Sys2Proof.Machine.execTlbinvAsid s
  | .tlbinvAll => Sys2Proof.Machine.execTlbinvAll s
  | .resolveRetry => Sys2Proof.Machine.execResolveRetry s
  | .resolveFail => Sys2Proof.Machine.execResolveFail s
  | .registerWrite => Sys2Proof.Machine.execRegisterWrite s
  | .traceSinkWrite => Sys2Proof.Machine.execTraceSinkWrite s
  | .traceStall => Sys2Proof.Machine.execTraceStall s
  | .mxsum => Sys2Proof.Machine.execMxsum s
  | .timeStep => Sys2Proof.Machine.execTimeStep s
  | .debugBreakpoint => Sys2Proof.Machine.execDebugBreakpoint s
  | .patrolScrub => Sys2Proof.Machine.execPatrolScrub s
  | .admitJob => Sys2Proof.Machine.execAdmitJob s
  | .closejob => Sys2Proof.Machine.execClosejob s
  | .killjob => Sys2Proof.Machine.execKilljob s
  | .jobstat => Sys2Proof.Machine.execJobstat s
  | .tenantCreate => Sys2Proof.Machine.execTenantCreate s
  | .tenantDestroy => Sys2Proof.Machine.execTenantDestroy s
  | .keygen => Sys2Proof.Machine.execKeygen s
  | .keyzero => Sys2Proof.Machine.execKeyzero s
  | .counter => Sys2Proof.Machine.execCounter s
  | .fwconfirm => Sys2Proof.Machine.execFwconfirm s
  | .migquiesce => Sys2Proof.Machine.execMigquiesce s
  | .migsend => Sys2Proof.Machine.execMigsend s
  | .migrecv => Sys2Proof.Machine.execMigrecv s
  | .migresume => Sys2Proof.Machine.execMigresume s
  | .sqSubmitGraph => Sys2Proof.Machine.execSqSubmitGraph s
  | .sqClosePhase => Sys2Proof.Machine.execSqClosePhase s
  | .sqCloseJob => Sys2Proof.Machine.execSqCloseJob s
  | .featctlCommit => Sys2Proof.Machine.execFeatctlCommit s
  | .bar2Access => Sys2Proof.Machine.execBar2Access s
  | .keySet => Sys2Proof.Machine.execKeySet s
  | .keyZero => Sys2Proof.Machine.execKeyZero s
  | .lockInterface => Sys2Proof.Machine.execLockInterface s
  | .getMeasurements => Sys2Proof.Machine.execGetMeasurements s
  | .tdiLeaveRun => Sys2Proof.Machine.execTdiLeaveRun s
  | .linkDown => Sys2Proof.Machine.execLinkDown s
  | .linkdownStopConfJobs => Sys2Proof.Machine.execLinkdownStopConfJobs s
  | .linkdownZeroise => Sys2Proof.Machine.execLinkdownZeroise s
  | .busMasterEnable => Sys2Proof.Machine.execBusMasterEnable s
  | .firmwareUpdate => Sys2Proof.Machine.execFirmwareUpdate s
  | .firmwareCommit => Sys2Proof.Machine.execFirmwareCommit s
  | .packageReset => Sys2Proof.Machine.execPackageReset s
  | .firmwareHealthy => Sys2Proof.Machine.execFirmwareHealthy s
  | .watchdogExpire => Sys2Proof.Machine.execWatchdogExpire s
  | .powerLimitSet => Sys2Proof.Machine.execPowerLimitSet s
  | .clockStep => Sys2Proof.Machine.execClockStep s
  | .thermalTrip => Sys2Proof.Machine.execThermalTrip s
  | .fatalDump => Sys2Proof.Machine.execFatalDump s
  | .dumpMarkerArrive => Sys2Proof.Machine.execDumpMarkerArrive s
  | .packetArrival => Sys2Proof.Machine.execPacketArrival s
  | .packetInject => Sys2Proof.Machine.execPacketInject s
  | .packetTimeout => Sys2Proof.Machine.execPacketTimeout s
  | .remoteRequestArrive => Sys2Proof.Machine.execRemoteRequestArrive s
  | .remoteResponseArrive => Sys2Proof.Machine.execRemoteResponseArrive s
  | .remoteDiscard => Sys2Proof.Machine.execRemoteDiscard s
  | .linkFlitRetry => Sys2Proof.Machine.execLinkFlitRetry s
  | .collAccept => Sys2Proof.Machine.execCollAccept s
  | .bucketComplete => Sys2Proof.Machine.execBucketComplete s
  | .collAbortArrive => Sys2Proof.Machine.execCollAbortArrive s
  | .cwgtApply => Sys2Proof.Machine.execCwgtApply s
  | .coreStorePerformed => Sys2Proof.Machine.execCoreStorePerformed s
  | .sealedHeaderVerified => Sys2Proof.Machine.execSealedHeaderVerified s
  | .torusLinkTrained => Sys2Proof.Machine.execTorusLinkTrained s
  | .torusLinkDown => Sys2Proof.Machine.execTorusLinkDown s
  | .hostLinkUp => Sys2Proof.Machine.execHostLinkUp s
  | .spdmSecuredSession => Sys2Proof.Machine.execSpdmSecuredSession s
  | .ideStreamProgram => Sys2Proof.Machine.execIdeStreamProgram s
  | .tdiEnterRun => Sys2Proof.Machine.execTdiEnterRun s
  | .packetUnitDone => Sys2Proof.Machine.execPacketUnitDone s
  | .collChunkArrive => Sys2Proof.Machine.execCollChunkArrive s

end Sys2Proof.Machine
end

