-- ==== Sys2Proof/Machine/Issue.lean ====
section
/-! DEFINITION. Issue of a bundle, and a core's turn: the port, gaps, waits, stops, commit and closes (R50, R51, R58, R72, R91, R97 to
R105, R162, R207, R212 to R214). -/

namespace Sys2Proof.Machine

/-- Goes on from a next state; a fault or a refusal stands. -/
def andThen (o : Out) (f : State → Out) : Out :=
  match o with
  | .next s => f s
  | .fault x => .fault x
  | .refused x => .refused x

/-- The trap that an operation takes on the state before its bundle. -/
def State.stopOf (s : State) (i : Instr) : Option Trap :=
  match exec i s with
  | .next t => t.cur.stop
  | _ => none

/-- The lowest poisoned operand that an operation reads behind a trap of a lower cause (R220). -/
def State.poisonOf (s : State) (i : Instr) : Option Word :=
  match exec i s with
  | .next t => t.cur.poisonV
  | _ => none

/-- The channels whose entries give an operation the address of its access. -/
def addrPops (i : Instr) : List Bool :=
  let pop (l : List Sel) : List Bool := l.filterMap fun x => match x with | .queue q => some q | _ => none
  match instrCode i with
  | .ri .l _ op => pop [op.xa]
  | .r .l _ op => pop [op.xa, op.xb]
  | .r .t o op => pop (if o.toNat < 0x10 then [op.xa, op.xb] else [op.xa])
  | _ => []

/-! Segments (R51, R102 to R104). -/

/-- A bundle with SB = 1, a lone bundle and a segment entry open a segment when they issue (R51, R102 to R104); a bundle that a stop has
partly committed has opened its own already. -/
def Ctx.openAt (c : Ctx) (sb : Bool) : Ctx :=
  if !(sb || c.entry || !c.segOpen) || (c.mask != 0 && c.segOpen && c.csr.segpc == c.pc) then c
  else { c.checkpoint with csr := { c.csr with segpc := c.pc }, segOpen := true, segN := 0, segForced := c.entry }

/-- A bundle that stops before it issues stands at the entry of a segment of its own only where none is open, so that a restart begins
with it (log entry 28). -/
def Ctx.openStop (c : Ctx) : Ctx := if c.segOpen then c else c.openAt true

/-- A lone bundle closes its segment itself (R103). -/
def Ctx.isLone (c : Ctx) (sb : Bool) : Bool := c.segN == 0 && !sb && !c.segForced

/-- Operations that close their segment by their encoding: waits and irrevocable operations (R51). -/
def closesSegment (i : Instr) : Bool :=
  match i with
  | .waith _ | .waitc _ | .barw _ | .rdv _ => true
  | .aadd _ | .afadd _ | .amin _ | .amax _ | .axch _ | .acas _ | .aand _ | .aor _ | .axor _ => true
  | .tmrk _ | .pksnd _ | .pkprkCopy _ | .pkprkTake _ | .pkprkRetry _ | .pkprkDrop _ => true
  | .rld _ | .rst _ | .faa _ | .ffn _ => true
  | _ => false

/-! Stops (R72, R212). -/

/-- The traps of a bundle's operations, by part, on the state before it; with the pops of a channel that has nothing pending (R95), whose
operation has no value to check: beside that pop stand an empty latch and the watchpoint of an access whose address it does not give (R212).
An operation that waits for its entry's data has nothing to check yet. -/
def State.bundleStops (s : State) (ops : List (SlotId × Instr)) : List Trap :=
  ops.filterMap fun (sl, i) =>
    let c := s.ctx
    let waits := !(c.mask.getLsbD 8) && (opPops i).any fun q => (c.chan q).awaits
    let dry := (opPops i).find? fun q => (s.cur.head q).isNone
    match s.stopOf i with
    | some t => if waits then none
        else match dry with
          | some q => lowerTrap (if t.cause = 0x04 || (t.cause == 0x03 && !((addrPops i).any fun q => (s.cur.head q).isNone)) then some t else none) (some ⟨sl.part, 0x05, 0x01, BitVec.ofNat 64 (chanNum q)⟩)
          | none => some t
    | none => dry.map fun q => ⟨sl.part, 0x05, 0x01, BitVec.ofNat 64 (chanNum q)⟩

/-- Subcode of a poison trap by the kind of its operand: a register, a queue entry, or a tile or slot (R220). -/
def poisonSub (v : Word) : Nat :=
  let k := v.toNat % 16
  if k ≤ 3 then 0x01 else if k = 4 then 0x02 else 0x03

/-- The trap that is reported: an ILL of the lowest part first, then the trap of the lowest part; a poison trap names the lowest kind and
number that the bundle reads, those operands included that stand behind a lower cause of a later part (R220). -/
def pickStop (l : List Trap) (hidden : List Word) : Option Trap :=
  match l.find? fun t => t.cause == 1 with
  | some t => some t
  | none =>
    match l with
    | [] => none
    | t :: _ =>
      if t.cause ≠ 0x0C then some t
      else
        let all := (l.filter fun x => x.cause == 0x0C) ++ hidden.map fun v => ⟨t.part, 0x0C, poisonSub v, v⟩
        let best := all.foldl (fun (a x : Trap) => if x.key < a.key then x else a) t
        some { t with sub := best.sub, val := best.val }

/-- A trap joins those of its bundle in their part's place; within a part the lowest cause stays (R212). -/
def joinStop (t : Trap) (l : List Trap) : List Trap :=
  if l.any fun x => x.part == t.part then l.map fun x => if x.part = t.part ∧ t.cause < x.cause then t else x
  else (l.filter fun x => decide (x.part < t.part)) ++ t :: l.filter fun x => decide (t.part < x.part)

/-- DONE of a stop: BRK marks the Y slot alone (R135, R213). -/
def doneOf (t : Trap) : BitVec 9 := if t.cause = 3 ∧ t.sub = 1 then 0x080 else 0

/-! Waits before issue (R91, R95, R98, R132, R195, R197, R207). -/

/-- The operations of a bundle bring back the SAVED tiles that they read (R195), and register the tile that they wait to claim. -/
def State.askTiles (s : State) (ops : List Instr) (claim : Bool) : State :=
  let s := ops.foldl (fun s i => match i with
    | .trow op => s.wantTile (selNum op.xa)
    | .tcol op => s.wantTile (selNum op.xa)
    | _ => s) s
  if claim then s.updCtx fun c => { c with claim := true } else s

/-- A bundle waits a cycle, and asks for the walks of the pages that it misses.  DESIGN CHOICE (log entry 163): a cycle in which it waits at
once on a pop, an ordering hold or a miss and on the norm scoreboard or a tile adds nothing to the count, since R91 gives both and no
order between them. -/
def State.waitCycle (s : State) (core ctx : Nat) (ops : List Instr) (w : Waits) : State :=
  let t := (s.ctxAt core ctx).tk.tenant
  let s := s.askWalks true (if w.miss then ops.flatMap s.missing else [])
  let s := if w.stall then
      let s := s.updCtxAt core ctx fun c => { c with stallN := c.stallN + 1 }
      if w.pop || w.hold then s.count t (dieOf core) 0x02 1 else s
    else
      (s.updCtxAt core ctx fun c => { c with stallN := 0 }).askTiles ops w.claim
  if w.counted && !w.stall then s.countCycle core ctx else s.cycle core

/-- Two operations of the bundle push to q1, which has one space (R95). -/
def State.pairFull (s : State) (ops : List Instr) : Bool :=
  s.ctx.q1.ents.length == 31 && decide (2 ≤ (ops.filter fun i => opPush i == some true).length)

/-! Commit. -/

/-- Whether the load of the L slot reads the scratchpad in the bundle that stores to it (R173, R303). -/
def spPair (b : Bundle) : Bool :=
  let sp (i : Option Instr) : Bool := match i with
    | some i => match instrCode i with
      | .r _ _ op => mdSpace op.md == .sp
      | .ri _ _ op => mdSpace op.md == .sp
      | _ => false
    | none => false
  sp b.l && sp b.t && !((b.t.map closesSegment).getD false)

/-- The ordering operations, whose hold has ended when their bundle issues (R131). -/
def isOrdering : Instr → Bool
  | .acq _ | .rel _ | .fence _ | .fencex _ => true
  | _ => false

/-- The order in which the operations take effect: an ordering operation first, since the bundle's memory slots belong to the region
after it (R245); then part order, with the T slot before the L slot when both use the scratchpad, whose load then returns old or new
bytes. -/
def commitOrder (b : Bundle) (all : List (SlotId × Instr)) : List (SlotId × Instr) :=
  let ops := all.filter fun x => !(isOrdering x.2)
  (all.filter fun x => isOrdering x.2) ++
  if spPair b then
    (ops.filter fun x => x.1.part < partL) ++ (ops.filter fun x => x.1.part == partT) ++ (ops.filter fun x => x.1.part == partL) ++
      ops.filter fun x => partT < x.1.part
  else ops

/-- The operations in turn. -/
def execAll : List (SlotId × Instr) → State → Out
  | [], s => .next s
  | (_, i) :: t, s => andThen (exec i s) fun s => execAll t s

/-- The conversion flags of the entries that a bundle pops become visible in the cycle of the pop, as events of the bundles that loaded them,
and after them those of T operations that become visible in the same cycle (R108, R187); a snapshot in the bundle holds them (R138). -/
def State.popFlags (s : State) (ops : List Instr) : State :=
  let s := if s.ctx.mask.getLsbD 8 then s
    else
      let two := (popsOf ops).filterMap s.cur.head
      let two := match two with | [a, b] => if flagCode b.fl < flagCode a.fl then [b, a] else two | _ => two
      two.foldl (fun s e => s.updCtx fun c => c.flagEvent 4 e.fl e.addr) s
  s.updCtx fun c => c.flagLate s.core.cycle

/-- The pops are taken: the positions move on. -/
def State.takePops (s : State) (ops : List Instr) : State :=
  if s.ctx.mask.getLsbD 8 then s
  else (popsOf ops).foldl (fun s q => s.updCtx fun c => c.setChan q { c.chan q with popped := (c.chan q).popped + 1 }) s

/-- Bytes of the lane slices, A's before B's (R162). -/
def State.putSlices (s : State) : State :=
  s.cur.lsW.foldl (fun s (x : Nat × Byte) => s.putBytes x.1 [x.2]) s

/-- The context after its bundle: one more counted, the next bundle, and whether its segment is to close (R51, R91, R103, R118). -/
def State.bundleDone (s : State) (core ctx : Nat) (b : Bundle) (lone : Bool) : State :=
  let next := s.cur.next
  let s := s.updCtxAt core ctx fun c0 => let c := c0.advance 1; { c with
    segN := c.segN + 1, entry := false, csr := { c.csr with done := if c.copied then c.csr.done else 0 }
    dbgSkip := if c.skips then none else c.dbgSkip, bankN := 0, stallN := 0, pc := next
    kept0 := none, kept1 := none, closing := b.se || lone || b.ops.any closesSegment }
  let c := s.ctxAt core ctx
  let big := decide (256 ≤ c.segN) && !c.closing
  let sb := match s.bundleAt core ctx next with
    | some w => w.getLsbD 3 && (s.nextBundle core ctx).isSome
    | none => false
  let s := if big || sb then s.updCtxAt core ctx fun c => { c with closing := true, entry := c.entry || big } else s
  let s := (s.count c.tk.tenant (dieOf core) 0x00 1).cycle core
  s.updCore core fun k => { k with gap := b.gap.toNat }

/-- A bundle whose operations have taken effect: pops, slices, the count, and a software trap at the boundary after it (R123). -/
def State.commit (s : State) (core ctx : Nat) (b : Bundle) (ops : List Instr) (lone : Bool) : State :=
  let s := (s.takePops ops).putSlices
  if (s.ctxAt core ctx).stat ≠ .issuing then s
  else
    let sw := s.cur.swTrap
    let s := s.bundleDone core ctx b lone
    match sw with
    | some v => s.stopAt core ctx ⟨partS, 0x02, 0, v⟩ 0
    | none => s

/-- A precise stop of a bundle that has not issued. -/
def State.stopBefore (s : State) (core ctx : Nat) (t : Trap) (done : BitVec 9) : State :=
  (s.updCtxAt core ctx Ctx.openStop).stopAt core ctx t done

/-- Before a bundle accesses the scratchpad, in the cycle that R173 fixes, what stands before it in its queue is performed (R304): the stores of the
T queue, unless a target has still to acknowledge one, and the loads of the channel. -/
def State.queueFirst (s : State) (core ctx : Nat) (is : List Instr) : State :=
  is.foldl (fun s i =>
    let s := if s.spStore i && !(s.apWaits core ctx) then s.flushStores core ctx else s
    match s.spLoadOf i with
    | some q => (s.arriveAll core ctx (if q then 1 else 0)).atBundle core ctx s.cur.scope is
    | none => s) s

/-- A legal bundle of the context that holds the port: it waits, stops or issues.  A bundle that waits has not issued, and opens no segment
(R222). -/
def State.issueBundle (s : State) (core ctx : Nat) (b : Bundle) : Out :=
  let ops := undoneOps b (s.ctxAt core ctx).mask
  let is := ops.map Prod.snd
  let s := (s.atBundle core ctx b.scope.toNat is).queueFirst core ctx is
  if (s.ctxAt core ctx).stat != .issuing then .next s else
  let stops := s.bundleStops ops
  let w := s.waitsOf is
  let pair := s.pairFull is
  let w := if pair && s.ctx.q1.popped != 31 then { w with full := true } else w
  let stops := if pair && s.ctx.q1.popped == 31 then joinStop ⟨partT, 0x05, 0x02, 1⟩ stops else stops
  match stops.find? fun t => t.cause == 1 with
  | some t => .next (s.stopBefore core ctx t 0)
  | none =>
    if w.any then .next (s.waitCycle core ctx is w)
    else
      match pickStop stops (is.filterMap s.poisonOf) with
      | some t => .next (s.stopBefore core ctx t (doneOf t))
      | none =>
        if (s.ctxAt core ctx).bankN < s.bankWait is then
          .next ((s.updCtxAt core ctx fun c => { c with bankN := c.bankN + 1 }).countCycle core ctx)
        else
          let s := s.updCtx fun c => c.openAt b.sb
          let lone := s.ctx.isLone b.sb
          let s := s.popFlags is
          let s := if spPair b then s.updCur fun c => { c with before := some s.mem } else s
          andThen (execAll (commitOrder b ops) s) fun s => .next (s.commit core ctx b is lone)

/-- An ILL that a register's value gives (R444) in a part below one that does not decode: the first offending part is reported (R73). -/
def State.valueIll (s : State) (core ctx : Nat) (all : List (SlotId × Instr)) : Option Trap :=
  let ops := all.filter fun x => !((s.ctxAt core ctx).mask.getLsbD (x.1.part - 1))
  let s := s.atBundle core ctx 0 (ops.map Prod.snd)
  (s.bundleStops ops).find? fun t => t.cause == 0x01

/-- The context that holds the port at its next bundle: a fetch that waits, a breakpoint, a bundle that does not decode, or a bundle. -/
def State.issue (s : State) (core ctx : Nat) : Out :=
  let c := s.ctxAt core ctx
  let f := s.focus core ctx
  if !c.skips && s.breakHit core ctx then exec .debugBreakpoint f
  else
    match s.bundleAt core ctx c.pc with
    | none => exec .fetchBlockArrive f
    | some w =>
      match decodeBundle c.attr w with
      | .ill p r =>
        let own : Trap := ⟨p, 0x01, r, BitVec.ofNat 64 (c.pc.toNat / 64 * 64 + p)⟩
        .next (s.stopBefore core ctx ((s.valueIll core ctx (opsBelow c.attr w p)).getD own) 0)
      | .bundle b =>
        if b.sb && c.segOpen && c.segN != 0 && c.mask == 0 then exec .segmentClose (f.updCtx fun c => { c with closing := true })
        else s.issueBundle core ctx b

/-! A core's turn (R97 to R100). -/

/-- A context takes the port; a rewind that it owes comes first (R98). -/
def State.takePort (s : State) (core ctx : Nat) : State :=
  let s := s.updCore core fun k => { k with port := some ctx, gap := 0 }
  let s := s.updCtxAt core ctx fun c => { c with stat := .issuing, sliceN := 0, stallN := 0 }
  match (s.ctxAt core ctx).rewindNext with
  | some r => (s.rewindCtx core ctx r).updCtxAt core ctx fun c => { c with rewindNext := none }
  | none => s

/-- The context that the selector chooses for an idle port. -/
def Core.choose (k : Core) : Option Nat :=
  if (k.ctxAt 4).stat == .ready then some 4
  else
    ((List.range 4).filter fun i => (k.ctxAt i).stat == .ready).foldl (fun (b : Option Nat) i =>
      match b with
      | none => some i
      | some j => if (k.ctxAt i).readyAt < (k.ctxAt j).readyAt then some i else some j) none

/-- What the matrix engine and the tile moves of a core do next in its present cycle (R194, R197; log entry 202): with the event, the context it is for. -/
def State.engineDue (s : State) (core : Nat) : Option (Instr × Nat) :=
  let k := s.coreAt core
  if k.mq.isEmpty && k.tiles.isEmpty then none
  else if k.dueCmd.isSome then some (.matrixCmdComplete, 0)
  else if (k.dueMove Tile.saving).isSome then some (.lazySaveDone, 0)
  else if (k.dueMove Tile.restoring).isSome then some (.lazyRestoreDone, 0)
  else
    match (List.range 5).find? fun i => (k.evict i).tiles != k.tiles with
    | some i => some (.tileClaimEvict, i)
    | none =>
      let t := (s.startCmd core).coreAt core
      if t.mq != k.mq || t.tiles != k.tiles then some (.matrixCmdStart, 0) else none

/-- The first state change that is due before the port acts: what the matrix engine and the tile moves do in this cycle, a satisfied wait, a queue stall that is over, a pre-emption of a WAITING
context, contexts that CORESTOP froze, the request for partition X. -/
def State.coreDue (s : State) (core : Nat) : Option Out :=
  let k := s.coreAt core
  let at1 (i : Nat) : State := s.focus core i
  match s.engineDue core with
  | some (e, i) => some (exec e (at1 i))
  | none =>
  match (List.range 5).find? fun i =>
      (k.ctxAt i).stat == .waiting && ((k.ctxAt i).waitOp.map fun w => s.waitHolds core i w).getD false with
  | some i => some (exec .waitSatisfied (at1 i))
  | none =>
    match (List.range 5).find? fun i => (k.ctxAt i).stat == .qstall && s.stallOver core i with
    | some i => some (.next (s.makeReady core i))
    | none =>
      match (List.range 5).find? fun i => (k.ctxAt i).stat == .waiting && (k.ctxAt i).preempt with
      | some i => some (exec .ordinaryPreemption (at1 i))
      | none =>
        if ((List.range 4).any fun i => (k.ctxAt i).freeze == .corestop && (k.ctxAt i).stat == .frozen) &&
            !((List.range 5).any fun i => (k.ctxAt i).debugStopped) then some (.next (s.coreRelease core))
        else
          match k.xrole, k.xqueue with
          | .none, .urgent l :: _ => if !k.zeroing && !(s.closeFirst core) && (s.urgentInfo core l).isSome then some (exec .urgentPreemption (at1 4)) else none
          | .none, _ :: _ => some (exec .handlerEntry (at1 4))
          | _, _ => none

/-- The holder of the port: a close, unless it only waits for room while partition X is READY or until its time is up (R98, R99, R219); a gap
cycle; a switch; the cycles in which its banks still wake, which nothing counts (R248); or a bundle. -/
def State.holderTurn (s : State) (core h : Nat) : Out :=
  let k := s.coreAt core
  let c := k.ctxAt h
  let f := s.focus core h
  let x := (k.ctxAt 4).stat == .ready && h != 4
  if c.closing && !x && s.departDue core h then exec .forcedDeparture f
  else if c.closing && (!x || c.feeding || s.closeRoom core h) then exec .segmentClose f
  else if k.gap ≠ 0 then
    .next ((s.updCore core fun k => { k with gap := k.gap - 1 }).countCycle core h)
  else if x then
    .next ((((s.giveUp core h).makeReady core h)).takePort core 4)
  else if c.segOpen && decide (256 ≤ c.segN) then exec .segmentLimitClose f
  else if s.switchDue core h then exec .queueSwitch f
  else if s.departDue core h then exec .forcedDeparture f
  else if c.wakeN ≠ 0 then .next (s.cycle core)
  else s.issue core h

/-- One turn of a core.  While its source stalls it issues, switches and rewinds nothing (R337); the gap that a context has left behind runs
on before another takes the port (R50). -/
def State.coreTurn (s : State) (core : Nat) : Out :=
  match s.coreDue core with
  | some o => o
  | none =>
    if s.stalled (srcCore core) then
      let f := s.focus core 0
      exec .traceStall { f with cur := { f.cur with arg := [srcCore core] } }
    else
      let k := s.coreAt core
      match k.port with
      | some h => s.holderTurn core h
      | none =>
        if k.gap ≠ 0 then .next ((s.updCore core fun k => { k with gap := k.gap - 1 }).cycle core)
        else
          match k.choose with
          | some i => .next (s.takePort core i)
          | none => .next (s.cycle core)

end Sys2Proof.Machine
end

