-- ==== Sys2Proof/Machine/Schedule.lean ====
section
/-! DEFINITION. Which event comes next (log entry 5): an event of the agenda first; else a core's turn and a turn of the engines, the
fabric, the clusters and the Hearths, alternately. -/

namespace Sys2Proof.Machine

/-! The agenda. -/

/-- An event takes place at its place and with its arguments.  A DUMPED package meets only what comes from outside it (R378, R434). -/
def State.runEv (s : State) (e : Ev) : Out :=
  if s.sn.dumped.isSome && !outside e.ins then .next s
  else exec e.ins { s with cur := { Cur.reset with core := e.core, ctx := e.ctx, lane := e.lane, arg := e.arg, inp := e.inp } }

/-! Cores. -/

/-- A core's turn; every 65,536 cycles the core reports its matrix cycles (R330, R341). -/
def State.coreAuto (s : State) (core : Nat) : Out :=
  let n := (s.coreAt core).cycle
  andThen (s.coreTurn core) fun t =>
    .next (if n / 65536 < (t.coreAt core).cycle / 65536 then { t with agenda := t.agenda ++ [⟨.mxsum, core, 0, 0, [], []⟩] } else t)

/-! The Anvil (R391, R392). -/

/-- The packet of a lane leaves it and parks. -/
def State.laneFault (s : State) (l : Nat) (code : Nat) (p : Packet) : State :=
  s.holdLane l ((s.updFab fun f => { f with lanes := tset f.lanes l { f.lane l with pkt := none, steps := 0 } }).park code 0 p)

/-- A lane takes its next packet, four router cycles after its arrival, or runs one instruction of the packet that it holds, one router
cycle each; one whose packet the router holds stands still (R337). -/
def State.laneTurn (s0 : State) (l : Nat) : Out :=
  let x := s0.fab.lane l
  let s : State := s0.updFab fun f => { f with clock := f.clock + if x.pkt.isNone then 32 else 8 }
  if s.laneHeld l then .next s
  else
  match x.pkt with
  | none => .next (s.laneStart l)
  | some p =>
    if 16 ≤ x.steps then .next (s.laneFault l pfSteps p)
    else if p.nprog ≤ p.pc then .next (s.laneFault l pfIllOp p)
    else
      match decodePacket (p.prog.getD p.pc 0).toNat with
      | none => .next (s.laneFault l pfIllOp p)
      | some i => exec i { s with cur := { Cur.reset with lane := l } }

/-! What else may happen. -/

/-- Work that stands ready outside the issue ports. -/
inductive Duty where
  | ev (e : Ev)
  | lane (l : Nat)
  | leave (i : Nat)
  | take
  | start (slot : Nat)
  | hearth (d : Nat)
  deriving DecidableEq, Repr

def dutyAt (i : Instr) (core ctx : Nat) (arg : List Nat) : Duty := .ev ⟨i, core, ctx, 0, arg, []⟩

def Fabric.duties (f : Fabric) : List Duty :=
  ((List.range 8).filter fun l => (f.lane l).pkt.isSome || !(f.lane l).queue.isEmpty).map Duty.lane ++
  (List.range f.leaving.length).map Duty.leave ++
  (if f.remq.isEmpty then [] else [.take]) ++
  (f.remote.filter fun o => o.stage == .waiting && !o.stuck).map (fun o => Duty.start o.slot) ++
  f.pktq.map (fun i => dutyAt (if i.cmd.kind = .pksnd then .packetInject else .packetUnitDone) i.core i.ctx []) ++
  f.unsent.map (fun u => dutyAt .packetInject u.inp.core u.inp.ctx []) ++
  (if f.collq.isEmpty then [] else [dutyAt .collAccept 0 0 []]) ++
  (if f.newWeights.isSome then [dutyAt .cwgtApply 0 0 []] else []) ++
  f.colls.flatMap fun c => (List.range c.buckets).map fun b => dutyAt .bucketComplete 0 0 [c.job, c.cnum, b]

def Ctx.duties (core i : Nat) (c : Ctx) (due : Bool) : List Duty :=
  (if c.q0.ents.isEmpty then [] else [dutyAt .loadDataArrival core i [0]]) ++
  (if c.q1.ents.isEmpty then [] else [dutyAt .loadDataArrival core i [1]]) ++
  (if c.pend.isEmpty then [] else [dutyAt .resultVisible core i []]) ++
  (if due && c.stat == .frozen && decide (256 ≤ c.frozenN) && c.drowsy != 0xFF#8 then [dutyAt .bankDrowsy core i []] else [])

def Core.duties (core : Nat) (k : Core) : List Duty :=
  k.ctxs.flatMap (fun (y : Nat × Ctx) => y.2.duties core y.1 !(k.copyDue y.1)) ++
  (if k.stq.isEmpty then [] else (List.range 5).map fun i => dutyAt .coreStorePerformed core i [0]) ++
  (if k.mmaWait.isEmpty then [] else [dutyAt .copymMmaEnqueue core 0 []]) ++
  ((k.handles.filter fun (y : Nat × Handle) => y.2.st == .draining).map fun (y : Nat × Handle) => dutyAt .handleFree core 0 [y.1]) ++
  (if k.bound.isSome || k.zeroing then [dutyAt .coreUnbind core 0 []] else [])

def Cluster.duties (cl : Nat) (k : Cluster) : List Duty :=
  (if k.intake.isEmpty then [] else [dutyAt .copyAccept 0 0 [cl]]) ++
  ((k.copies.filter fun c => !c.stuck).map fun c => dutyAt .copyComplete 0 0 [cl, c.slot]) ++
  (if k.ready.isEmpty then []
   else dutyAt .taskDispatch 0 0 [cl] :: ((List.range 8).filter fun i => 8 * (cl / 8) + i != cl).map fun i => dutyAt .taskSteal 0 0 [8 * (cl / 8) + i])

def Node.duties (d n : Nat) (x : Node) : List Duty :=
  match x.kind with
  | .gate => if x.st == .ready then [dutyAt .nodeComplete 0 0 [d, n]] else []
  | .copy => if x.st == .ready then [dutyAt .copyNodeStart 0 0 [d, n]] else if x.dying then [dutyAt .nodeComplete 0 0 [d, n]] else []
  | .launch =>
    if x.st == .waiting || x.st == .deferred || x.st.complete then []
    else if x.lrec.isNone then [dutyAt .launchReady 0 0 [d, n]]
    else [dutyAt .sealedHeaderVerified 0 0 [d, n], dutyAt .launchAge 0 0 [d, n], dutyAt .urgentDispatch 0 0 [d, n], dutyAt .nodeComplete 0 0 [d, n]]

def Die.duties (d : Nat) (x : Die) : List Duty :=
  (if x.intake.isEmpty then [] else [.hearth d]) ++
  ((x.walks.take 32).flatMap fun w => (w.who.take 1).map fun y => dutyAt .pageWalk y.1 y.2 [w.va, if w.wr then 1 else 0]) ++
  (if x.waiting.isEmpty then [] else [dutyAt .graphAdmit 0 0 [d]]) ++
  (if x.nodes.isEmpty then [] else [dutyAt .launchExpand 0 0 [d]]) ++
  x.nodes.flatMap fun (y : Nat × Node) => y.2.duties d y.1

def State.duties (s : State) : List Duty :=
  s.fab.duties ++
  s.cores.flatMap (fun (y : Nat × Core) => y.2.duties y.1) ++
  s.clusters.flatMap (fun (y : Nat × Cluster) => y.2.duties y.1) ++
  s.dies.flatMap (fun (y : Nat × Die) => y.2.duties y.1) ++
  ((s.jobs.filter fun (y : Nat × Job) => y.2.phaseDone).map fun (y : Nat × Job) => dutyAt .phaseOpen 0 0 [y.1]) ++
  ((s.sinks.filter fun (y : Nat × List SinkRec) => !y.2.isEmpty).map fun (y : Nat × List SinkRec) => dutyAt .traceSinkWrite 0 0 [y.1]) ++
  ((s.trace.filter fun (y : Nat × TraceSrc) => !y.2.waiting.isEmpty && !isCoreSrc y.1).map fun (y : Nat × TraceSrc) => dutyAt .traceStall 0 0 [y.1])

def State.runDuty (s : State) : Duty → Out
  | .ev e => s.runEv e
  | .lane l => s.laneTurn l
  | .leave i => .next (s.packetLeave i)
  | .take => .next s.remoteTake
  | .start slot => .next (s.remoteStart slot)
  | .hearth d => .next (s.hearthStep d)

/-! The turn. -/

/-- With an empty agenda: on even turns a core in rotation, on odd turns a duty in rotation; nothing in a DUMPED package. -/
def State.autoTurn (s : State) : Out :=
  let n := s.turn / 2
  let t : State := { s with turn := s.turn + 1 }
  if s.sn.dumped.isSome then .next t
  else if s.turn % 2 = 0 then
    match t.cores[n % t.cores.length]? with
    | some y => t.coreAuto y.1
    | none => .next (t.updFab fun f => { f with clock := f.clock + 4 })
  else
    match t.duties[n % t.duties.length]? with
    | some d => t.runDuty d
    | none => .next t

/-- One step of the machine. -/
def State.run1 (s : State) : Out :=
  match s.agenda with
  | e :: rest => State.runEv { s with agenda := rest } e
  | [] => s.autoTurn

/-! Placing one instruction. -/

/-- A package with nothing to do but the instruction that is placed. -/
def State.quiet (s : State) (turn : Nat) : State := { s with agenda := [], turn := turn, sn := { s.sn with dumped := none } }

/-- A packet whose program is one instruction, in lane 0, under a job-table entry that permits every group. -/
def State.placePacket (s : State) (w : BitVec 16) : State :=
  let p : Packet := { Packet.zero with nprog := 1, prog := [w] }
  (s.quiet 1).updFab fun f => { f with
    jobs := tset f.jobs 0 ⟨0, BitVec.allOnes 32, 0, 0, 0⟩
    lanes := tset f.lanes 0 ⟨[], some p, 0⟩, heldLanes := [] }

/-- A bundle in the fetch buffer of core 0, at the address of its context 0, which holds the port. -/
def State.placeBundle (s : State) (w : BitVec 512) : State :=
  let k := s.coreAt 0
  let c := k.ctxAt 0
  let pc := BitVec.ofNat 64 (c.pc.toNat / 512 * 512)
  let c : Ctx := { c with stat := .issuing, task := some c.tk, pc := pc, segOpen := false, closing := false
                          dbgSkip := some pc, stallN := 0, sliceN := 0, wakeN := 0, csr := { c.csr with done := 0 } }
  let s := { s.quiet 0 with
    trace := terase s.trace (srcCore 0)
    cores := [(0, { k with ctxs := [(0, c)], port := some 0, gap := 0, xrole := .none, xqueue := [] })] }
  s.updCore 0 fun k => { k with fbuf := [⟨s.fetchAsid 0 0, c.pc.toNat, w.setWidth 4096⟩] }

/-- An instruction where the next step fetches it: 16 bits are a packet instruction, 512 a bundle; an event has no bits. -/
def State.place (s : State) (nbits w : Nat) : State :=
  if nbits = 16 then s.placePacket (BitVec.ofNat 16 w)
  else if nbits = 512 then s.placeBundle (BitVec.ofNat 512 w)
  else s

end Sys2Proof.Machine
end

