-- ==== Sys2Proof/Machine/Step.lean ====
section
/-! DEFINITION. The step of the machine (log entry 5). -/

namespace Sys2Proof.Machine

/-- One step: an event of the agenda, or the next turn of the schedule. -/
def step (s : State) : Host.Outcome State Fault Refusal := s.run1

/-- The state with an instruction where the next step fetches it. -/
def State.withFetchWord (s : State) (nbits w : Nat) : State := s.place nbits w

end Sys2Proof.Machine
end

