-- ==== Sys2Proof/Safety.lean ====
section
/-! DEFINITION. The terms in which claims speak of the machine: what a run may do, when an operand can be read, and what stays
the same. -/

namespace Sys2Proof.Machine

/-! Runs. -/

/-- States that steps lead to from a state. -/
inductive Reach (s : State) : State → Prop where
  | here : Reach s s
  | step {t u : State} : Reach s t → Sys2Proof.Machine.step t = .next u → Reach s u

/-- A safe state: the memory has its canonical form, so that equal memories are equal data. -/
def State.Ok (s : State) : Prop := Memory.wf s.mem = true

/-! Operands. -/

/-- A source of a role can be read (R56 to R58, R94, R175, R220): a register that is not poisoned, a latch entry that has been
pushed (or any, in a replay), a queue head that carries no fault, a constant. -/
def Ctx.Holds (c : Ctx) (cur : Cur) (k : SKind) : Sel → Prop
  | .reg n => c.poisoned k n.toNat = []
  | .latch slot depth => c.replay = true ∨ (c.latchAt slot.val depth.toNat).isSome = true
  | .queue q => ∀ e, cur.head q = some e → ∀ t, e.stat ≠ .faulted t
  | .const _ => True

/-- The same of the context and bundle in focus. -/
def State.Holds (s : State) (k : SKind) (x : Sel) : Prop := s.ctx.Holds s.cur k x

/-- The value of a source in a scalar role, and in a vector role. -/
def State.valS (s : State) (x : Sel) : Word := s.ctx.srcS s.cur x
def State.valV (s : State) (x : Sel) : Vec := s.ctx.srcV s.cur x
/-- An element of a source in an element role of a format: its bits, and its exact value. -/
def State.bitsE (s : State) (f : Fmt) (x : Sel) (i : Nat) : Nat := velem f.width (s.ctx.srcE s.cur f x) i
def State.valE (s : State) (f : Fmt) (x : Sel) (i : Nat) : XVal := (decodeFmt f (s.bitsE f x i)).1
/-- The predicate register that a class 00 source names. -/
def State.valP (s : State) (x : Sel) : Word := s.ctx.pGet (selNum x)

/-! Results in flight (R91, R93). -/

/-- `t` is `s` but for one result of the bundle in focus that a slot has put in flight: it becomes visible `lat` bundles on. -/
def Posts (s t : State) (part lat : Nat) (ws : List Write) (l : Option LatchVal) (fl : Flags) : Prop :=
  t = s.setCtx { s.ctx with
    pend := pendIns ⟨s.ctx.count + lat, part - 1, ws, l, fl, s.cur.addr, false⟩ s.ctx.pend }

/-- A result of the s file under a guard of bit 0 (R54, R55, R93, R109): the register unless NW, s0 or a guard of 0, and a latch
entry, zero under a guard of 0. -/
def ScalarOut (s t : State) (part lat : Nat) (g nw : Bool) (dst : BitVec 8) (x : Word) (fl : Flags) : Prop :=
  Posts s t part lat (if g = true ∧ nw = false ∧ dst ≠ 0 then [.s dst.toNat x] else [])
    (some (.scalar (if g = true then x else 0))) (if g = true then fl else 0)

/-- A result of the v file under a lane guard (R140): the active lanes unless NW, and a latch entry with zero in the others. -/
def VectorOut (s t : State) (part lat : Nat) (m : Word) (nw : Bool) (dst : BitVec 8) (x : Vec) (fl : Flags) : Prop :=
  Posts s t part lat (if nw = true then [] else [.v (s.ctx.vPhys dst.toNat) m x]) (some (.vector (mergeLanes m 0 x))) fl

/-- A result of two v registers under one lane guard, the latch entry that of the first (R165). -/
def VectorPairOut (s t : State) (part lat : Nat) (m : Word) (nw : Bool) (dst : BitVec 8) (x y : Vec) (fl : Flags) : Prop :=
  Posts s t part lat (if nw = true then [] else [.v (s.ctx.vPhys dst.toNat) m x, .v (s.ctx.vPhys (dst.toNat + 1)) m y])
    (some (.vector (mergeLanes m 0 x))) fl

/-- A directional pair under the guard on the whole register, no latch entry (R38, R44). -/
def PairOut (s t : State) (part lat : Nat) (g : Bool) (dst : BitVec 8) (q : Vec) (n : BitVec 32) (fl : Flags) : Prop :=
  if g = true then Posts s t part lat [.pair dst.toNat q n] none fl else t = s

/-- A predicate result under the guard of an S-slot operation (R109, R115, R116): all 64 bits, no latch entry; nothing under a guard
of 0, with NW, or to p0. -/
def PredicateOut (s t : State) (g nw : Bool) (dst : BitVec 8) (x : Word) : Prop :=
  if g = true ∧ nw = false ∧ dst ≠ 0 then Posts s t partS 1 [.p (s.ctx.pPhys dst.toNat) allOnes x] none 0 else t = s

/-- The flags that the active elements of a destination raise (R141). -/
def flagsOf (w : Nat) (m : Word) (f : Nat → Flags) : Flags :=
  (List.range (2048 / w)).foldl (fun e i => if m.getLsbD (i * w / 32) then e ||| f i else e) 0

/-! The core scratchpad (R170, R172, R206, R208). -/

/-- Where an address of `sp` lies. -/
def State.spPlace (s : State) (a : Word) : Nat := (s.window s.cur.core s.ctx .sp).1 + a.toNat

/-- An access of n bytes at an address is in bounds. -/
def State.SpIn (s : State) (a : Word) (n : Nat) : Prop :=
  s.ctx.csr.bndlo.toNat ≤ a.toNat ∧ a.toNat + n - 1 ≤ s.ctx.csr.bndhi.toNat ∧ a.toNat + n - 1 ≤ 0x5FFFF ∧ a.toNat < 2 ^ 19

/-- No watchpoint stops an access (R343). -/
def State.Unwatched (s : State) (sp : Space) (rd wr : Bool) (spans : List (Nat × Word × Nat)) : Prop :=
  s.ctx.skips = true ∨ s.watch s.cur.core s.cur.ctx sp rd wr spans = none

/-- `t` is `s` with one entry pushed onto a load-data channel of the context in focus (R174). -/
def Pushed (s t : State) (ch : Bool) (e : QEntry) : Prop :=
  t = s.setCtx (s.ctx.setChan ch ((s.ctx.chan ch).push e))

/-- `t` is `s` with one store more in the T queue of the core in focus (R300, R304), with the flags of its conversion, which it shows once it
is performed (R187). -/
def Queued (s t : State) (us : List SUnit) (scope : Nat) (fl : Flags) : Prop :=
  t = s.setCore s.cur.core { s.core with stq := s.core.stq ++ [⟨s.cur.ctx, s.ctx.tk.serial, s.ctx.tk.job, us, scope, fl, s.cur.addr, true⟩] }

/-- An element of width w of n bytes of memory. -/
def memElem (m : Mem) (a n w i : Nat) : Nat := memRead m a n / 2 ^ (w * i) % 2 ^ w

/-! What an operation leaves as it was. -/

/-- Every byte of memory reads as before. -/
def SameMem (s t : State) : Prop := ∀ a, memGet t.mem a = memGet s.mem a

/-- Every byte outside a range of addresses reads as before. -/
def SameMemOutside (s t : State) (a n : Nat) : Prop := ∀ b, (b < a ∨ a + n ≤ b) → memGet t.mem b = memGet s.mem b

/-- Every context but one is as before. -/
def SameOthers (s t : State) (core ctx : Nat) : Prop :=
  ∀ i k, (i ≠ core ∨ k ≠ ctx) → t.ctxAt i k = s.ctxAt i k

/-- `t` is `s` with one command more held in the open segment of the context in focus (R61, R105, R193): no register, no byte of memory
and no other context is different. -/
def HeldOne (s t : State) (h : Held) : Prop :=
  t.ctx = { s.ctx with held := s.ctx.held ++ [h] } ∧ t.mem = s.mem ∧ SameOthers s t s.cur.core s.cur.ctx

/-- The same of a command that only step 3 of the close performs (R67, R68). -/
def KeptOne (s t : State) (h : Held) : Prop :=
  t.ctx = { s.ctx with irrev := s.ctx.irrev ++ [h] } ∧ t.mem = s.mem ∧ SameOthers s t s.cur.core s.cur.ctx

/-- The registers of the context in focus, all that R83 and R85 list, hold what they held. -/
def SameRegs (s t : State) : Prop :=
  t.ctx.sRegs = s.ctx.sRegs ∧ t.ctx.pRegs = s.ctx.pRegs ∧ t.ctx.vRegs = s.ctx.vRegs ∧ t.ctx.dRegs = s.ctx.dRegs ∧
  t.ctx.nRegs = s.ctx.nRegs ∧ t.ctx.csr = s.ctx.csr ∧ t.ctx.walkers = s.ctx.walkers

/-- The register files of a context, its walkers, its results in flight and its commands are as they were. -/
def SameFiles (c d : Ctx) : Prop :=
  d.sRegs = c.sRegs ∧ d.pRegs = c.pRegs ∧ d.vRegs = c.vRegs ∧ d.dRegs = c.dRegs ∧ d.nRegs = c.nRegs ∧ d.walkers = c.walkers ∧
  d.pend = c.pend ∧ d.held = c.held ∧ d.irrev = c.irrev ∧ d.stat = c.stat

/-- The bank that holds a register of a context is awake (R247); one that lies in no bank always is. -/
def XReg.Awake (r : XReg) (c : Ctx) : Prop := ∀ b, r.bank c = some b → c.drowsy.getLsbD b = false

/-- The response to a host command: written behind the ring, AQHEAD and AQDONE advanced (R362). -/
def Answered (s t : State) (status value : Nat) : Prop :=
  let head := (s.reg (pkgBase + 0x98)).toNat
  (∃ l m, t.hostOut = l ++ HostMsg.write 0 ((s.reg (pkgBase + 0x80)).toNat + 64 * 2 ^ s.aqLog + 16 * (head % 2 ^ s.aqLog)) 16
    (adminWord (s.arg 1) status value) :: m) ∧ t.reg (pkgBase + 0x98) = BitVec.ofNat 64 (head + 1)

/-! Packets (R391 to R401). -/

/-- The permission group of a packet instruction (R392); none of another instruction. -/
def pktGroup : Instr → Option Nat
  | .pktPshr _ | .pktPopr _ | .pktPshi _ | .pktDup | .pktSwp | .pktDrp | .pktAdd | .pktSub | .pktMin | .pktMax | .pktAnd | .pktOr
  | .pktXor | .pktShl | .pktShr | .pktCeq | .pktClt | .pktInc _ | .pktNode | .pktHops | .pktTsc | .pktJz _ | .pktJnz _ | .pktJmp _
  | .pktRouteAuto _ | .pktPark _ | .pktDrop => some 0
  | .pktPld _ | .pktPaccI32 _ | .pktPaccF32 _ | .pktPaccMax _ => some 1
  | .pktLdw => some 2
  | .pktAdw | .pktXcw => some 3
  | .pktRoutePort _ _ | .pktRoutePop _ => some 4
  | .pktClone _ _ => some 5
  | .pktDlvrCtr | .pktDlvrHnd => some 6
  | .pktDlvrNode | .pktDlvrGraph => some 7
  | _ => none

/-- The lane in focus may execute an instruction of its packet p of a group: fewer than 16 executed, and the group enabled (R391, R392). -/
def State.PktMay (s : State) (p : Packet) (g : Nat) : Prop :=
  (s.fab.lane s.cur.lane).pkt = some p ∧ (s.fab.lane s.cur.lane).steps < 16 ∧
    ∃ j, tfind s.fab.jobs p.pmi = some j ∧ j.perm.getLsbD g = true

/-- The packet of the lane in focus goes on as q, and nothing leaves or parks. -/
def PktGoes (s t : State) (q : Packet) : Prop :=
  t.fab.lane s.cur.lane = { s.fab.lane s.cur.lane with pkt := some q, steps := (s.fab.lane s.cur.lane).steps + 1 } ∧
    t.fab.park = s.fab.park ∧ t.fab.leaving = s.fab.leaving

/-- The packet of the lane in focus is over: the lane is free for its next one, and other lanes are as they were. -/
def PktOver (s t : State) : Prop :=
  t.fab.lane s.cur.lane = { s.fab.lane s.cur.lane with pkt := none, steps := 0 } ∧
    ∀ l, l ≠ s.cur.lane → t.fab.lane l = s.fab.lane l

/-- A packet parks with a fault code, as it stood, in the lowest free entry (R401, R402). -/
def PktParks (s t : State) (p : Packet) (code : Nat) : Prop :=
  PktOver s t ∧ t.fab.leaving = s.fab.leaving ∧ t.mem = s.mem ∧
    ∀ n, ((List.range 256).find? fun i => (tfind s.fab.park i).isNone) = some n →
      tfind t.fab.park n = some ⟨p, code, s.now, s.fab.parkN⟩

/-! Issue (R46, R51, R97 to R104). -/

/-- The context h holds the port of a core and nothing comes before its next bundle: no close that is due, no gap cycle, no request of
partition X, no queue switch, no forced departure, no bank that wakes and no trace stall. -/
def State.PortFree (s : State) (core h : Nat) : Prop :=
  let c := s.ctxAt core h
  s.coreDue core = none ∧ (s.coreAt core).port = some h ∧ c.closing = false ∧ (s.coreAt core).gap = 0 ∧
    (h = 4 ∨ ((s.coreAt core).ctxAt 4).stat ≠ .ready) ∧ (c.segOpen = false ∨ c.segN < 256) ∧
    (c.csr.ldqsw = 0 ∨ c.stallN < c.csr.ldqsw.toNat) ∧ (4 ≤ h ∨ c.sliceN < 1024) ∧ c.wakeN = 0 ∧ s.stalled (srcCore core) = false

/-- Its bundle stands in the fetch buffer, no breakpoint stops it, and it does not close the open segment before it issues. -/
def State.Fetched (s : State) (core h : Nat) (w : BundleWord) : Prop :=
  let c := s.ctxAt core h
  s.PortFree core h ∧ (c.skips = true ∨ s.breakHit core h = false) ∧ s.bundleAt core h c.pc = some w ∧
    (w.getLsbD 3 = false ∨ c.segOpen = false ∨ c.segN = 0 ∨ c.csr.done ≠ 0)

/-- A core's turn comes next: nothing stands on the agenda, the turn is a core's, and it is this core's in the rotation. -/
def State.TurnOf (s : State) (core : Nat) : Prop :=
  s.agenda = [] ∧ s.sn.dumped = none ∧ s.turn % 2 = 0 ∧ ∃ k, s.cores[s.turn / 2 % s.cores.length]? = some (core, k)

/-- The state that a core's turn starts from. -/
def State.turned (s : State) : State := { s with turn := s.turn + 1 }

/-- The end of a core's turn: the summary of its matrix cycles is due every 65,536 cycles (R341). -/
def State.turnEnd (s t : State) (core : Nat) : State :=
  if (s.coreAt core).cycle / 65536 < (t.coreAt core).cycle / 65536 then { t with agenda := t.agenda ++ [⟨.mxsum, core, 0, 0, [], []⟩] } else t

end Sys2Proof.Machine
end

