-- ==== Sys2Proof/Certificates/Slice0/Obligations.lean ====
section
/-! DEFINITION. The statements for the provers, from the numbered rules of the spec.  `s` is a state as an operation finds it: the
focus names its core, its context and its bundle; an event finds its arguments there. -/

open Sys2Proof Sys2Proof.Machine

/-! Scalar arithmetic, moves, fields and predicates (R109 to R116). -/

/-- R109, R110: the S slot's integer operations, in every source form that can be read and under either guard. R110: CLZ counts the zero
bits above the highest one bit, 64 of them for zero; POPC counts the one bits. -/
def Obligations.ScalarArithmeticResults : Prop :=
  (∀ (op : ROp) (s : State), s.Holds .s op.xa → s.Holds .s op.xb →
     let g := s.ctx.guard op.pred op.pn
     let a := s.valS op.xa
     let b := s.valS op.xb
     let k := (b.setWidth 6).toNat
     let done (i : Instr) (x : Word) (fl : Flags) : Prop := ∃ t, exec i s = .next t ∧ ScalarOut s t partS 1 g op.nw op.dst x fl
     done (.add op) (a + b) 0 ∧ done (.sub op) (a - b) 0 ∧ done (.mul op) (a * b) 0 ∧
     done (.mulh op) (BitVec.ofInt 64 (a.toInt * b.toInt / 2 ^ 64)) 0 ∧
     done (.mulhu op) (BitVec.ofNat 64 (a.toNat * b.toNat / 2 ^ 64)) 0 ∧
     (b ≠ 0 → done (.div op) (BitVec.ofInt 64 (a.toInt.tdiv b.toInt)) 0 ∧
       done (.divu op) (BitVec.ofNat 64 (a.toNat / b.toNat)) 0 ∧
       done (.rem op) (BitVec.ofInt 64 (a.toInt - b.toInt * a.toInt.tdiv b.toInt)) 0) ∧
     (b = 0 → done (.div op) allOnes fZD ∧ done (.divu op) allOnes fZD ∧ done (.rem op) a fZD) ∧
     done (.and op) (a &&& b) 0 ∧ done (.or op) (a ||| b) 0 ∧ done (.xor op) (a ^^^ b) 0 ∧ done (.andn op) (a &&& ~~~ b) 0 ∧
     done (.shl op) (a <<< k) 0 ∧ done (.shr op) (a >>> k) 0 ∧ done (.sra op) (BitVec.ofInt 64 (a.toInt / 2 ^ k)) 0 ∧
     done (.rot op) ((a <<< k) ||| (a >>> (64 - k))) 0 ∧
     done (.min op) (BitVec.ofInt 64 (Min.min a.toInt b.toInt)) 0 ∧ done (.max op) (BitVec.ofInt 64 (Max.max a.toInt b.toInt)) 0 ∧
     done (.minu op) (BitVec.ofNat 64 (Min.min a.toNat b.toNat)) 0 ∧ done (.maxu op) (BitVec.ofNat 64 (Max.max a.toNat b.toNat)) 0) ∧
  (∀ (op : ROp) (s : State), s.Holds .s op.xa →
     let g := s.ctx.guard op.pred op.pn
     let a := s.valS op.xa
     (∃ n t, exec (.clz op) s = .next t ∧ ScalarOut s t partS 1 g op.nw op.dst (BitVec.ofNat 64 n) 0 ∧
       n ≤ 64 ∧ a.toNat < 2 ^ (64 - n) ∧ (n < 64 → 2 ^ (63 - n) ≤ a.toNat)) ∧
     ∃ t, exec (.popc op) s = .next t ∧
       ScalarOut s t partS 1 g op.nw op.dst (BitVec.ofNat 64 ((List.range 64).filter fun i => a.getLsbD i).length) 0)

/-- R111, R112: ADDI, LEA in both forms, MOVI and MOVHI, which keeps the low half as its bundle sees it. R113, R114: BFX bit by bit, BFI bit
by bit for a width of 1 to 64, and SEL. -/
def Obligations.ConstantFieldSelectResults : Prop :=
  ((∀ (op : RIOp) (s : State), s.Holds .s op.xa →
     let g := s.ctx.guard op.pred op.pn
     let base := if op.md.getLsbD 3 then s.cur.addr else s.valS op.xa
     (∃ t, exec (.addi op) s = .next t ∧ ScalarOut s t partS 1 g op.nw op.dst (s.valS op.xa + op.imm.signExtend 64) 0) ∧
     ∃ t, exec (.lea op) s = .next t ∧
       ScalarOut s t partS 1 g op.nw op.dst (base + (op.imm.signExtend 64) <<< (op.md.setWidth 3).toNat) 0) ∧
   ∀ (op : I32Op) (s : State),
     let g := s.ctx.guard op.pred op.pn
     (∃ t, exec (.movi op) s = .next t ∧
       ScalarOut s t partS 1 g op.nw op.dst (if op.md.getLsbD 0 then op.imm.setWidth 64 else op.imm.signExtend 64) 0) ∧
     (s.Holds .s (.reg op.dst) → ∃ t, exec (.movhi op) s = .next t ∧
       ScalarOut s t partS 1 g op.nw op.dst (op.imm ++ (s.ctx.sGet op.dst.toNat).setWidth 32) 0)) ∧
  (∀ (op : ROp) (s : State), s.Holds .s op.xa → s.Holds .s op.xb →
     let g := s.ctx.guard op.pred op.pn
     let a := s.valS op.xa
     let b := s.valS op.xb
     let c := s.valS op.xc
     (s.Holds .s op.xc → ∃ x t, exec (.bfx op) s = .next t ∧ ScalarOut s t partS 1 g op.nw op.dst x 0 ∧
       let p := (b.setWidth 6).toNat
       let w := Min.min c.toNat 64
       ∀ j, j < 64 → x.getLsbD j =
         if j < w then a.getLsbD (p + j) else op.md.getLsbD 0 && decide (0 < w) && a.getLsbD (p + (w - 1))) ∧
     (s.Holds .s op.xc → ∃ x t, exec (.bfi op) s = .next t ∧ ScalarOut s t partS 1 g op.nw op.dst x 0 ∧
       let p := (c.setWidth 6).toNat
       let w := (op.md.setWidth 7).toNat
       (1 ≤ w ∧ w ≤ 64 → ∀ j, j < 64 → x.getLsbD j = if p ≤ j ∧ j < p + w then b.getLsbD (j - p) else a.getLsbD j)) ∧
     (s.Holds .p op.xc → ∃ t, exec (.sel op) s = .next t ∧
       ScalarOut s t partS 1 g op.nw op.dst (if (s.valP op.xc).getLsbD 0 then a else b) 0))

/-- R115, R116: CMP under each of its six conditions, and the predicate logic. -/
def Obligations.PredicateResults : Prop :=
  (∀ (op : ROp) (s : State), s.Holds .s op.xa → s.Holds .s op.xb →
    let g := s.ctx.guard op.pred op.pn
    let a := s.valS op.xa
    let b := s.valS op.xb
    let done (cc : Nat) (h : Bool) : Prop := (op.md.setWidth 3).toNat = cc →
      ∃ t, exec (.cmp op) s = .next t ∧ PredicateOut s t g op.nw op.dst (if h then allOnes else 0)
    done 0 (decide (a = b)) ∧ done 1 (decide (a ≠ b)) ∧ done 2 (decide (a.toInt < b.toInt)) ∧ done 3 (decide (a.toInt ≤ b.toInt)) ∧
    done 4 (decide (a.toNat < b.toNat)) ∧ done 5 (decide (a.toNat ≤ b.toNat))) ∧
  ∀ (op : ROp) (s : State), s.Holds .p op.xa →
    let g := s.ctx.guard op.pred op.pn
    let a := s.valP op.xa
    let b := s.valP op.xb
    let done (i : Instr) (x : Word) : Prop := ∃ t, exec i s = .next t ∧ PredicateOut s t g op.nw op.dst x
    (s.Holds .p op.xb → done (.pand op) (a &&& b) ∧ done (.por op) (a ||| b) ∧ done (.pxor op) (a ^^^ b)) ∧ done (.pnot op) (~~~ a)

/-! Control registers (R85, R117), supervisor access (R125, R126), control flow (R118 to R124). -/

/-- R85, R93, R117: CSRR reads a control register zero-extended, under its guard, with its latch entry; CSRW with a legal value writes it for the bundles
after its own, with an excluded one raises ILL with reason 0x05 and leaves it, and under a guard of 0 has no effect. -/
def Obligations.ControlRegisterResults : Prop :=
  (∀ (op : RIOp) (s : State),
    ∃ t, exec (.csrr op) s = .next t ∧
      ScalarOut s t partS 1 (s.ctx.guard op.pred op.pn) op.nw op.dst (csrGet s.cur.core s.cur.ctx s.ctx.csr op.imm.toNat) 0) ∧
  ∀ (op : RIOp) (s : State), s.Holds .s op.xa →
    let g := s.ctx.guard op.pred op.pn
    let x := s.valS op.xa
    let n := op.imm.toNat
    ∃ t, exec (.csrw op) s = .next t ∧
      (g = false → t = s) ∧
      (g = true → csrValueOk n x = true → Posts s t partS 1 [.csr n x] none 0) ∧
      (g = true → csrValueOk n x = false →
        t = s.takeTrap ⟨partS, 0x01, 0x05, BitVec.ofNat 64 (s.cur.addr.toNat / 64 * 64 + partS)⟩ 0)

/-- R126, R248: XRD of every register that R125 numbers completes, with the value that stands in the target partition at latency 1: zero
from a gated bank, and zero from a word with a double-bit error (R249). A true guard wakes the bank; no register is written. -/
def Obligations.SupervisorReadResults : Prop :=
  ∀ (op : RIOp) (s : State) (r : XReg), xregOf (op.imm.setWidth 17).toNat = some r →
    let g := s.ctx.guard op.pred op.pn
    let p := (op.imm.extractLsb' 17 3).toNat
    let u := if g = true then s.wakeWait s.cur.core p r else s
    let c := u.ctxAt s.cur.core p
    ∃ x t, exec (.xrd op) s = .next t ∧ ScalarOut u t partS 1 g op.nw op.dst x 0 ∧
      (c.stat = .free → (r.bank c).isSome = true → x = 0) ∧
      ((r.bank c).isSome = false → x = r.read s.cur.core p c) ∧
      (c.stat ≠ .free → c.ecc = [] → x = r.read s.cur.core p c) ∧
      (∀ k n j, r.word c = some (k, n, j) → (k, n, j, true) ∈ c.ecc → x = 0) ∧
      (r.Awake (s.ctxAt s.cur.core p) → (c.stat ≠ .free ∨ (r.bank c).isSome = false) → u = s) ∧
      SameMem s u ∧ ∀ i k, SameFiles (s.ctxAt i k) (u.ctxAt i k)

/-- R126: XWR with a legal value writes a register of another partition at once, in its own name there, and cancels what that partition had
in flight to it; no other register file and no byte of memory is different. R126: XWR to its own partition posts the write at latency 1,
once what was in flight to the register has been cancelled: the scoreboard entry of a norm or a pair goes with it (R43). R126, R248, R249:
where XWR writes nothing: under a guard of 0, to a gated bank, and with a value that the register may not hold, which raises ILL with reason
0x05. -/
def Obligations.SupervisorWriteResults : Prop :=
  (∀ (op : RIOp) (s : State) (r : XReg), xregOf (op.imm.setWidth 17).toNat = some r → s.Holds .s op.xa →
     let p := (op.imm.extractLsb' 17 3).toNat
     let c := s.ctxAt s.cur.core p
     let x := s.valS op.xa
     s.ctx.guard op.pred op.pn = true → r.valueOk x = true → r.gated c = false → p ≠ s.cur.ctx →
       ∃ t, exec (.xwr op) s = .next t ∧ SameMem s t ∧
         (r.Awake c → SameOthers s t s.cur.core p) ∧
         (∀ i k, (i ≠ s.cur.core ∨ k ≠ p) → SameFiles (s.ctxAt i k) (t.ctxAt i k)) ∧
         let d := t.ctxAt s.cur.core p
         (∀ q ∈ d.pend, ∀ w ∈ q.writes, r.same c w = false) ∧
         match r with
           | .ctl n => d.csr = c.csr.put n x
           | .sreg k => k ≠ 0 → d.sGet k = x
           | .preg k => k ≠ 0 → d.pGet k = x
           | .nreg k => d.nGet k = x.setWidth 32
           | .resume => c.stat = .frozen → d.act = x.setWidth 2
           | .vreg k j => d.vGet k = setChunk (c.vGet k) j x
           | .dreg k j => d.dGet k = setChunk (c.dGet k) j x) ∧
  (∀ (op : RIOp) (s : State) (r : XReg), xregOf (op.imm.setWidth 17).toNat = some r → s.Holds .s op.xa →
     let p := (op.imm.extractLsb' 17 3).toNat
     let c := s.ctx
     let x := s.valS op.xa
     s.ctx.guard op.pred op.pn = true → r.valueOk x = true → r.gated c = false → r.Awake c → p = s.cur.ctx →
       let u := s.setCtx (r.cancel c)
       (∀ q ∈ u.ctx.pend, ∀ w ∈ q.writes, r.same c w = false) ∧
       ∃ t, exec (.xwr op) s = .next t ∧
         match r with
           | .ctl n => Posts u t partS 1 [.csr n x] none 0
           | .sreg k => if k = 0 then t = u else Posts u t partS 1 [.s k x] none 0
           | .preg k => if k = 0 then t = u else Posts u t partS 1 [.p (c.pPhys k) allOnes x] none 0
           | .nreg k => Posts u t partS 1 [.norm k (x.setWidth 32)] none 0
           | .vreg k j => Posts u t partS 1 [.v (c.vPhys k) (BitVec.ofNat 64 (3 * 4 ^ j)) (setChunk 0 j x)] none 0
           | .dreg k j => Posts u t partS 1 [.pair k (setChunk (c.dGet k) j x) (c.nGet k)] none 0
           | .resume => t = u) ∧
  (∀ (op : RIOp) (s : State) (r : XReg), xregOf (op.imm.setWidth 17).toNat = some r → s.Holds .s op.xa →
     let g := s.ctx.guard op.pred op.pn
     let p := (op.imm.extractLsb' 17 3).toNat
     let x := s.valS op.xa
     ∃ t, exec (.xwr op) s = .next t ∧
       (g = false → t = s) ∧
       (g = true → r.valueOk x = false →
         t = s.takeTrap ⟨partS, 0x01, 0x05, BitVec.ofNat 64 (s.cur.addr.toNat / 64 * 64 + partS)⟩ 0) ∧
       (g = true → r.valueOk x = true → r.gated (s.ctxAt s.cur.core p) = true →
         SameMem s t ∧ ∀ i k, SameFiles (s.ctxAt i k) (t.ctxAt i k)))

/-- R47, R118 to R120: where a branch goes, and that one whose guard or condition fails changes nothing but CALL's latch entry. R121, R107,
R122: what LOOPM and BRLC write, all of it visible to the next bundle, and where they go. -/
def Obligations.BranchAndLoopResults : Prop :=
  ((∀ (op : I32Op) (s : State),
     let g := s.ctx.guard op.pred op.pn
     let target := s.cur.addr + BitVec.ofInt 64 (64 * op.imm.toInt)
     (∃ t, exec (.br op) s = .next t ∧ t = if g = true then { s with cur := { s.cur with next := target } } else s) ∧
     ∃ u t, exec (.call op) s = .next t ∧ ScalarOut s u partS 1 g op.nw op.dst (s.cur.addr + 64#64) 0 ∧
       t = if g = true then { u with cur := { u.cur with next := target } } else u) ∧
   (∀ (op : RIOp) (s : State), s.Holds .s op.xa →
     let g := s.ctx.guard op.pred op.pn
     let a := s.valS op.xa
     let target := s.cur.addr + BitVec.ofInt 64 (64 * op.imm.toInt)
     let done (cc : Nat) (h : Prop) : Prop := (op.md.setWidth 3).toNat = cc → ∃ t, exec (.brc op) s = .next t ∧
       (g = true ∧ h → t = { s with cur := { s.cur with next := target } }) ∧ (¬(g = true ∧ h) → t = s)
     done 0 (a = 0) ∧ done 1 (a ≠ 0) ∧ done 2 (a.toInt < 0) ∧ done 3 (a.toInt ≤ 0) ∧ done 4 False ∧ done 5 (a = 0)) ∧
   ∀ (op : ROp) (s : State), s.Holds .s op.xa →
     ∃ t, exec (.ret op) s = .next t ∧
       t = if s.ctx.guard op.pred op.pn = true then
           { s with cur := { s.cur with next := BitVec.ofNat 64 ((s.valS op.xa).toNat / 64 * 64) } } else s) ∧
  ((∀ (op : RIOp) (s : State), s.Holds .s op.xa →
     let n := (s.valS op.xa).toNat
     let st := (op.md.setWidth 2).toNat + 1
     let ec : Word := BitVec.ofNat 64 ((st - 1) * 16)
     let p (i : Nat) : Nat := s.ctx.pPhys (12 + i)
     ∃ t, exec (.loopm op) s = .next t ∧
       (s.ctx.guard op.pred op.pn = false → t = s) ∧
       (s.ctx.guard op.pred op.pn = true → 1 ≤ n →
         Posts s t partS 1 [.csr 0x12 (BitVec.ofNat 64 (Min.min (n + st - 1) (2 ^ 64 - 1))), .csr 0x13 ec,
           .p (p 0) allOnes allOnes, .p (p 1) allOnes 0, .p (p 2) allOnes 0, .p (p 3) allOnes 0] none 0) ∧
       (s.ctx.guard op.pred op.pn = true → n = 0 → ∃ u,
         Posts s u partS 1 [.csr 0x12 0, .csr 0x13 ec,
           .p (p 0) allOnes 0, .p (p 1) allOnes 0, .p (p 2) allOnes 0, .p (p 3) allOnes 0] none 0 ∧
         t = { u with cur := { u.cur with next := s.cur.addr + 64#64 * BitVec.ofNat 64 (op.imm.toNat + 1) } })) ∧
   ∀ (op : I32Op) (s : State),
     let c := s.ctx.csr
     let lc := c.lc - 1
     let st := (c.ec.extractLsb' 4 2).toNat + 1
     let d := Min.min ((c.ec.setWidth 2).toNat + 1) 3
     let rotp : BitVec 3 := c.rotp + 1
     let p (i : Nat) : Nat := { s.ctx with csr := { c with rotp := rotp } }.pPhys (12 + i)
     let stage (i : Nat) : Write := .p (p i) allOnes (if i ≤ st - 1 ∧ i ≤ d ∧ st ≤ i + lc.toNat then allOnes else 0)
     ∃ t, exec (.brlc op) s = .next t ∧
       (s.ctx.guard op.pred op.pn = false → t = s) ∧
       (s.ctx.guard op.pred op.pn = true → lc = 0 → Posts s t partS 1 [.csr 0x12 0] none 0) ∧
       (s.ctx.guard op.pred op.pn = true → lc ≠ 0 → ∃ u,
         Posts s u partS 1 [.csr 0x12 lc, .csr 0x13 (BitVec.ofNat 64 ((st - 1) * 16 + d)),
           .csr 0x10 ((c.rotv + 1).setWidth 64), .csr 0x11 (rotp.setWidth 64),
           stage 0, stage 1, stage 2, stage 3] none 0 ∧
         t = { u with cur := { u.cur with next := s.cur.addr + BitVec.ofInt 64 (64 * op.imm.toInt) } }))

/-- R123, R124, R127, R135: under a true guard TRAP marks its bundle for the software trap, END and ERET for what follows the close; BRK
stops the context at once with cause 0x03, its code in TRAPV, and the Y slot alone done. -/
def Obligations.StopRequestResults : Prop :=
  (∀ (op : I32Op) (s : State),
    ∃ t, exec (.trap op) s = .next t ∧
      t = if s.ctx.guard op.pred op.pn = true then { s with cur := { s.cur with swTrap := some (op.imm.setWidth 64) } } else s) ∧
  (∀ (op : ROp) (s : State),
    let g := s.ctx.guard op.pred op.pn
    (∃ t, exec (.endTask op) s = .next t ∧ t = if g = true then s.setCtx { s.ctx with endReq := some .endTask } else s) ∧
    ∃ t, exec (.eret op) s = .next t ∧ t = if g = true then s.setCtx { s.ctx with endReq := some .eret } else s) ∧
  ∀ (op : YOp) (s : State),
    ∃ t, exec (.brk op) s = .next t ∧
      (s.ctx.guard op.pred op.pn = false → t = s) ∧
      (s.ctx.guard op.pred op.pn = true →
        t.ctx.stat = .frozen ∧ t.ctx.csr.done = 0x080#9 ∧ t.ctx.csr.trapv = op.imm.setWidth 64 ∧
        t.ctx.csr.trapc = BitVec.ofNat 20 (8 * 2 ^ 16 + 1 * 2 ^ 8 + 3) ∧ SameMem s t ∧ SameOthers s t s.cur.core s.cur.ctx ∧
        t.ctx.sRegs = s.ctx.sRegs ∧ t.ctx.pRegs = s.ctx.pRegs ∧ t.ctx.vRegs = s.ctx.vRegs ∧ t.ctx.held = s.ctx.held)

/-! Vector operations of the A and B slots (R139 to R163). -/

/-- R140, R145: the arithmetic of the A and B slots on INT32 and INT8 elements: every active element is the exact integer wrapped, or with
SAT clamped to the type, and OF is raised just when an active element is clamped. -/
def Obligations.VectorIntegerResults : Prop :=
  ∀ (u : VUnit) (op : ROp) (s : State),
    let ty := s.ctx.typ (op.md.setWidth 4).toNat
    let m := s.ctx.lanes op.pred op.pn
    let fm := fmtN ty
    let w := fm.width
    let a (i : Nat) : Int := sextN w (s.bitsE fm op.xa i)
    let b (i : Nat) : Int := sextN w (s.bitsE fm op.xb i)
    let c (i : Nat) : Int := sextN w (s.bitsE fm op.xc i)
    let clamp (v : Int) : Int := Max.max (-(2 ^ (w - 1))) (Min.min (2 ^ (w - 1) - 1) v)
    let done (ins : Instr) (v : Nat → Int) : Prop := ∃ x t, exec ins s = .next t ∧
      VectorOut s t (partOf u) 2 m op.nw op.dst x
        (flagsOf w m fun i => if op.md.getLsbD 9 = true ∧ clamp (v i) ≠ v i then fOF else 0) ∧
      ∀ i, i < 2048 / w → m.getLsbD (i * w / 32) = true →
        velem w x i = ((if op.md.getLsbD 9 then clamp (v i) else v i) % 2 ^ w).toNat
    (ty = 7 ∨ ty = 8) → op.md.getLsbD 8 = false → s.Holds .v op.xa →
      (done (.vabs u op) fun i => (a i).natAbs) ∧ (done (.vneg u op) fun i => -a i) ∧
      (s.Holds .v op.xb →
        (done (.vadd u op) fun i => a i + b i) ∧ (done (.vsub u op) fun i => a i - b i) ∧ (done (.vmul u op) fun i => a i * b i) ∧
        (done (.vmin u op) fun i => Min.min (a i) (b i)) ∧ (done (.vmax u op) fun i => Max.max (a i) (b i)) ∧
        (s.Holds .v op.xc →
          (done (.vfma u op) fun i => a i * b i + c i) ∧ (done (.vfms u op) fun i => a i * b i - c i) ∧
          (done (.vnfma u op) fun i => c i - a i * b i)))

/-- R141, R143, R144: the same operations on floating-point elements: every active element is one rounding, in the mode in force, of the
exact value; the flags are those of its steps; the generator moves only in the stochastic mode. -/
def Obligations.VectorFloatResults : Prop :=
  ∀ (u : VUnit) (op : ROp) (s : State),
    let ty := s.ctx.typ (op.md.setWidth 4).toNat
    let m := s.ctx.lanes op.pred op.pn
    let fm := fmtN ty
    let w := fm.width
    let mode := rmodeOf (if op.md.getLsbD 8 then (op.md.extractLsb' 5 3).toNat else s.ctx.csr.rmode.toNat)
    let dn := decide (mode = .rdn)
    let a := s.valE fm op.xa
    let b := s.valE fm op.xb
    let c := s.valE fm op.xc
    let done (ins : Instr) (v : Nat → XVal × Flags) : Prop := ∃ (gen : Word) (rs : Nat → Nat) (x : Vec) (t : State), exec ins s = .next t ∧
      VectorOut (s.setGen gen) t (partOf u) 4 m op.nw op.dst x
        (flagsOf w m fun i => (v i).2 ||| (encodeFmt fm mode .none (rs i) (v i).1).2) ∧
      (mode ≠ .stoc → gen = s.ctx.csr.rseed) ∧
      ∀ i, i < 2048 / w → m.getLsbD (i * w / 32) = true → velem w x i = (encodeFmt fm mode .none (rs i) (v i).1).1 % 2 ^ w
    (ty = 1 ∨ ty = 2 ∨ ty = 3) → op.md.getLsbD 9 = false → s.Holds .v op.xa →
      (done (.vabs u op) fun i => ((a i).abs, 0)) ∧ (done (.vneg u op) fun i => ((a i).neg, 0)) ∧
      (s.Holds .v op.xb →
        (done (.vadd u op) fun i => (a i).add dn (b i)) ∧ (done (.vsub u op) fun i => (a i).add dn (b i).neg) ∧
        (done (.vmul u op) fun i => (a i).mul (b i)) ∧
        (done (.vmin u op) fun i => ((a i).min (b i), 0)) ∧ (done (.vmax u op) fun i => ((a i).max (b i), 0)) ∧
        (s.Holds .v op.xc →
          let fused (x y z : XVal) : XVal × Flags := ((((x.mul y).1).add dn z).1, (x.mul y).2 ||| (((x.mul y).1).add dn z).2)
          (done (.vfma u op) fun i => fused (a i) (b i) (c i)) ∧ (done (.vfms u op) fun i => fused (a i) (b i) (c i).neg) ∧
          (done (.vnfma u op) fun i => fused (a i).neg (b i) (c i))))

/-- R151, R153: logic, shifts by the count modulo the width, moves and broadcasts, two bundles on and with no flag. R152: VCMP writes, in
the active lanes of a predicate, what each lane's chosen element compares to; no latch entry. -/
def Obligations.VectorBitAndCompareResults : Prop :=
  (∀ (u : VUnit) (op : ROp) (s : State),
     let m := s.ctx.lanes op.pred op.pn
     let ty := s.ctx.typ (op.md.setWidth 4).toNat
     let fm := fmtN ty
     let w := fm.width
     let done (ins : Instr) (x : Vec) : Prop := ∃ t, exec ins s = .next t ∧ VectorOut s t (partOf u) 2 m op.nw op.dst x 0
     let each (ins : Instr) (v : Nat → Nat) : Prop := ∃ x, done ins x ∧ ∀ i, i < 2048 / w → velem w x i = v i % 2 ^ w
     (s.Holds .v op.xa → done (.vnot u op) (~~~ s.valV op.xa) ∧ done (.vmov u op) (s.valV op.xa) ∧
       (s.Holds .v op.xb →
         done (.vand u op) (s.valV op.xa &&& s.valV op.xb) ∧ done (.vor u op) (s.valV op.xa ||| s.valV op.xb) ∧
         done (.vxor u op) (s.valV op.xa ^^^ s.valV op.xb) ∧
         (s.Holds .p op.xc → ∃ x, done (.vsel u op) x ∧
           ∀ k, k < 64 → vlane x k = if (s.valP op.xc).getLsbD k then vlane (s.valV op.xa) k else vlane (s.valV op.xb) k) ∧
         (ty = 7 ∨ ty = 8 →
           let n (i : Nat) : Nat := s.bitsE fm op.xb i % w
           (each (.vshl u op) fun i => s.bitsE fm op.xa i * 2 ^ n i) ∧ (each (.vshr u op) fun i => s.bitsE fm op.xa i / 2 ^ n i) ∧
           each (.vsra u op) fun i => (sextN w (s.bitsE fm op.xa i) / 2 ^ n i % 2 ^ w).toNat))) ∧
     (s.Holds .s op.xa →
       (each (.vbcast u op) fun _ => (s.valS op.xa).toNat) ∧
       (ty = 7 ∨ ty = 8 → each (.viota u op) fun i => (s.valS op.xa).toNat + i))) ∧
  (∀ (u : VUnit) (op : ROp) (s : State), s.Holds .v op.xa → s.Holds .v op.xb →
     let m := s.ctx.lanes op.pred op.pn
     let ty := s.ctx.typ (op.md.extractLsb' 6 4).toNat
     let fm := fmtN ty
     let w := fm.width
     let e := (op.md.extractLsb' 4 2).toNat
     let cc := (op.md.setWidth 3).toNat
     ty ≠ 6 → ty ≠ 9 → e < 32 / w →
     ∃ x t, exec (.vcmp u op) s = .next t ∧
       (op.nw = false → op.dst ≠ 0 → Posts s t (partOf u) 2 [.p (s.ctx.pPhys op.dst.toNat) m x] none 0) ∧
       (op.nw = true ∨ op.dst = 0 → t = s) ∧
       ∀ k, k < 64 →
         let i := k * (32 / w) + e
         let a := sextN w (s.bitsE fm op.xa i)
         let b := sextN w (s.bitsE fm op.xb i)
         (fm.isInt = true →
           (cc = 0 → x.getLsbD k = decide (a = b)) ∧ (cc = 1 → x.getLsbD k = decide (a ≠ b)) ∧
           (cc = 2 → x.getLsbD k = decide (a < b)) ∧ (cc = 3 → x.getLsbD k = decide (a ≤ b)) ∧
           (cc = 4 → x.getLsbD k = decide (s.bitsE fm op.xa i < s.bitsE fm op.xb i)) ∧
           (cc = 5 → x.getLsbD k = decide (s.bitsE fm op.xa i ≤ s.bitsE fm op.xb i))) ∧
         (fm.isInt = false → XVal.cmp (s.valE fm op.xa i) (s.valE fm op.xb i) = none →
           x.getLsbD k = decide (cc = 1 ∨ 4 ≤ cc)) ∧
         (fm.isInt = false → ∀ o, XVal.cmp (s.valE fm op.xa i) (s.valE fm op.xb i) = some o →
           (cc = 0 → x.getLsbD k = (o == .eq)) ∧ (cc = 1 → x.getLsbD k = (o != .eq)) ∧
           (cc = 2 ∨ cc = 4 → x.getLsbD k = (o == .lt)) ∧ (cc = 3 ∨ cc = 5 → x.getLsbD k = (o != .gt))))

/-- R146: a special function in every active element, rounded to nearest even whatever RMODE holds, seven bundles after the next. R159:
VDOT2 adds two BF16 products to the FP32 lane with one rounding.  The sign of an exact zero sum is the model's choice (log entry 192). -/
def Obligations.SpecialFunctionAndDotResults : Prop :=
  (∀ (u : VUnit) (op : ROp) (s : State) (fn : SpecFn),
     let ty := s.ctx.typ (bitsOf op.md.toNat 7 4)
     let m := s.ctx.lanes op.pred op.pn
     let fm := fmtN ty
     (ty = 1 ∨ ty = 2 ∨ ty = 3) → specFnOf (bitsOf op.md.toNat 3 0) = some fn → s.Holds .v op.xa →
     ∃ (x : Vec) (t : State), exec (.vsf u op) s = .next t ∧
       VectorOut s t (partOf u) 8 m op.nw op.dst x (flagsOf fm.width m fun i => (specFn fn fm (s.valE fm op.xa i)).2) ∧
       ∀ i, i < 2048 / fm.width → m.getLsbD (i * fm.width / 32) = true →
         velem fm.width x i = (specFn fn fm (s.valE fm op.xa i)).1 % 2 ^ fm.width) ∧
  (∀ (u : VUnit) (op : ROp) (s : State), s.Holds .v op.xa → s.Holds .v op.xb → s.Holds .v op.xc →
     let m := s.ctx.lanes op.pred op.pn
     let mode := rmodeOf (if op.md.getLsbD 8 then bitsOf op.md.toNat 7 5 else s.ctx.csr.rmode.toNat)
     let dn := decide (mode = .rdn)
     let p (k i : Nat) : XVal × Flags := (s.valE .bf16 op.xa (2 * k + i)).mul (s.valE .bf16 op.xb (2 * k + i))
     let sum (k : Nat) : XVal := ((s.valE .f32 op.xc k).add dn (((p k 0).1.add dn (p k 1).1).1)).1
     ∃ (gen : Word) (rs : Nat → Nat) (fl : Flags) (x : Vec) (t : State),
       exec (.vdot2 u op) s = .next t ∧ VectorOut (s.setGen gen) t (partOf u) 4 m op.nw op.dst x fl ∧
       (mode ≠ .stoc → gen = s.ctx.csr.rseed) ∧
       ∀ k, k < 64 → m.getLsbD k = true → vlane x k = (encodeFmt .f32 mode .none (rs k) (sum k)).1 % 2 ^ 32 ∧
         ((p k 0).2 ||| (p k 1).2 ||| (encodeFmt .f32 mode .none (rs k) (sum k)).2) &&& ~~~ fl = 0)

/-- R147 to R149: VCVT in every pair of formats, run and clamp: which lanes it writes, which source element each destination element comes from,
and its conversion (R23, R24) with the bound of its lane. R14, R150: VQNT writes the blocks and scales of its part and no other lane; VDQNT
writes every element of the type, +0 for the code 0b1000 whatever the scales; a guard of 0 on the whole operation writes no lane.  The sign
of a zero product in VDQNT is the model's choice (log entry 162). -/
def Obligations.ConvertAndQuantiseResults : Prop :=
  (∀ (u : VUnit) (op : ROp) (s : State) (src dst part : Nat),
     let pair := bitsOf op.md.toNat 9 3
     let low := bitsOf op.md.toNat 1 0
     (pair = 9 * (src - 1) + (dst - 1) ∧ 1 ≤ src ∧ src ≤ 9 ∧ 1 ≤ dst ∧ dst ≤ 9 ∧ part = low ∨
       [(81, 1, 6), (82, 1, 9), (83, 7, 6), (84, 7, 9), (85, 6, 1), (86, 6, 7), (87, 9, 1), (88, 9, 7)].contains (pair, src, dst) = true ∧
         part = low + 4) →
     let fs := fmtN src
     let fd := fmtN dst
     let ws := fs.width
     let wd := fd.width
     part < Max.max ws wd / Min.min ws wd →
     let clamp := op.md.getLsbD 2
     s.Holds .v op.xa → (clamp = true → s.Holds .v op.xb) →
     let mode := rmodeOf s.ctx.csr.rmode.toNat
     let bound (k : Nat) : Clamp := if clamp then clampOfF32 (s.bitsE .f32 op.xb k) else .none
     ∃ (gen : Word) (rs : Nat → Nat) (mm : Word) (x : Vec) (t : State),
       let from_ (j : Nat) : Nat := if wd < ws then j - part * (2048 / ws) else if ws < wd then part * (2048 / wd) + j else j
       let y (j : Nat) : Nat × Flags := convert fs fd mode (bound (j * wd / 32)) (rs j) (s.bitsE fs op.xa (from_ j))
       exec (.vcvt u op) s = .next t ∧ VectorOut (s.setGen gen) t (partOf u) 4 mm op.nw op.dst x (flagsOf wd mm fun j => (y j).2) ∧
       (mode ≠ .stoc → gen = s.ctx.csr.rseed) ∧
       (∀ k, k < 64 → mm.getLsbD k = ((s.ctx.lanes op.pred op.pn).getLsbD k &&
         decide (wd < ws → part * (64 * wd / ws) ≤ k ∧ k < (part + 1) * (64 * wd / ws)))) ∧
       ∀ j, j < 2048 / wd → mm.getLsbD (j * wd / 32) = true → velem wd x j = (y j).1 % 2 ^ wd) ∧
  (∀ (u : VUnit) (op : ROp) (s : State),
     let ty := s.ctx.typ (bitsOf op.md.toNat 3 0)
     let p := bitsOf op.md.toNat 6 4
     let nb := if ty = 1 then 8 else 16
     let fm := fmtN ty
     let mode := rmodeOf s.ctx.csr.rmode.toNat
     let band := s.valE .bf16 op.xb 0
     (ty = 1 ∨ ty = 2 ∨ ty = 3) → (p + 1) * nb ≤ 48 → s.Holds .v op.xa → s.Holds .v op.xb →
     (s.ctx.guard op.pred op.pn = false → ∀ i, i = .vqnt u op ∨ i = .vdqnt u op →
       ∃ t, exec i s = .next t ∧ VectorOut s t (partOf u) 4 0 op.nw op.dst 0 0) ∧
     (s.ctx.guard op.pred op.pn = true →
       (∃ (gen : Word) (rs : Nat → List Nat) (m : Word) (x : Vec) (t : State),
         let blk (j : Nat) := encBlock mode .none band (rs j) ((List.range 8).map fun i => s.valE fm op.xa (8 * j + i))
         exec (.vqnt u op) s = .next t ∧
         VectorOut (s.setGen gen) t (partOf u) 4 m op.nw op.dst x ((List.range nb).foldl (fun f j => f ||| (blk j).2.2) 0) ∧
         (mode ≠ .stoc → gen = s.ctx.csr.rseed) ∧
         (∀ k, k < 64 → (m.getLsbD k = true ↔
           p * nb ≤ k ∧ k < (p + 1) * nb ∨ 48 + p * nb / 4 ≤ k ∧ k < 48 + (p + 1) * nb / 4)) ∧
         ∀ j, j < nb → velem 8 x (192 + p * nb + j) = (blk j).1 % 256 ∧
           ∀ i, i < 8 → velem 4 x (8 * (p * nb + j) + i) = ((blk j).2.1.getD i 0) % 16) ∧
       ∃ (gen : Word) (rs : Nat → Nat) (x : Vec) (t : State),
         let q (i : Nat) : Nat := p * nb + i / 8
         let bits (w i : Nat) : Nat := velem w (s.valV op.xa) i
         let scale (i : Nat) : XVal := .fin false (blockScale (bits 8 (192 + q i))).1 (blockScale (bits 8 (192 + q i))).2
         let y (i : Nat) : Nat × Flags := if band.isFin = false ∨ band.isZero = true then (0, fIV)
           else if bits 4 (8 * q i + i % 8) = 8 then (0, 0) else encodeFmt fm mode .none (rs i) (((decodeFmt .fp4 (bits 4 (8 * q i + i % 8))).1.mul (scale i)).1.mul band).1
         exec (.vdqnt u op) s = .next t ∧
         VectorOut (s.setGen gen) t (partOf u) 4 allOnes op.nw op.dst x (flagsOf fm.width allOnes fun i => (y i).2) ∧
         (mode ≠ .stoc → gen = s.ctx.csr.rseed) ∧
         ∀ i, i < 2048 / fm.width → velem fm.width x i = (y i).1 % 2 ^ fm.width))

/-- R154 to R156: VSHUF, VROWM, VCOLM and VTRN, element by element under SHAPE. -/
def Obligations.PermuteResults : Prop :=
  ∀ (u : VUnit) (op : ROp) (s : State), s.Holds .v op.xa →
    let m := s.ctx.lanes op.pred op.pn
    let c := s.ctx
    let rows := bitsOf c.csr.shape.toNat 9 6 + 1
    let cols := bitsOf c.csr.shape.toNat 5 0 + 1
    let w := (fmtN (bitsOf c.csr.shape.toNat 13 10)).width
    let a (i : Nat) : Nat := velem w (s.valV op.xa) i
    let done (i : Instr) (w : Nat) (v : Nat → Nat) : Prop := ∃ (x : Vec) (t : State), exec i s = .next t ∧
      VectorOut s t (partOf u) 2 m op.nw op.dst x 0 ∧ ∀ e, e < 2048 / w → velem w x e = v e
    (s.Holds .v op.xb →
      (let g := 32 / 2 ^ bitsOf op.md.toNat 1 0
       bitsOf op.md.toNat 1 0 < 3 → done (.vshuf u op) g fun i =>
        let j := velem g (s.valV op.xb) i
        if 2048 / g ≤ j ∨ rows * cols * typeWidth (bitsOf c.csr.shape.toNat 13 10) ≤ j * g then 0 else velem g (s.valV op.xa) j) ∧
      (done (.vrowm u op) w fun e =>
        let i := vlane (s.valV op.xb) (e / cols)
        if rows ≤ e / cols ∨ rows ≤ i then 0 else a (i * cols + e % cols)) ∧
      done (.vcolm u op) w fun e =>
        let i := vlane (s.valV op.xb) (e % cols)
        if rows ≤ e / cols ∨ cols ≤ i then 0 else a (e / cols * cols + i)) ∧
    done (.vtrn u op) w fun e => if rows * cols ≤ e then 0 else a (e % rows * cols + e / rows)

/-- R29, R30, R157, R158: VRED reduces each row or column of the active elements by the pairwise tree; VSCAN runs the chain along it and writes
the active positions inside SHAPE.  That a position beyond the register is inactive is the model's choice (log entry 54). -/
def Obligations.ReduceScanResults : Prop :=
  ∀ (u : VUnit) (op : ROp) (s : State), s.Holds .v op.xa →
    let c := s.ctx
    let m := c.lanes op.pred op.pn
    let ty := c.typ (bitsOf op.md.toNat 9 6)
    let fm := fmtN ty
    let w := fm.width
    let rows := bitsOf c.csr.shape.toNat 9 6 + 1
    let cols := bitsOf c.csr.shape.toNat 5 0 + 1
    let o := bitsOf op.md.toNat 2 0
    let byCol := op.md.getLsbD 3
    let lines := if byCol then cols else rows
    let n := if byCol then rows else cols
    let at_ (l i : Nat) : Nat := if byCol then i * cols + l else l * cols + i
    let xs (l : Nat) : List (Option Nat) := (List.range n).map fun i =>
      if m.getLsbD (at_ l i * w / 32) then some (widen32 fm (s.bitsE fm op.xa (at_ l i))) else none
    ((ty = 1 ∨ ty = 2 ∨ ty = 3 ∨ ty = 7 ∨ ty = 8) → ¬(op.pred = 0 ∧ op.pn = true) →
      (op.md.getLsbD 4 = true → ∃ t, exec (.vred u op) s = .next t ∧
        ScalarOut s t (partOf u) 4 true op.nw op.dst (BitVec.ofNat 64 (reduce o fm.isInt (xs 0)).1) (reduce o fm.isInt (xs 0)).2) ∧
      (op.md.getLsbD 4 = false → ∃ (x : Vec) (t : State), exec (.vred u op) s = .next t ∧
        VectorOut s t (partOf u) 4 allOnes op.nw op.dst x
          ((List.range lines).foldl (fun f l => f ||| (reduce o fm.isInt (xs l)).2) 0) ∧
        ∀ k, k < 64 → vlane x k = if k < lines then (reduce o fm.isInt (xs k)).1 % 2 ^ 32 else 0)) ∧
    (ty = 1 ∨ ty = 7 → rows * cols ≤ 64 → ∃ (x : Vec) (mm : Word) (t : State), exec (.vscan u op) s = .next t ∧
      VectorOut s t (partOf u) 4 mm op.nw op.dst x
        ((List.range lines).foldl (fun f l => f ||| (scanLine o (decide (ty = 7)) (xs l)).2) 0) ∧
      (∀ k, k < 64 → mm.getLsbD k = (m.getLsbD k && decide (k < rows * cols))) ∧
      ∀ l i, l < lines → i < n → vlane x (at_ l i) = (scanLine o (decide (ty = 7)) (xs l)).1.getD i 0 % 2 ^ 32)

/-- R16, R59, R160, R163: VEXT and VINS for every index, the reserved INT4 code read as 0 with RC, and the scalar forms of the A and B
slots. R161, R162: VLDS and VSTS for each size: every active lane reaches its own slice; the store's bytes wait in the bundle for the end of
its issue and memory keeps its own until then; a lane out of the slice or misaligned traps and writes none. -/
def Obligations.ElementAndSliceResults : Prop :=
  (∀ (u : VUnit) (op : ROp) (s : State),
     let g := s.ctx.guard op.pred op.pn
     let m := s.ctx.lanes op.pred op.pn
     let fm := fmtN (s.ctx.typ (bitsOf op.md.toNat 3 0))
     let w := fm.width
     let out (i : Instr) (x : Word) (fl : Flags) : Prop := ∃ t, exec i s = .next t ∧ ScalarOut s t (partOf u) 2 g op.nw op.dst x fl
     let done (i : Instr) (x : Word) : Prop := out i x 0
     s.Holds .s op.xb →
     (s.Holds .v op.xa →
       (let i := (s.valS op.xb).toNat
        let e := s.bitsE fm op.xa i
        if i < 2048 / w ∧ fm = .i4 ∧ e = 8 then out (.vext u op) 0 fRC
        else done (.vext u op) (if 2048 / w ≤ i then 0 else if fm.isInt then BitVec.ofInt 64 (sextN w e) else BitVec.ofNat 64 e)) ∧
       (s.Holds .s op.xc → ∃ (x : Vec) (t : State), exec (.vins u op) s = .next t ∧ VectorOut s t (partOf u) 2 m op.nw op.dst x 0 ∧
         ∀ i, i < 2048 / w → velem w x i =
           if i = (s.valS op.xc).toNat then (s.valS op.xb).toNat % 2 ^ w else s.bitsE fm op.xa i)) ∧
     (s.Holds .s op.xa →
       let a := s.valS op.xa
       let b := s.valS op.xb
       done (.sadd u op) (a + b) ∧ done (.ssub u op) (a - b) ∧ done (.smul u op) (a * b) ∧
       done (.smin u op) (BitVec.ofInt 64 (Min.min a.toInt b.toInt)) ∧ done (.smax u op) (BitVec.ofInt 64 (Max.max a.toInt b.toInt)) ∧
       done (.sand u op) (a &&& b) ∧ done (.sor u op) (a ||| b) ∧ done (.sxor u op) (a ^^^ b))) ∧
  (∀ (u : VUnit) (op : ROp) (s : State),
     let m := s.ctx.lanes op.pred op.pn
     let sz := bitsOf op.md.toNat 1 0
     let n := 2 ^ sz
     let off (x y : Sel) (k : Nat) : Nat := (vlane (s.valV x) k + vlane (s.valV y) k) % 2 ^ 32
     let bad (x y : Sel) (k : Nat) : Prop := m.getLsbD k = true ∧ ((0x400 < off x y k + n) ∨ off x y k % n ≠ 0)
     let trap (i : Instr) (x y : Sel) : Prop := ∀ k, k < 64 → bad x y k → (∀ j, j < k → ¬bad x y j) →
       ∃ t, exec i s = .next t ∧ t = s.takeTrap ⟨partOf u, 0x07, if 0x400 < off x y k + n then 0x03 else 0x02,
         BitVec.ofNat 64 (off x y k)⟩ 0
     sz < 3 → s.Holds .v op.xa → s.Holds .v op.xb →
     (trap (.vlds u op) op.xa op.xb ∧
       ((∀ k, k < 64 → ¬bad op.xa op.xb k) →
         (∀ k, k < 64 → m.getLsbD k = true → s.isPoisoned (lsBase s.cur.core k + off op.xa op.xb k) n = false) →
         ∃ (x : Vec) (t : State), exec (.vlds u op) s = .next t ∧ VectorOut s t (partOf u) 2 m op.nw op.dst x 0 ∧
           ∀ k, k < 64 → m.getLsbD k = true →
             let b := memRead s.mem (lsBase s.cur.core k + off op.xa op.xb k) n
             vlane x k = if op.md.getLsbD 2 then (sextN (8 * n) b % 2 ^ 32).toNat else b)) ∧
     (s.Holds .v op.xc →
       trap (.vsts u op) op.xb op.xc ∧
       ((∀ k, k < 64 → ¬bad op.xb op.xc k) → ∃ w t, exec (.vsts u op) s = .next t ∧
         t = { s with cur := { s.cur with lsW := s.cur.lsW ++ w } } ∧
         (∀ k j, k < 64 → m.getLsbD k = true → j < n →
           (lsBase s.cur.core k + off op.xb op.xc k + j, BitVec.ofNat 8 (vlane (s.valV op.xa) k / 2 ^ (8 * j))) ∈ w) ∧
         ∀ p ∈ w, ∃ k j, k < 64 ∧ m.getLsbD k = true ∧ j < n ∧ p.1 = lsBase s.cur.core k + off op.xb op.xc k + j)))

/-! Directional values (R31 to R45, R164 to R169). -/

/-- R36, R41, R167, R169: DSCL, DNSET, DNGET, DNEG and DMOV on ordinary, zero and NaD pairs; lanes at or beyond DLEN read and are written zero,
and an ordinary DNSET writes the norm alone.  The model's choice (log entry 161): DNSET of the special code onto a zero or NaD pair sets no
flag, and DSCL cuts its direction to DLEN. -/
def Obligations.NormResults : Prop :=
  ∀ (u : VUnit) (op : ROp) (s : State),
    let g := s.ctx.guard op.pred op.pn
    let part := partOf u
    let ordinary (n : BitVec 32) : Prop := n ≠ 0x80000000#32 ∧ n ≠ 0x7FFFFFFF#32
    let zero (i : Instr) (fl : Flags) : Prop := ∃ t, exec i s = .next t ∧ PairOut s t part 2 g op.dst 0 0x80000000#32 fl
    let nad (i : Instr) (fl : Flags) : Prop := ∃ t, exec i s = .next t ∧ PairOut s t part 2 g op.dst 0 0x7FFFFFFF#32 fl
    let pair (i : Instr) (k : Nat) (f : Int → Int) (n : BitVec 32) (fl : Flags) : Prop := ∃ (q : Vec) (t : State),
      exec i s = .next t ∧ PairOut s t part 2 g op.dst q n fl ∧
      ∀ j, j < 128 → dlane q j = if j < s.ctx.csr.dlen.toNat then f (dlane (s.ctx.dGet k) j) else 0
    let na := s.ctx.nGet (selNum op.xa)
    (s.Holds .d op.xa →
      (∃ t, exec (.dnget u op) s = .next t ∧ ScalarOut s t part 2 g op.nw op.dst (na.signExtend 64)
        (if na = 0x80000000#32 then fZD else if na = 0x7FFFFFFF#32 then fIV else 0)) ∧
      (na = 0x80000000#32 → zero (.dneg u op) fZD ∧ zero (.dmov u op) fZD ∧ (s.Holds .s op.xb → zero (.dscl u op) fZD)) ∧
      (na = 0x7FFFFFFF#32 → nad (.dneg u op) fIV ∧ nad (.dmov u op) fIV ∧ (s.Holds .s op.xb → nad (.dscl u op) fIV)) ∧
      (ordinary na → pair (.dneg u op) (selNum op.xa) (fun q => -q) na 0 ∧ pair (.dmov u op) (selNum op.xa) (fun q => q) na 0 ∧
        (s.Holds .s op.xb →
          let n := na.toInt + (s.valS op.xb).toInt
          (n ≤ -(2 ^ 31) → zero (.dscl u op) fUF) ∧
          (2 ^ 31 - 1 ≤ n → pair (.dscl u op) (selNum op.xa) (fun q => q) 0x7FFFFFFE#32 fOF) ∧
          (-(2 ^ 31) < n → n < 2 ^ 31 - 1 → pair (.dscl u op) (selNum op.xa) (fun q => q) (BitVec.ofInt 32 n) 0)))) ∧
    (s.Holds .s op.xa → s.Holds .d (.reg op.dst) →
      let x := (s.valS op.xa).setWidth 32
      let nd := s.ctx.nGet op.dst.toNat
      (x = 0x80000000#32 → zero (.dnset u op) 0) ∧ (x = 0x7FFFFFFF#32 → nad (.dnset u op) 0) ∧
      (ordinary x →
        (nd = 0x80000000#32 → zero (.dnset u op) fZD) ∧ (nd = 0x7FFFFFFF#32 → nad (.dnset u op) fIV) ∧
        (ordinary nd → ∃ t, exec (.dnset u op) s = .next t ∧
          if g = true then Posts s t part 2 [.norm op.dst.toNat x] none 0 else t = s)))

/-- R37, R40, R165, R166: the cosine of two pairs in DDOT's two forms and of nine pairs in DDOT8; DEXP and DCVT's raw and converted forms,
lane by lane. R35, R36, R39, R168: the instructions that renormalise: an operand or factor that is not finite gives NaD and IV alone;
otherwise the pair is the renormalisation of the exact vector, a zero operand adding ZD. -/
def Obligations.RenormalisedResults : Prop :=
  (∀ (u : VUnit) (op : ROp) (s : State), s.Holds .d op.xa →
     let c := s.ctx
     let g := c.guard op.pred op.pn
     let m := c.lanes op.pred op.pn
     let part := partOf u
     let code (k i : Nat) : Int := if i < c.csr.dlen.toNat then dlane (c.dGet k) i else 0
     let dot (a b : Nat) : Int := (List.range c.csr.dlen.toNat).foldl (fun t i => t + code a i * code b i) 0
     let cosine (a b : Nat) : Nat × Flags :=
       if c.nGet a = 0x7FFFFFFF#32 ∨ c.nGet b = 0x7FFFFFFF#32 then (0x7FC00000, fIV)
       else if c.nGet a = 0x80000000#32 ∨ c.nGet b = 0x80000000#32 then (0, fZD)
       else rneF32 (.fin (decide (dot a b < 0)) (dot a b).natAbs (-30))
     let a := selNum op.xa
     let mode := rmodeOf c.csr.rmode.toNat
     let spec := if m = 0 then 0 else if c.nGet a = 0x80000000#32 then fZD else if c.nGet a = 0x7FFFFFFF#32 then fIV else 0
     let expand (f : Fmt) (i r : Nat) : Nat × Flags := if c.csr.dlen.toNat ≤ i ∨ c.nGet a = 0x80000000#32 then (0, 0)
       else if c.nGet a = 0x7FFFFFFF#32 then (f.canonNaN, 0) else expandElem f mode r (dlane (c.dGet a) i) (c.nGet a).toInt
     let half (i r : Nat) : Nat × Flags := encodeFmt .bf16 mode .none r (.fin (decide (code a i < 0)) (code a i).natAbs (-15))
     let full (i : Nat) : Nat := (rneF32 (.fin (decide (code a i < 0)) (code a i).natAbs (-15))).1
     (s.Holds .d op.xb →
       let r := cosine a (selNum op.xb)
       (op.md.getLsbD 0 = true → ∃ t, exec (.ddot u op) s = .next t ∧
         ScalarOut s t part 6 g op.nw op.dst (BitVec.ofNat 64 r.1) r.2) ∧
       (op.md.getLsbD 0 = false → ∃ (x : Vec) (t : State), exec (.ddot u op) s = .next t ∧
         VectorOut s t part 6 m op.nw op.dst x (if m = 0 then 0 else r.2) ∧ ∀ k, k < 64 → vlane x k = r.1 % 2 ^ 32)) ∧
     ((∀ j, j < 8 → s.Holds .d (.reg (BitVec.ofNat 8 (selNum op.xb + j)))) → ∃ (x : Vec) (t : State),
       let r (k : Nat) : Nat × Flags := if k < 8 then cosine a (selNum op.xb + k) else (0, 0)
       exec (.ddot8 u op) s = .next t ∧ VectorOut s t part 6 m op.nw op.dst x (flagsOf 32 m fun k => (r k).2) ∧
       ∀ k, k < 64 → m.getLsbD k = true → vlane x k = (r k).1 % 2 ^ 32) ∧
     (op.md.getLsbD 0 = false → ∃ (gen : Word) (rs : Nat → Nat) (x : Vec) (t : State), exec (.dexp u op) s = .next t ∧
       VectorOut (s.setGen gen) t part 8 m op.nw op.dst x ((flagsOf 16 m fun i => (expand .bf16 i (rs i)).2) ||| spec) ∧
       (mode ≠ .stoc → gen = c.csr.rseed) ∧
       ∀ i, i < 128 → m.getLsbD (i / 2) = true → velem 16 x i = (expand .bf16 i (rs i)).1 % 2 ^ 16) ∧
     (op.md.getLsbD 0 = true → ∃ (gen : Word) (rs : Nat → Nat) (x y : Vec) (t : State), exec (.dexp u op) s = .next t ∧
       VectorPairOut (s.setGen gen) t part 8 m op.nw op.dst x y ((flagsOf 32 m fun i => (expand .f32 i (rs i)).2) |||
         (flagsOf 32 m fun i => (expand .f32 (i + 64) (rs (i + 64))).2) ||| spec) ∧
       (mode ≠ .stoc → gen = c.csr.rseed) ∧
       ∀ k, k < 64 → m.getLsbD k = true → vlane x k = (expand .f32 k (rs k)).1 % 2 ^ 32 ∧
         vlane y k = (expand .f32 (k + 64) (rs (k + 64))).1 % 2 ^ 32) ∧
     (bitsOf op.md.toNat 1 0 = 0 → ∃ (x : Vec) (t : State), exec (.dcvt u op) s = .next t ∧
       VectorOut s t part 4 m op.nw op.dst x 0 ∧ ∀ i, i < 128 → dlane x i = code a i) ∧
     (bitsOf op.md.toNat 1 0 = 1 → ∃ (gen : Word) (rs : Nat → Nat) (x : Vec) (t : State), exec (.dcvt u op) s = .next t ∧
       VectorOut (s.setGen gen) t part 4 m op.nw op.dst x (flagsOf 16 m fun i => (half i (rs i)).2) ∧
       (mode ≠ .stoc → gen = c.csr.rseed) ∧
       ∀ i, i < 128 → m.getLsbD (i / 2) = true → velem 16 x i = (half i (rs i)).1 % 2 ^ 16) ∧
     (bitsOf op.md.toNat 1 0 = 2 → ∃ (x y : Vec) (t : State), exec (.dcvt u op) s = .next t ∧
       VectorPairOut s t part 4 m op.nw op.dst x y 0 ∧ ∀ k, k < 64 → vlane x k = full k % 2 ^ 32 ∧ vlane y k = full (k + 64) % 2 ^ 32)) ∧
  (∀ (u : VUnit) (op : ROp) (s : State),
     let c := s.ctx
     let part := partOf u
     let g := c.guard op.pred op.pn
     let f32 := op.md.getLsbD 0
     let role : SKind := if f32 then .v2 else .v
     let a := selNum op.xa
     let b := selNum op.xb
     let n (k : Nat) := c.nGet k
     let nad (lat : Nat) (i : Instr) : Prop := ∃ t, exec i s = .next t ∧ PairOut s t part lat g op.dst 0 0x7FFFFFFF#32 fIV
     let done (lat : Nat) (i : Instr) (p : Pair) (fl : Flags) : Prop :=
       ∃ t, exec i s = .next t ∧ PairOut s t part lat g op.dst (dpack p.q) p.n (p.fl ||| fl)
     let src (x : Sel) : List XVal := (List.range c.csr.dlen.toNat).map fun i =>
       if f32 then (decodeFmt .f32 (if i < 64 then vlane (c.vGet (selNum x)) i else vlane (c.vGet (selNum x + 1)) (i - 64))).1
       else s.valE .bf16 x i
     let zeroes : Flags := if n a = 0x80000000#32 ∨ n b = 0x80000000#32 then fZD else 0
     let linear (i : Instr) (fa fb : XVal) : Prop :=
       (n a = 0x7FFFFFFF#32 ∨ n b = 0x7FFFFFFF#32 ∨ fa.isFin = false ∨ fb.isFin = false → nad 10 i) ∧
       (n a ≠ 0x7FFFFFFF#32 → n b ≠ 0x7FFFFFFF#32 → fa.isFin = true → fb.isFin = true →
         done 10 i (renorm (combine c a b fa fb)) zeroes)
     (s.Holds role op.xa →
       ((∃ v ∈ src op.xa, v.isFin = false) → nad 8 (.dnrm u op)) ∧
       ((∀ v ∈ src op.xa, v.isFin = true) → done 8 (.dnrm u op) (renorm (ratVec (src op.xa) 0)) 0)) ∧
     (s.Holds .d op.xa →
       (s.Holds .d op.xb →
         linear (.dadd u op) (.fin false 1 0) (.fin false 1 0) ∧ linear (.dsub u op) (.fin false 1 0) (.fin true 1 0) ∧
         (s.Holds .s op.xc →
           let f := (decodeFmt .f32 ((s.valS op.xc).toNat % 2 ^ 32)).1
           linear (.dlerp u op) (((XVal.fin false 1 0).add false f.neg).1) f)) ∧
       (s.Holds role op.xb →
         (n a = 0x7FFFFFFF#32 ∨ (∃ v ∈ src op.xb, v.isFin = false) → nad 10 (.dmulv u op)) ∧
         ((∀ v ∈ src op.xb, v.isFin = true) →
           (n a = 0x80000000#32 → ∃ t, exec (.dmulv u op) s = .next t ∧ PairOut s t part 10 g op.dst 0 0x80000000#32 fZD) ∧
           (n a ≠ 0x80000000#32 → n a ≠ 0x7FFFFFFF#32 →
             done 10 (.dmulv u op) (renorm (ratVec
               (((List.range c.csr.dlen.toNat).zip (src op.xb)).map fun x => ((XVal.ofInt (dlane (c.dGet a) x.1)).mul x.2).1)
               ((n a).toInt - 15 * 2 ^ 24))) 0)))))

/-! Loads, stores and atomics (R170 to R187, R207, R208). -/

/-- R172, R180, R208: LDS and LDV of the scratchpad: the loaded bytes, extended or converted, three bundles after the next; a misaligned
address and then one out of bounds trap at the bundle, and LDS under a guard of 0 does nothing. -/
def Obligations.DirectLoadResults : Prop :=
  ∀ (op : ROp) (s : State), s.Holds .s op.xa → s.Holds .s op.xb → s.cur.before = none → mdSpace op.md = .sp →
    let a := s.valS op.xa + s.valS op.xb
    let n := 2 ^ bitsOf op.md.toNat 7 6
    let g := s.ctx.guard op.pred op.pn
    let b := memRead s.mem (s.spPlace a) n
    (g = false → ∃ t, exec (.lds op) s = .next t ∧ t = s) ∧
    (g = true → s.Unwatched .sp true false [(0, a, n)] →
      (a.toNat % n ≠ 0 → ∃ t, exec (.lds op) s = .next t ∧ t = s.takeTrap ⟨partL, 0x07, 0x02, a⟩ 0) ∧
      (a.toNat % n = 0 → ¬s.SpIn a n → ∃ t, exec (.lds op) s = .next t ∧ t = s.takeTrap ⟨partL, 0x07, 0x01, a⟩ 0) ∧
      (a.toNat % n = 0 → s.SpIn a n → s.isPoisoned (s.spPlace a) n = false → ∃ t, exec (.lds op) s = .next t ∧
        (op.nw = true ∨ op.dst = 0 → t = s) ∧
        (op.nw = false → op.dst ≠ 0 → Posts s t partL 4
          [.s op.dst.toNat (if op.md.getLsbD 5 then BitVec.ofInt 64 (sextN (8 * n) b) else BitVec.ofNat 64 b)] none 0))) ∧
    (let mf := bitsOf op.md.toNat 3 0
     let ty := if mf = 0 then 0 else s.ctx.typ (bitsOf op.md.toNat 7 4)
     let wT := regWidth ty
     let wM := memWidth ty mf
     let total := 2048 / wT * wM / 8
     let m := s.ctx.lanes op.pred op.pn
     let e (i : Nat) : Nat := memElem s.mem (s.spPlace a) total wM i
     mf ≤ 9 → ty ≤ 9 → m = allOnes → s.Unwatched .sp true false [(0, a, total)] →
      a.toNat % Min.min total 64 = 0 → s.SpIn a total → s.isPoisoned (s.spPlace a) total = false →
      ∃ (x : Vec) (fl : Flags) (t : State), exec (.ldv op) s = .next t ∧
        (op.nw = false → Posts s t partL 4 [.v (s.ctx.vPhys op.dst.toNat) m x] none fl) ∧
        (op.nw = true → if fl = 0 then t = s else Posts s t partL 4 [] none fl) ∧
        (mf = 0 → fl = 0 ∧ ∀ k, k < 64 → vlane x k = e k) ∧
        (mf ≠ 0 → fl = (flagsOf wT m fun i => (convert (fmtN mf) (fmtN ty) .rne .max 0 (e i)).2) ∧
          ∀ i, i < 2048 / wT → velem wT x i = (convert (fmtN mf) (fmtN ty) .rne .max 0 (e i)).1 % 2 ^ wT))

/-- R174 to R177, R95, R325: LDA, LDX and LDG each push one entry: zero under a false guard, the scratchpad's bytes for a scalar of `sp`, an
entry that waits for its access, translated or still to be (R325), and one that carries its fault; a full channel waits, or traps when all
of it is popped and no lower cause stands. R178, R179: PFT changes no byte of memory and no context; QDROP discards n entries, or traps
where fewer are left beside the one that its bundle pops.  That the entry of a scratchpad load is READY at once is the model's choice (log
entry 47). -/
def Obligations.ChannelLoadResults : Prop :=
  ((∀ (i : Instr) (s : State) (ch : Bool) (q : MemReq),
     ((∃ op : RIOp, i = .lda op ∧ s.Holds .s op.xa ∧ ch = op.dst.getLsbD 0 ∧
         let a := s.valS op.xa + op.imm.signExtend 64
         q = if op.dst.getLsbD 1 then s.ctx.vectorReq op.md a (s.ctx.lanes op.pred op.pn) s.cur.scope
           else scalarReq op.md a (s.ctx.guard op.pred op.pn) s.cur.scope) ∨
       (∃ op : ROp, i = .ldx op ∧ s.Holds .s op.xa ∧ s.Holds .s op.xb ∧ ch = op.dst.getLsbD 0 ∧
         q = laneReq op.md (s.valS op.xa) (s.ctx.lanes op.pred op.pn) s.cur.scope fun k =>
           s.valS op.xa + BitVec.ofNat 64 k * s.valS op.xb) ∨
       (∃ op : ROp, i = .ldg op ∧ s.Holds .s op.xa ∧ s.Holds .v op.xb ∧ ch = op.dst.getLsbD 0 ∧
         q = laneReq op.md (s.valS op.xa) (s.ctx.lanes op.pred op.pn) s.cur.scope fun k =>
           s.valS op.xa + BitVec.ofInt 64 (sextN 32 (vlane (s.valV op.xb) k)))) →
     let x := s.ctx.chan ch
     let entry (st : QStat) (r : Option MemReq) : QEntry := ⟨q.isVec, 0, st, r, 0, s.cur.addr⟩
     (32 ≤ x.ents.length → ∃ t, exec i s = .next t ∧ (x.popped ≠ x.ents.length → t = s) ∧
       (x.popped = x.ents.length →
         let full : Trap := ⟨partL, 0x05, 0x02, if ch then 1 else 0⟩
         t = s.takeTrap (match (s.access partL q true false).2 with
           | .trap f => if f.key ≤ full.key then f else full
           | _ => full) 0)) ∧
     (x.ents.length < 32 →
       (q.active = false → ∃ t, exec i s = .next t ∧ Pushed s t ch (entry .ready none)) ∧
       (∀ u f, s.loadAccess partL q = (u, .trap f) → ∃ t, exec i s = .next t ∧ t = s.takeTrap f 0) ∧
       (∀ u f, s.loadAccess partL q = (u, .fault f) → ∃ t, exec i s = .next t ∧ Pushed u t ch (entry (.faulted f) (some q))) ∧
       (∀ u r, s.loadAccess partL q = (u, .ok r) → r.space ≠ .sp →
         ∃ t, exec i s = .next t ∧ Pushed u t ch (entry .pending (some r))))) ∧
   ∀ (op : RIOp) (s : State), s.Holds .s op.xa → s.cur.before = none → mdSpace op.md = .sp → op.dst.getLsbD 1 = false →
     let ch := op.dst.getLsbD 0
     let a := s.valS op.xa + op.imm.signExtend 64
     let n := 2 ^ bitsOf op.md.toNat 7 6
     let b := memRead s.mem (s.spPlace a) n
     s.ctx.guard op.pred op.pn = true → (s.ctx.chan ch).ents.length < 32 → s.Unwatched .sp true false [(0, a, n)] →
     (a.toNat % n ≠ 0 → ∃ t, exec (.lda op) s = .next t ∧ t = s.takeTrap ⟨partL, 0x07, 0x02, a⟩ 0) ∧
     (a.toNat % n = 0 → ¬s.SpIn a n → ∃ t, exec (.lda op) s = .next t ∧ t = s.takeTrap ⟨partL, 0x07, 0x01, a⟩ 0) ∧
     (a.toNat % n = 0 → s.SpIn a n → s.isPoisoned (s.spPlace a) n = false → ∃ e t, exec (.lda op) s = .next t ∧ Pushed s t ch e ∧
       e.stat = .ready ∧ e.vec = false ∧
       e.data = (if op.md.getLsbD 5 then BitVec.ofInt 64 (sextN (8 * n) b) else BitVec.ofNat 64 b).setWidth 2048)) ∧
  (∀ (op : ROp) (s : State),
     (s.Holds .s op.xa → s.Holds .s op.xb → ∃ t, exec (.pft op) s = .next t ∧ SameMem s t ∧ ∀ i k, t.ctxAt i k = s.ctxAt i k) ∧
     (let ch := op.dst.getLsbD 0
      let x := s.ctx.chan ch
      let own := if (s.cur.head ch).isSome = true ∧ s.ctx.mask.getLsbD 8 = false then 1 else 0
      let n := bitsOf op.md.toNat 5 0
      ∃ t, exec (.qdrop op) s = .next t ∧
       (s.ctx.guard op.pred op.pn = false → t = s) ∧
       (s.ctx.guard op.pred op.pn = true → x.ents.length < x.popped + own + n →
         t = s.takeTrap ⟨partL, 0x05, 0x03, if ch then 1 else 0⟩ 0) ∧
       (s.ctx.guard op.pred op.pn = true → x.popped + own + n ≤ x.ents.length →
         t = s.setCtx (s.ctx.setChan ch { x with popped := x.popped + n }))))

/-- R181 to R183: WSET loads a record from the scratchpad; WADV, LDW and STW step the walker, the last two whatever their guard; CSEL reads
it; a malformed walker and, for an access, an exhausted one raise the queue-misuse trap. -/
def Obligations.WalkerResults : Prop :=
  ∀ (op : ROp) (s : State),
    let g := s.ctx.guard op.pred op.pn
    let k := selNum op.xa
    let w := s.ctx.walker k
    let q := s.ctx.walkReq w op.pred op.pn s.cur.scope
    let step (part n : Nat) (u t : State) : Prop := Posts u t part 1 [.wstep k n] none 0
    let bad (part : Nat) (i : Instr) : Prop := w.bad = true → ∃ t, exec i s = .next t ∧
      t = s.takeTrap ⟨part, 0x05, 0x04, BitVec.ofNat 64 k⟩ 0
    let done (part : Nat) (i : Instr) : Prop := w.bad = false → w.exh = true → q.active = true → ∃ t, exec i s = .next t ∧
      t = s.takeTrap ⟨part, 0x05, 0x05, BitVec.ofNat 64 k⟩ 0
    (s.Holds .s op.xa → s.Holds .s op.xb → s.cur.before = none →
      let a := s.valS op.xa + s.valS op.xb
      g = true → s.Unwatched .sp true false [(0, a, 64)] →
      (a.toNat % 64 ≠ 0 → ∃ t, exec (.wset op) s = .next t ∧ t = s.takeTrap ⟨partL, 0x07, 0x02, a⟩ 0) ∧
      (a.toNat % 64 = 0 → s.SpIn a 64 → s.isPoisoned (s.spPlace a) 64 = false → ∃ t, exec (.wset op) s = .next t ∧
        let body := BitVec.ofNat 512 (memRead s.mem (s.spPlace a) 64)
        Posts s t partL 4 [.wset op.dst.toNat ⟨body, [0, 0, 0, 0, 0, 0], false, walkBad body⟩] none 0)) ∧
    (s.Holds .s op.xb → bad partL (.wadv op) ∧ (w.bad = false → ∃ t, exec (.wadv op) s = .next t ∧
      (g = false → t = s) ∧ (g = true → step partL (s.valS op.xb).toNat s t))) ∧
    (let sel := bitsOf op.md.toNat 2 0
     let x : Word := if sel < 6 then BitVec.ofNat 64 (w.idx.getD sel 0) else if sel = 6 then w.addr
      else BitVec.ofNat 64 ((if w.exh then 1 else 0) + (if w.bad then 2 else 0))
     ∃ t, exec (.csel op) s = .next t ∧
      if g = true ∧ op.nw = false ∧ op.dst ≠ 0 then Posts s t partL 2 [.s op.dst.toNat x] none 0 else t = s) ∧
    (let ch := op.dst.getLsbD 0
     let entry (st : QStat) (r : Option MemReq) : QEntry := ⟨q.isVec, 0, st, r, 0, s.cur.addr⟩
     (s.ctx.chan ch).ents.length < 32 →
      bad partL (.ldw op) ∧ done partL (.ldw op) ∧
      (w.bad = false → q.active = false → ∃ u t, exec (.ldw op) s = .next t ∧ Pushed s u ch (entry .ready none) ∧ step partL 1 u t) ∧
      (w.bad = false → w.exh = false → ∀ v r, s.loadAccess partL q = (v, .ok r) → r.space ≠ .sp →
        ∃ u t, exec (.ldw op) s = .next t ∧ Pushed v u ch (entry .pending (some r)) ∧ step partL 1 u t)) ∧
    (s.Holds (if w.vec then .v else .s) op.xc →
      bad partT (.stw op) ∧ done partT (.stw op) ∧
      (w.bad = false → q.active = false → ∃ t, exec (.stw op) s = .next t ∧ step partT 1 s t) ∧
      (w.bad = false → w.exh = false → w.vec = false → mdSpace w.lmod = .sp → g = true →
        let n := 2 ^ bitsOf w.lmod.toNat 7 6
        s.Unwatched .sp false true [(0, w.addr, n)] → w.addr.toNat % n = 0 → s.SpIn w.addr n →
        ∃ u t, exec (.stw op) s = .next t ∧ step partT 1 u t ∧ u.cores = s.cores ∧ u.cur = s.cur ∧
          memRead u.mem (s.spPlace w.addr) n = (s.valS op.xc).toNat % 2 ^ (8 * n) ∧ SameMemOutside s u (s.spPlace w.addr) n))

/-- R172, R184, R208: STS and STP store their bytes in the scratchpad and change no other byte and no context; elsewhere the store joins the
T queue and no byte of memory changes with it; a fault of a store is precise. R20, R171, R172, R184, R187: STV writes the converted elements
of its active lanes, raises their flags in the third cycle after its own and leaves every masked element and every other byte; STG writes
its active lanes, the highest standing where they meet, and no other byte. -/
def Obligations.StoreResults : Prop :=
  (∀ (i : Instr) (op : ROp) (s : State) (n : Nat) (x : Word),
     (i = .sts op ∧ s.Holds .s op.xc ∧ x = s.valS op.xc ∨ i = .stp op ∧ s.Holds .p op.xc ∧ x = s.valP op.xc ∧ bitsOf op.md.toNat 7 6 = 3) →
     s.Holds .s op.xa → s.Holds .s op.xb → n = 2 ^ bitsOf op.md.toNat 7 6 →
     let a := s.valS op.xa + s.valS op.xb
     let g := s.ctx.guard op.pred op.pn
     let q := scalarReq op.md a g s.cur.scope
     (g = false → ∃ t, exec i s = .next t ∧ t = s) ∧
     (mdSpace op.md = .sp → g = true → s.Unwatched .sp false true [(0, a, n)] →
       (a.toNat % n ≠ 0 → ∃ t, exec i s = .next t ∧ t = s.takeTrap ⟨partT, 0x07, 0x02, a⟩ 0) ∧
       (a.toNat % n = 0 → ¬s.SpIn a n → ∃ t, exec i s = .next t ∧ t = s.takeTrap ⟨partT, 0x07, 0x01, a⟩ 0) ∧
       (a.toNat % n = 0 → s.SpIn a n → ∃ t, exec i s = .next t ∧ memRead t.mem (s.spPlace a) n = x.toNat % 2 ^ (8 * n) ∧
         SameMemOutside s t (s.spPlace a) n ∧ t.cores = s.cores)) ∧
     (∀ u f, s.access partT q false true = (u, .trap f) ∨ s.access partT q false true = (u, .fault f) →
       ∃ t, exec i s = .next t ∧ t = s.takeTrap f 0) ∧
     (mdSpace op.md ≠ .sp → ∀ u r, s.access partT q false true = (u, .ok r) → ∃ t, exec i s = .next t ∧
       Queued u t (r.units (x.toNat % 2 ^ (8 * n)) (2 ^ (8 * n) - 1) []) r.scope 0)) ∧
  (∀ (op : ROp) (s : State), s.Holds .s op.xa → s.Holds .v op.xc → mdSpace op.md = .sp →
     let m := s.ctx.lanes op.pred op.pn
     (m = 0 → s.Holds .s op.xb → ∃ t, exec (.stv op) s = .next t ∧ t = s) ∧
     (let a := s.valS op.xa + s.valS op.xb
      let mf := bitsOf op.md.toNat 3 0
      let ty := if mf = 0 then 0 else s.ctx.typ (bitsOf op.md.toNat 7 4)
      let wT := regWidth ty
      let wM := memWidth ty mf
      let total := 2048 / wT * wM / 8
      let x := s.ctx.srcV s.cur op.xc
      let y (i : Nat) : Nat × Flags := if mf = 0 then (vlane x i, 0) else convert (fmtN ty) (fmtN mf) .rne .max 0 (velem wT x i)
      let fl := flagsOf wT m fun i => (y i).2
      s.Holds .s op.xb → mf ≤ 9 → ty ≤ 9 → m ≠ 0 →
      s.Unwatched .sp false true ((vecSpans m (laneBits wT wM)).map fun z => (z.1, a + BitVec.ofNat 64 z.1, z.2)) →
      (a.toNat % Min.min total 64 ≠ 0 → ∃ t, exec (.stv op) s = .next t ∧ t = s.takeTrap ⟨partT, 0x07, 0x02, a⟩ 0) ∧
      (a.toNat % Min.min total 64 = 0 → s.SpIn a total → ∃ u t, exec (.stv op) s = .next t ∧ u.cores = s.cores ∧ u.cur = s.cur ∧
       (fl = 0 → t = u) ∧ (fl ≠ 0 → t = u.setCtx { u.ctx with late := u.ctx.late ++ [⟨s.core.cycle + 3, fl, s.cur.addr, true⟩] }) ∧ SameMemOutside s u (s.spPlace a) total ∧
       ∀ i, i < 2048 / wT → memElem u.mem (s.spPlace a) total wM i =
         if m.getLsbD (i * wT / 32) then (y i).1 % 2 ^ wM else memElem s.mem (s.spPlace a) total wM i)) ∧
     (let n := 2 ^ bitsOf op.md.toNat 7 6
      let a (k : Nat) : Word := s.valS op.xa + BitVec.ofInt 64 (sextN 32 (vlane (s.valV op.xb) k))
      let x := s.valV op.xc
      s.Holds .v op.xb → bitsOf op.md.toNat 7 6 < 3 →
      s.Unwatched .sp false true ((laneList m a).map fun z => (z.1, z.2, n)) →
      (∀ k, k < 64 → m.getLsbD k = true → (a k).toNat % n = 0 ∧ s.SpIn (a k) n) →
      ∃ t, exec (.stg op) s = .next t ∧ t.cores = s.cores ∧
       (∀ k j, k < 64 → m.getLsbD k = true → j < n →
         (∀ l, k < l → l < 64 → m.getLsbD l = true → ¬((a l).toNat ≤ (a k).toNat + j ∧ (a k).toNat + j < (a l).toNat + n)) →
         memGet t.mem (s.spPlace (a k) + j) = BitVec.ofNat 8 (vlane x k / 2 ^ (8 * j))) ∧
       ∀ b, (∀ k, k < 64 → m.getLsbD k = true → b < s.spPlace (a k) ∨ s.spPlace (a k) + n ≤ b) → memGet t.mem b = memGet s.mem b))

/-- R185, R186: an atomic takes its place in q1 and waits for its close with its operand; a guard of 0 pushes zero; a misaligned address or
a fault traps at the bundle; nothing is read or written at issue. R185, R186, R304: when a close performs an atomic, its location takes the
new value of the table and no other byte changes. -/
def Obligations.AtomicResults : Prop :=
  (∀ (i : Instr) (k : AKind) (op : ROp) (s : State),
     [(.aadd op, .aadd), (.afadd op, .afadd), (.amin op, .amin), (.amax op, .amax), (.axch op, .axch), (.acas op, .acas),
       (.aand op, .aand), (.aor op, .aor), ((.axor op, .axor) : Instr × AKind)].contains (i, k) = true →
     s.Holds .s op.xa → s.Holds .s op.xc → (k = .acas → s.Holds .s op.xb) → s.ctx.q1.ents.length < 32 →
     let a := s.valS op.xa
     let n := 2 ^ bitsOf op.md.toNat 7 6
     let g := s.ctx.guard op.pred op.pn
     let q : MemReq := ⟨mdSpace op.md, .scalar n false, a, if g then 1 else 0, [], s.cur.scope, [], 0, false⟩
     (g = false → ∃ t, exec i s = .next t ∧ Pushed s t true ⟨false, 0, .ready, none, 0, s.cur.addr⟩) ∧
     (∀ u f, s.access partT q true true = (u, .trap f) ∨ s.access partT q true true = (u, .fault f) →
       ∃ t, exec i s = .next t ∧ t = s.takeTrap f 0) ∧
     (∀ u r, s.access partT q true true = (u, .ok r) → ∃ v t c, exec i s = .next t ∧
       Pushed u v true ⟨false, 0, .atomic, some r, 0, s.cur.addr⟩ ∧ t = v.setCtx { v.ctx with irrev := v.ctx.irrev ++ [.a c] } ∧
       c.kind = k ∧ c.n = n ∧ c.addr = a ∧ c.opnd = s.valS op.xc ∧ c.cmp = s.valS op.xb ∧ c.uns = op.md.getLsbD 5) ∧
     (mdSpace op.md = .sp → g = true → s.Unwatched .sp true true [(0, a, n)] →
       (a.toNat % n ≠ 0 → ∃ t, exec i s = .next t ∧ t = s.takeTrap ⟨partT, 0x07, 0x02, a⟩ 0) ∧
       (a.toNat % n = 0 → s.SpIn a n → ∃ t c, exec i s = .next t ∧ t.mem = s.mem ∧ t.ctx.irrev = s.ctx.irrev ++ [.a c] ∧
         c.kind = k ∧ c.place = s.spPlace a))) ∧
  (∀ (s : State) (core ctx : Nat) (a : ACmd), (a.n = 4 ∨ a.n = 8) → 2 ^ 48 ≤ a.place → a.place + 8 ≤ 2 ^ 60 →
     s.isPoisoned a.place a.n = false →
     a.mlog = false → (∀ p ∈ (s.coreAt core).stq, p.ctx ≠ ctx) →
     let t := s.performAtomic core ctx a
     let w := 8 * a.n
     let m := memRead s.mem a.place a.n
     let c := a.opnd.toNat % 2 ^ w
     let new := memRead t.mem a.place a.n
     let less (x y : Nat) : Prop := if a.uns then x < y else sextN w x < sextN w y
     SameMemOutside s t a.place a.n ∧
     (a.kind = .aadd → new = (m + c) % 2 ^ w) ∧
     (a.kind = .afadd → a.n = 4 → ∀ x, ((decodeFmt .f32 m).1.add false (decodeFmt .f32 c).1).1 = x →
       (x.isZero = true → new = 0) ∧ (x.isZero = false → new = (rneF32 x).1 % 2 ^ 32)) ∧
     (a.kind = .amin → (less c m → new = c) ∧ (¬less c m → new = m)) ∧
     (a.kind = .amax → (less m c → new = c) ∧ (¬less m c → new = m)) ∧
     (a.kind = .axch → new = c) ∧ (a.kind = .acas → new = if m = a.cmp.toNat % 2 ^ w then c else m) ∧
     (a.kind = .aand → new = m &&& c) ∧ (a.kind = .aor → new = m ||| c) ∧ (a.kind = .axor → new = m ^^^ c))

/-! The matrix slot (R188 to R205). -/

/-- R188 to R190, R193, R196, R200 to R205: each held matrix command, when what it names is mapped, configured, aligned and in bounds, joins
the commands held in the segment with its operands captured at issue; an unmapped slot and an unconfigured tile trap; a guard of 0 leaves no
command. A tile whose restore would find poison (R197) and a drain or a TSAVE that would race (R243) are not meant. R189, R195, R197 to R199, R202: the
matrix operations that act at issue: OMCLAIM maps every name it asks for or none, TCFG claims, reshapes or releases a tile, TSTAT reads its
state, TROW and TCOL read a resident tile's row and column. -/
def Obligations.MatrixCommandResults : Prop :=
  (∀ (op : ROp) (s : State),
     let c := s.ctx
     let g := c.guard op.pred op.pn
     let d := op.dst.toNat
     let ta := selNum op.xa
     let tc := selNum op.xc
     let names := (List.range (bitsOf op.md.toNat 6 0)).map fun i => ta + i
     let mapped (o : Nat) : Prop := (c.slotPhys o).isSome = true
     let shaped (t : Nat) : Prop := c.tshp t ≠ 0
     let ready (t : Nat) : Prop := shaped t ∧ s.restorePoison true t = none
     let held (i : Instr) (kind : MKind) (tile : Option Nat) (place : Nat) : Prop := ∃ t k, exec i s = .next t ∧ HeldOne s t (.m k) ∧
       k.kind = kind ∧ k.tile = tile ∧ k.place = place ∧ k.shape = (tile.map c.tshp).getD 0
     let none_ (i : Instr) : Prop := ∃ t, exec i s = .next t ∧ t = s
     let tunc (i : Instr) (t : Nat) : Prop := ∃ u, exec i s = .next u ∧ u = s.takeTrap ⟨partM, 0x06, 0, BitVec.ofNat 64 t⟩ 0
     let a := s.valS op.xa + s.valS op.xb
     let at_ (a : Word) (n : Nat) : Prop := a.toNat % 64 = 0 ∧ s.SpIn a n
     let m := c.lanes op.pred op.pn
     ((∀ o ∈ names, mapped o) → g = true → held (.omrel op) (.omrel names (names.filterMap fun o => tfind c.omap o)) none 0) ∧
     (g = true → ∀ o, names.find? (fun o => (c.slotPhys o).isNone) = some o →
       ∃ t, exec (.omrel op) s = .next t ∧ t = s.takeTrap ⟨partM, 0x07, 0x05, BitVec.ofNat 64 o⟩ 0) ∧
     (g = true → ready d → held (.tzero op) .tzero (some d) 0) ∧ (g = true → ¬shaped d → tunc (.tzero op) d) ∧
     (g = true → ready ta → (s.saveRace true ta).2 = none → held (.tsave op) .tsave (some ta) 0) ∧
     (g = true → ¬shaped ta → tunc (.tsave op) ta) ∧
     (g = false → none_ (.omrel op) ∧ none_ (.tzero op) ∧ none_ (.tsave op)) ∧
     (s.Holds .s op.xa → s.Holds .s op.xb → g = true →
       let in_ (n : Nat) (wr : Bool) (pa : Nat) : Prop := (s.heldAccess (mdSpace op.md) a n wr true).2 = .inr pa
       (∀ pa, in_ 4096 false pa → mapped d → held (.omld op) (.omld ((c.slotPhys d).getD 0)) none pa) ∧
       (∀ pa, in_ 4096 true pa → mapped tc → held (.omst op) (.omst ((c.slotPhys tc).getD 0)) none pa) ∧
       (∀ pa, in_ (shpBytes (c.tshp d)) false pa → ready d → held (.tld op) .tld (some d) pa) ∧
       (∀ pa, in_ (shpBytes (c.tshp tc)) true pa → ready tc → held (.tst op) .tst (some tc) pa)) ∧
     (s.Holds .s op.xa → s.Holds .s op.xb → mdSpace op.md = .sp →
       (g = true → at_ a 4096 →
         (mapped d → held (.omld op) (.omld ((c.slotPhys d).getD 0)) none (s.spPlace a)) ∧
         (mapped tc → held (.omst op) (.omst ((c.slotPhys tc).getD 0)) none (s.spPlace a))) ∧
       (g = true → ready d → at_ a (shpBytes (c.tshp d)) → held (.tld op) .tld (some d) (s.spPlace a)) ∧
       (g = true → ready tc → at_ a (shpBytes (c.tshp tc)) → held (.tst op) .tst (some tc) (s.spPlace a)) ∧
       (g = false → none_ (.omld op) ∧ none_ (.omst op) ∧ none_ (.tld op) ∧ none_ (.tst op))) ∧
     (s.Holds .s op.xb → s.Holds .s op.xc →
       (g = true → ready ta → at_ (s.valS op.xb) 64 →
         (s.drainRace ta (s.valS op.xb) (bitsOf (s.valS op.xc).toNat 63 32) (bitsOf (s.valS op.xc).toNat 31 0)).2 = none →
         held (.tdrain op) (.tdrain (op.md.getLsbD 0) (bitsOf (s.valS op.xc).toNat 63 32) (bitsOf (s.valS op.xc).toNat 31 0)) (some ta)
           (s.spPlace (s.valS op.xb))) ∧
       (g = false → none_ (.tdrain op))) ∧
     (s.Holds .v op.xa → s.Holds .s op.xb →
       (m ≠ 0 → ready d →
         held (.trowW op) (.rowW (s.valS op.xb).toNat (s.valV op.xa) m) (some d) 0 ∧
         held (.tcolW op) (.colW (s.valS op.xb).toNat (s.valV op.xa) m) (some d) 0) ∧
       (m ≠ 0 → ¬shaped d → tunc (.trowW op) d ∧ tunc (.tcolW op) d) ∧ (m = 0 → none_ (.trowW op) ∧ none_ (.tcolW op))) ∧
     (s.Holds .s op.xc →
       let k := (s.valS op.xc).toNat
       let fa := bitsOf op.md.toNat 3 0
       let oa := (c.slotPhys ta).getD 0
       let ob := (c.slotPhys (selNum op.xb)).getD 0
       (g = true → mapped ta → mapped (selNum op.xb) → ready d → 1 ≤ k →
         (k ≤ (mmaShape fa).1 → shpInt (c.tshp d) = decide (fa = 8) →
           held (.mma op) (.mma oa ob k fa (bitsOf op.md.toNat 7 4) (op.md.getLsbD 8)) (some d) 0) ∧
         (k ≤ 64 → shpInt (c.tshp d) = false → held (.mmaq op) (.mmaq oa ob k (op.md.getLsbD 8)) (some d) 0)) ∧
       (g = false → none_ (.mma op) ∧ none_ (.mmaq op)))) ∧
  (∀ (op : ROp) (s : State),
     let c := s.ctx
     let g := c.guard op.pred op.pn
     let ta := selNum op.xa
     let td := op.dst.toNat
     let names := (List.range (bitsOf op.md.toNat 6 0)).map fun i => ta + i
     let need := names.filter fun o => (tfind c.omap o).isNone
     let out (u t : State) (lat : Nat) (x : Word) : Prop := (op.nw = true ∨ op.dst = 0 → t = u) ∧
       (op.nw = false → op.dst ≠ 0 → Posts u t partM lat [.s td x] none 0)
     (g = false → ∃ t, exec (.omclaim op) s = .next t ∧ t = s) ∧
     (g = true → (∀ o ∈ names, ∀ p, c.slotPhys o = some p → s.isPoisoned (omBase s.cur.core p) 4096 = false) →
       (∀ o ∈ names, c.heldRel.contains o = false) →
       (s.core.omFree.length < need.length → ∃ t, exec (.omclaim op) s = .next t ∧ out s t 2 0) ∧
       (need.length ≤ s.core.omFree.length → ∃ u t, exec (.omclaim op) s = .next t ∧ out u t 2 1 ∧
         (∀ o ∈ names, (tfind u.ctx.omap o).isSome = true) ∧
         (∀ o ∈ need, ∃ p ∈ s.core.omFree, tfind u.ctx.omap o = some p ∧
           ∀ b, omBase s.cur.core p ≤ b → b < omBase s.cur.core p + 4096 → memGet u.mem b = 0) ∧
         ∀ b, (∀ p ∈ s.core.omFree, b < omBase s.cur.core p ∨ omBase s.cur.core p + 4096 ≤ b) → memGet u.mem b = memGet s.mem b)) ∧
     (s.Holds .s op.xa →
       let x := s.valS op.xa
       let v := x.toNat
       (g = false → ∃ t, exec (.tcfg op) s = .next t ∧ t = s) ∧
       (g = true → ¬(v = 0 ∨ v < 2 ^ 12 ∧ (bitsOf v 11 10 = 1 ∨ bitsOf v 11 10 = 2)) → ∃ t, exec (.tcfg op) s = .next t ∧
         t = s.takeTrap ⟨partM, 0x01, 0x05, BitVec.ofNat 64 (s.cur.addr.toNat / 64 * 64 + partM)⟩ 0) ∧
       (g = true → v < 2 ^ 12 ∧ (bitsOf v 11 10 = 1 ∨ bitsOf v 11 10 = 2) → s.tileWaits td false = false →
         (∀ r, s.myTile td = some r → ∃ t, exec (.tcfg op) s = .next t ∧ Posts s t partM 1 [.csr (8 + td) x] none 0) ∧
         (s.myTile td = none → ∀ p, s.core.freePhys = some p → ∃ u t r, exec (.tcfg op) s = .next t ∧
           Posts u t partM 1 [.csr (8 + td) x] none 0 ∧ u.core.tiles = s.core.tiles ++ [r] ∧
           r.ctx = s.cur.ctx ∧ r.t = td ∧ r.phys = some p ∧ r.stat = .dirty ∧
           (∀ b, tileBase s.cur.core p ≤ b → b < tileBase s.cur.core p + 4096 → memGet u.mem b = 0) ∧
           SameMemOutside s u (tileBase s.cur.core p) 4096) ∧
         (s.myTile td = none → s.core.freePhys = none → ∃ t, exec (.tcfg op) s = .next t ∧
           t = s.setCtx { s.ctx with claim := true })) ∧
       (g = true → v = 0 → s.tileWaits td false = false → ∃ u t, exec (.tcfg op) s = .next t ∧
         Posts u t partM 1 [.csr (8 + td) 0] none 0 ∧ u.myTile td = none ∧ u.mem = s.mem ∧ u.ctx.derr = c.derr)) ∧
     (g = true → s.tilePoison g ta = none → s.tileWaits ta false = false →
       let r := s.myTile ta
       let code : Nat := match r with | none => 0 | some x => match x.stat with | .clean => 1 | .dirty => 2 | .saved => 3
       let x := (if c.derr.getLsbD ta then 2 ^ 24 else 0) +
         Min.min 16 (s.core.pendingOn s.cur.ctx c.tk.serial ta) * 2 ^ 16 + code * 2 ^ 14 + (c.tshp ta).toNat
       ∃ u t, exec (.tstat op) s = .next t ∧ out u t 2 (BitVec.ofNat 64 x) ∧ u.mem = s.mem ∧ (op.md.getLsbD 0 = false → u = s) ∧
         (op.md.getLsbD 0 = true → u.ctx.derr.getLsbD ta = false ∧ ∀ k, k ≠ ta → u.ctx.derr.getLsbD k = c.derr.getLsbD k)) ∧
     (g = false → s.tilePoison g ta = none → ∃ t, exec (.tstat op) s = .next t ∧ t = s) ∧
     (s.Holds .s op.xb →
       let m := c.lanes op.pred op.pn
       let sh := c.tshp ta
       let b := (s.valS op.xb).toNat
       m ≠ 0 → sh ≠ 0 → s.tileWaits ta true = false → ∀ r p, s.myTile ta = some r → r.phys = some p →
       s.isPoisoned (tileBase s.cur.core p) 4096 = false →
       let done (i : Instr) (v : Nat → Nat) : Prop := ∃ (x : Vec) (t : State), exec i s = .next t ∧
         (op.nw = true → t = s) ∧ (op.nw = false → Posts s t partM 4 [.v (c.vPhys td) m x] none 0) ∧ ∀ k, k < 64 → vlane x k = v k
       let entry (row col : Nat) : Nat := memRead s.mem (tileBase s.cur.core p + 128 * row + 4 * col) 4
       (done (.trow op) fun k => if k < shpCols sh ∧ b < shpRows sh then entry b k else 0) ∧
       done (.tcol op) fun k => if k < shpRows sh ∧ b < shpCols sh then entry k b else 0))

/-! Commands of the C and Y slots (R289 to R296, R409 to R415, R420 to R433). -/

/-- R136, R237, R289 to R296, R359, R444: the commands of the die, the cluster and the trace: each is held or kept with its operands as read at
issue, when its record lies in bounds, its handle is owned and its permission is given; without them it traps; a guard of 0 leaves none. 
TRAPV = 0 of a permission trap is the model's choice (log entry 59). -/
def Obligations.DieCommandResults : Prop :=
  (∀ (op : COp) (s : State), s.Holds .s (.reg op.ca) → s.Holds .s (.reg op.cb) →
    let c := s.ctx
    let g := c.guard op.pred op.pn
    let a := c.sGet op.ca.toNat
    let b := c.sGet op.cb.toNat
    let h := op.cc.toNat
    let cmd (k : CCmd) (kind : CKind) : Prop := k.kind = kind ∧ k.a = a ∧ k.b = b ∧ k.md = op.md.toNat ∧ k.scope = s.cur.scope ∧
      k.addr = s.cur.addr
    let held (i : Instr) (kind : CKind) : Prop := ∃ t k, exec i s = .next t ∧ HeldOne s t (.c k) ∧ cmd k kind
    let none_ (i : Instr) : Prop := ∃ t, exec i s = .next t ∧ t = s
    let perm (i : Instr) : Prop := ∃ t, exec i s = .next t ∧ t = s.takeTrap ⟨partC, 0x09, 0x04, 0⟩ 0
    let sp := spaceOf (op.md.toNat % 4)
    let rec_ (n : Nat) : Prop := a.toNat % n = 0 ∧ (sp ≠ .g → s.inBounds s.cur.core c sp a.toNat n = true) ∧
      (sp = .g → ∃ p, (s.xlate s.cur.core (s.xctxOf c) .read a).2 = .ok p)
    (s.Holds .s (.reg op.cc) →
      (g = false → none_ (.copy op) ∧ none_ (.copym op) ∧ none_ (.gath op) ∧ none_ (.scad op)) ∧
      (g = true → a.toNat % 128 ≠ 0 → ∃ t, exec (.copy op) s = .next t ∧ t = s.takeTrap ⟨partC, 0x07, 0x02, a⟩ 0) ∧
      (g = true → rec_ 128 → held (.copy op) .copy ∧ (s.descTrap b = none → held (.copym op) .copym)) ∧
      (g = true → rec_ 64 → held (.gath op) .gath ∧ held (.scad op) .scad)) ∧
    (c.ownsHandle h = false → ∃ t, exec (.hrel op) s = .next t ∧ t = s.takeTrap ⟨partC, 0x09, 0x02, BitVec.ofNat 64 h⟩ 0) ∧
    (c.ownsHandle h = true → (g = false → none_ (.hrel op)) ∧
      (g = true → ∃ t k, exec (.hrel op) s = .next t ∧ HeldOne s t (.c k) ∧ k.kind = .hrel ∧ k.c = BitVec.ofNat 64 h)) ∧
    (s.permBit c 5 = false → perm (.taskl op)) ∧
    (s.permBit c 5 = true → (g = false → none_ (.taskl op)) ∧ (g = true → held (.taskl op) .taskl)) ∧
    (s.permBit c 6 = false → perm (.tasksSetpri op) ∧ perm (.tasksSusp op) ∧ perm (.tasksResume op)) ∧
    (s.permBit c 6 = true →
      (g = false → none_ (.tasksSetpri op) ∧ none_ (.tasksSusp op) ∧ none_ (.tasksResume op)) ∧
      (g = true → held (.tasksSetpri op) .tasksSetpri ∧ held (.tasksSusp op) .tasksSusp ∧ held (.tasksResume op) .tasksResume)) ∧
    (3 ≤ bitsOf op.md.toNat 2 0 → s.permBit c 7 = false → perm (.canc op)) ∧
    (bitsOf op.md.toNat 2 0 < 3 ∨ s.permBit c 7 = true → (g = false → none_ (.canc op)) ∧ (g = true → held (.canc op) .canc)) ∧
    (s.permBit c 9 = false → perm (.tmrk op)) ∧
    (s.permBit c 9 = true → (g = false → none_ (.tmrk op)) ∧
      (g = true → ∃ t k, exec (.tmrk op) s = .next t ∧ KeptOne s t (.c k) ∧ cmd k .tmrk))) ∧
  ∀ (op : YOp) (s : State),
    let c := s.ctx
    let g := c.guard op.pred op.pn
    (s.Holds .s (.reg op.yr) → (g = false → ∃ t, exec (.trig op) s = .next t ∧ t = s) ∧
      (g = true → ∃ t k, exec (.trig op) s = .next t ∧ HeldOne s t (.c k) ∧ k.kind = .trig ∧ k.a = c.sGet op.yr.toNat ∧
        k.md = op.imm.toNat)) ∧
    (op.yr.toNat < c.tk.bars.length → (g = false → ∃ t, exec (.bara op) s = .next t ∧ t = s) ∧
      (g = true → ∃ t k, exec (.bara op) s = .next t ∧ HeldOne s t (.c k) ∧ k.kind = .bara ∧ k.b = op.yr.setWidth 64 ∧
        k.md = op.imm.toNat)) ∧
    (c.tk.bars.length ≤ op.yr.toNat → ∃ t, exec (.bara op) s = .next t ∧
      t = s.takeTrap ⟨partY, 0x01, 0x06, BitVec.ofNat 64 (s.cur.addr.toNat / 64 * 64 + partY)⟩ 0)

/-- R409 to R415, R420, R428 to R433, R363, R444: the commands of the fabric and of collectives: without their feature they are undefined
opcodes, without their permission they trap; with aligned and bounded operands they are held, or kept for step 3 of the close.  TRAPV = 0 of
a permission trap is the model's choice (log entry 59). -/
def Obligations.FabricCommandResults : Prop :=
  ∀ (op : COp) (s : State), s.Holds .s (.reg op.ca) → s.Holds .s (.reg op.cb) →
    let c := s.ctx
    let g := c.guard op.pred op.pn
    let a := c.sGet op.ca.toNat
    let b := c.sGet op.cb.toNat
    let h := op.cc.toNat
    let md := op.md.toNat
    let cmd (k : CCmd) (kind : CKind) : Prop := k.kind = kind ∧ k.a = a ∧ k.b = b ∧ k.md = md ∧ k.scope = s.cur.scope ∧ k.addr = s.cur.addr
    let held (i : Instr) (kind : CKind) : Prop := ∃ t k, exec i s = .next t ∧ HeldOne s t (.c k) ∧ cmd k kind
    let kept (i : Instr) (kind : CKind) : Prop := ∃ t k, exec i s = .next t ∧ KeptOne s t (.c k) ∧ cmd k kind
    let none_ (i : Instr) : Prop := ∃ t, exec i s = .next t ∧ t = s
    let ill (i : Instr) : Prop := ∃ t, exec i s = .next t ∧
      t = s.takeTrap ⟨partC, 0x01, 0x01, BitVec.ofNat 64 (s.cur.addr.toNat / 64 * 64 + partC)⟩ 0
    let perm (i : Instr) : Prop := ∃ t, exec i s = .next t ∧ t = s.takeTrap ⟨partC, 0x09, 0x04, 0⟩ 0
    let local_ (sp : Space) (x : Word) (n : Nat) : Prop := sp = .g ∨ s.inBounds s.cur.core c sp x.toNat n = true
    let remote (x : Word) : Prop := bitsOf x.toNat 63 63 = 0 ∧ inDomain s.nodecfg s.domain (bitsOf x.toNat 62 48) = true
    let f (n : Nat) : Bool := s.feat.getLsbD n
    let p (n : Nat) : Bool := s.permBit c n
    let n := 16 * (bitsOf md 7 0 + 1)
    let sp := spaceOf (bitsOf md 9 8)
    (f 4 = false → ill (.pkb op) ∧ ill (.pksnd op) ∧ ill (.pkprkCopy op) ∧ ill (.pkprkTake op) ∧ ill (.pkprkRetry op) ∧
      ill (.pkprkDrop op)) ∧
    (f 3 = false → ill (.rld op) ∧ ill (.rst op) ∧ ill (.ffn op)) ∧
    (f 5 = false → ill (.coll op) ∧ ill (.resh op) ∧ ill (.cbkt op) ∧ ill (.cwgt op)) ∧
    (f 4 = true → p 2 = false → perm (.pksnd op) ∧ (g = false → perm (.pkb op))) ∧
    (f 4 = true → p 2 = true →
      (g = false → none_ (.pkb op) ∧ none_ (.pksnd op)) ∧ (g = true → kept (.pksnd op) .pksnd) ∧
      (g = true → a.toNat % 16 = 0 → b.toNat % 16 = 0 → local_ (spaceOf (bitsOf md 4 3)) a 112 →
        s.pkbWatch (spaceOf (bitsOf md 4 3)) a b = none → held (.pkb op) .pkb) ∧
      (c.ownsHandle h = true →
        (g = false → none_ (.pkprkCopy op) ∧ none_ (.pkprkTake op) ∧ none_ (.pkprkRetry op) ∧ none_ (.pkprkDrop op)) ∧
        (g = true → kept (.pkprkRetry op) .pkprkRetry ∧ kept (.pkprkDrop op) .pkprkDrop) ∧
        (g = true → a.toNat % 64 = 0 → local_ (spaceOf (bitsOf md 3 2)) a 640 →
          kept (.pkprkCopy op) .pkprkCopy ∧ kept (.pkprkTake op) .pkprkTake))) ∧
    (f 3 = true → c.ownsHandle h = true →
      (p 0 = true → (g = false → none_ (.rld op) ∧ none_ (.rst op)) ∧
        (g = true → a.toNat % 16 = 0 → b.toNat % 16 = 0 →
          (local_ sp b n → remote a → kept (.rld op) .rld) ∧ (local_ sp a n → remote b → kept (.rst op) .rst))) ∧
      (p 1 = true → (g = false → none_ (.ffn op)) ∧ (g = true → a.toNat % 8 = 0 → remote a → kept (.ffn op) .ffn))) ∧
    (s.Holds .s (.reg op.cc) →
      let x := c.sGet op.cc.toNat
      let r : Word := BitVec.ofNat 64 (bitsOf x.toNat 18 0)
      (f 3 = false → ill (.faa op)) ∧ (f 3 = true → p 1 = false → g = false → perm (.faa op)) ∧
      (f 3 = true → p 1 = true → (g = false → none_ (.faa op)) ∧
        (g = true → bitsOf x.toNat 31 19 = 0 → bitsOf x.toNat 63 39 = 0 → a.toNat % (if op.md.getLsbD 0 then 4 else 8) = 0 →
          r.toNat % 8 = 0 → s.inBounds s.cur.core c .sp r.toNat 8 = true → remote a → c.ownsHandle (bitsOf x.toNat 38 32) = true →
          kept (.faa op) .faa))) ∧
    (f 5 = true → p 3 = false → g = false → perm (.coll op) ∧ perm (.resh op) ∧ perm (.cbkt op)) ∧
    (f 5 = true → p 3 = true →
      let sp := spaceOf (bitsOf md 1 0)
      (g = false → none_ (.coll op) ∧ none_ (.resh op) ∧ none_ (.cbkt op)) ∧
      (g = true → a.toNat % 64 = 0 → sp ≠ .g →
        (s.inBounds s.cur.core c sp a.toNat 64 = true → held (.coll op) .coll) ∧
        (s.inBounds s.cur.core c sp a.toNat 128 = true → held (.resh op) .resh)) ∧
      (g = true → b.toNat ≤ 15 → held (.cbkt op) .cbkt)) ∧
    (f 5 = true → p 4 = true → (g = false → none_ (.cwgt op)) ∧
      (g = true → a.toNat < 2 ^ 12 → bitsOf a.toNat 3 0 ≠ 0 → bitsOf a.toNat 7 4 ≠ 0 → bitsOf a.toNat 11 8 ≠ 0 →
        held (.cwgt op) .cwgt))

/-! The Y slot (R128 to R138, R237 to R242). -/

/-- R129, R130, R238, R242: under a true guard each wait is recorded for step 5 of the close, with its operand read at issue; a handle,
counter or barrier that is not the task's traps. -/
def Obligations.WaitResults : Prop :=
  ∀ (op : YOp) (s : State),
    let c := s.ctx
    let g := c.guard op.pred op.pn
    let h := op.yr.toNat
    let k := bitsOf op.imm.toNat 11 0
    let waits (i : Instr) (w : Wait) : Prop := ∃ t, exec i s = .next t ∧
      t = if g = true then s.setCtx { s.ctx with waitOp := some w, waitHit := false } else s
    let st : HState := match bitsOf op.imm.toNat 1 0 with | 0 => .free | 1 => .filling | 2 => .full | _ => .draining
    (c.ownsHandle h = true → waits (.waith op) (.handle h st s.cur.scope)) ∧
    (c.ownsHandle h = false → ∃ t, exec (.waith op) s = .next t ∧ t = s.takeTrap ⟨partY, 0x09, 0x02, BitVec.ofNat 64 h⟩ 0) ∧
    (s.Holds .s (.reg op.yr) →
      (c.ownsCounter k = true → waits (.waitc op) (.counter k (c.sGet h).toNat s.cur.scope)) ∧
      (c.ownsCounter k = false → ∃ t, exec (.waitc op) s = .next t ∧ t = s.takeTrap ⟨partY, 0x09, 0x03, BitVec.ofNat 64 k⟩ 0)) ∧
    (h < c.tk.bars.length → waits (.barw op) (.barrier h s.cur.scope)) ∧
    (c.tk.bars.length ≤ h → ∃ t, exec (.barw op) s = .next t ∧
      t = s.takeTrap ⟨partY, 0x01, 0x06, BitVec.ofNat 64 (s.cur.addr.toNat / 64 * 64 + partY)⟩ 0) ∧
    waits (.rdv op) (.rdv s.cur.scope)

/-- R131, R210, R245, R305, R306, R417: while its condition fails, or under a false guard, an ordering operation leaves everything; the
condition at fabric scope asks for the acknowledgements of writes through apertures. When it holds it ends the context's race-detection
region, so that no record of its slot remains; an acquire wider than the core empties the L1, and a FENCEX that names the core path those of
its scope; registers and memory stay. R88, R89, R133, R134, R137, R138: CHK stops its bundle with the SDE cause just when its guard holds
and its comparison fails, and otherwise changes nothing; YLD marks the next close; FPCLR and FPSNAP write for the next bundle.  That FENCEX
empties the L1s of its scope is the model's choice (log entry 169). -/
def Obligations.OrderingAndStatusResults : Prop :=
  (∀ (op : YOp) (s : State),
     let g := s.ctx.guard op.pred op.pn
     let core := s.cur.core
     let loads := s.ctx.q0.ents.any (fun e => e.stat == .pending) ||
       s.ctx.q1.ents.any (fun e => e.stat == .pending || e.stat == .atomic)
     let stores := s.core.stq.any fun p => p.ctx == s.cur.ctx && p.serial == s.ctx.tk.serial
     let acks := decide (4 ≤ s.cur.scope) && s.core.acks.any fun a =>
       a.ctx == s.cur.ctx && a.serial == s.ctx.tk.serial && a.writes
     let core_ (x : Nat) : Bool := bitsOf x 2 0 == 0 || bitsOf x 5 3 == 0
     let orders (i : Instr) (waits : Bool) (l1 : State → Prop) : Prop :=
       (g = false ∨ waits = true → ∃ t, exec i s = .next t ∧ t = s) ∧
       (g = true → waits = false → ∃ t, exec i s = .next t ∧ t.mem = s.mem ∧ (∀ j k, t.ctxAt j k = s.ctxAt j k) ∧
         (∀ sl, s.raceSlot core s.cur.ctx = some sl → ∀ l, clBase (clusterOf core) / 2 ^ 22 = l * 64 / 2 ^ 22 →
           (tget RaceRec.zero t.races l).rd.contains sl = false ∧ (tget RaceRec.zero t.races l).wr ≠ .slot sl) ∧ l1 t)
     (orders (.acq op) loads fun t => if s.cur.scope = 0 then t.cores = s.cores else (t.coreAt core).l1 = []) ∧
     (orders (.rel op) (loads || stores || acks) fun t => t.cores = s.cores) ∧
     (orders (.fence op) (loads || stores || acks) fun t => t.cores = s.cores) ∧
     orders (.fencex op) (core_ op.imm.toNat && (stores || acks)) fun t =>
       if core_ op.imm.toNat then ∀ j, if inScope s.cur.scope core j = true then (t.coreAt j).l1 = [] else t.coreAt j = s.coreAt j
       else t.cores = s.cores) ∧
  (∀ (op : YOp) (s : State),
     let c := s.ctx
     let g := c.guard op.pred op.pn
     let ya := (chkFirst op.yr).getD (.reg 0)
     let xb := (selOfBits (BitVec.ofNat 10 (bitsOf op.imm.toNat 12 3))).getD (.reg 0)
     let cc := bitsOf op.imm.toNat 2 0
     (s.Holds .s ya → s.Holds .s xb →
       let p := c.srcVal s.cur ya
       let q := c.srcVal s.cur xb
       let a := s.valS ya
       let b := s.valS xb
       let check (h : Prop) : Prop := (g = false ∨ h → ∃ t, exec (.chk op) s = .next t ∧ t = s) ∧
         (g = true → ¬h → ∃ t, exec (.chk op) s = .next t ∧ t = s.takeTrap ⟨partY, 0x0D, 0, 0⟩ 0)
       ((∀ x y, p = .scalar x → q = .scalar y → (cc = 0 → check (x = y)) ∧ (cc = 1 → check (x ≠ y))) ∧
         (∀ x, (p = .vector x ∨ q = .vector x) → (cc = 0 → check (p.asVector = q.asVector)) ∧ (cc = 1 → check (p.asVector ≠ q.asVector))) ∧
         (cc = 2 → check (a.toInt < b.toInt)) ∧ (cc = 3 → check (a.toInt ≤ b.toInt)) ∧
         (cc = 4 → check (a.toNat < b.toNat)) ∧ (cc = 5 → check (a.toNat ≤ b.toNat)))) ∧
     (∃ t, exec (.yld op) s = .next t ∧ t = if g = true then s.setCtx { s.ctx with yld := true } else s) ∧
     (∃ t, exec (.fpclr op) s = .next t ∧ (g = false → t = s) ∧ (g = true → Posts s t 7 1 [.fpclr (op.imm.setWidth 7)] none 0)) ∧
     ∃ t, exec (.fpsnap op) s = .next t ∧ (g = false → t = s) ∧
       (g = true → Posts s t 7 1 ([.s op.yr.toNat (c.csr.fpstat.setWidth 64), .s (op.yr.toNat + 1) c.csr.fprec] ++
         if op.imm.getLsbD 0 then [.fpclr 0x7F] else []) none 0))

/-! Events of a core (R91 to R105, R174, R210, R299). -/

/-- R41, R91, R97 to R99, R104, R105, R175, R299, R304, R417: what each event of a core does where its condition holds: results due become
visible, a close drains, frees queue space and empties the segment, a wait that holds makes its context READY, a load's data reach their
entry (a scalar, a vector as it is or converted, or lane by lane), a store its bytes and its acknowledgement arrives, and a holder leaves the
port. R171, R177: what a load returns in each shape. The model's choices: that a departure with no open segment leaves nothing to rewind
(log entry 171), that a switch stays due (191), and the number of a target's answer (115). -/
def Obligations.CoreEventResults : Prop :=
  ∀ s : State,
    let core := s.cur.core
    let k := s.cur.ctx
    let c := s.ctx
    let after (t : State) : Ctx := t.ctxAt core k
    let shows (t : State) : Prop := ∀ p, c.pend = [p] → ∀ n x, p.writes = [.s n x] → n ≠ 0 → (after t).sGet n = x
    let closes (i : Instr) (entry : Bool) : Prop := ∃ t, exec i s = .next t ∧ (after t).segOpen = false ∧ (after t).closing = false ∧
      (after t).segN = 0 ∧ (after t).pend = [] ∧ (after t).held = [] ∧ (after t).q0.ents = c.q0.ents.drop c.q0.popped ∧
      (after t).q1.ents = c.q1.ents.drop c.q1.popped ∧ (after t).pc = c.pc ∧ (after t).entry = entry ∧ (after t).replay = false ∧
      shows t ∧ t.mem = s.mem
    let free_ : Prop := c.stat = .issuing ∧ c.held = [] ∧ c.irrev = [] ∧ c.waitOp = none ∧ c.endReq = none
    (∃ t, exec .resultVisible s = .next t ∧ (after t).pend = c.pend.filter (fun p => decide (c.count < p.due)) ∧
      (∀ p, c.pend = [p] → p.due ≤ c.count → (∀ n x, p.writes = [.s n x] → n ≠ 0 → (after t).sGet n = x) ∧
        (∀ n q m, p.writes = [.pair n q m] → (after t).dGet n = q ∧ (after t).nGet n = m)) ∧
      t.mem = s.mem ∧ SameOthers s t core k) ∧
    (c.stat = .issuing → ∃ t, exec .normScoreboardClear s = .next t ∧ (after t).normBusy (s.arg 0) = false ∧ c.count ≤ (after t).count ∧
      (c.normBusy (s.arg 0) = false → (after t).count = c.count) ∧ t.mem = s.mem ∧
      ∀ i j, (i ≠ core ∨ j ≠ k) → SameFiles (s.ctxAt i j) (t.ctxAt i j)) ∧
    (free_ → c.closing = true → closes .segmentClose c.entry) ∧
    (free_ → c.closing = false → c.segOpen = true → 256 ≤ c.segN → closes .segmentLimitClose true) ∧
    (∀ w, c.waitOp = some w → c.stat = .waiting → c.endReq = none → s.waitHolds core k w = true →
      ∃ t, exec .waitSatisfied s = .next t ∧ (after t).stat = .ready ∧ (after t).waitOp = none ∧ (after t).age = 0 ∧ t.mem = s.mem ∧
        (∀ n m sc, w = .counter n m sc → sc ≠ 0 → (t.coreAt core).l1 = []) ∧
        (∀ b sc, w = .barrier b sc → b < 16 → (after t).arr.getLsbD b = false ∧ (after t).comp.getLsbD b = false)) ∧
    (∀ e rest q, let ch := s.arg 0 == 1
      (c.chan ch).ents = e :: rest → e.stat = .pending → e.req = some q → q.runs ≠ [] → (∀ r ∈ q.runs, onAperture r.pa = false) →
      q.scope ≠ 0 ∨ q.space ≠ .g →
      let bad := q.runs.any fun r => s.isPoisoned r.pa r.n || s.keyDead r.key r.pa
      let got (r : Run) : Nat := ofBytes (s.placeBytes r.key r.pa r.n)
      ∃ t e', exec .loadDataArrival s = .next t ∧ ((after t).chan ch).ents = e' :: rest ∧
        (bad = true → e'.stat = .faulted ⟨partL, 0x0C, 0x02, poisonVal 4 (s.arg 0 % 2)⟩) ∧
        (bad = false → e'.stat = .ready ∧
          (∀ n sx r, q.shape = .scalar n sx → q.runs = [r] → r.off = 0 →
            e'.data = (if sx = true then BitVec.ofInt 64 (sextN (8 * n) (got r)) else BitVec.ofNat 64 (got r)).setWidth 2048) ∧
          (∀ ty mf r, q.shape = .vector ty mf → q.runs = [r] → r.off = 0 →
            (q.fmt = 0 → e'.fl = 0 ∧ ∀ i, i < 64 → vlane e'.data i = if q.mask.getLsbD i = true then got r / 2 ^ (32 * i) % 2 ^ 32 else 0) ∧
            (q.fmt ≠ 0 → q.geo = false →
              let wT := (fmtN ty).width
              let wM := (fmtN q.fmt).width
              let elem (i : Nat) : Nat × Flags := convert (fmtN q.fmt) (fmtN ty) .rne .max 0 (got r / 2 ^ (wM * i) % 2 ^ wM)
              e'.fl = (flagsOf wT q.mask fun i => (elem i).2) ∧
              ∀ i, i < 2048 / wT → velem wT e'.data i = if q.mask.getLsbD (i * wT / 32) = true then (elem i).1 % 2 ^ wT else 0)) ∧
          (∀ n sx, q.shape = .lanes n sx → e'.fl = 0 ∧
            (∀ i, i < 64 → (∀ r ∈ q.runs, r.off ≠ i) → vlane e'.data i = 0) ∧
            ∀ r ∈ q.runs, r.off < 64 → (∀ x ∈ q.runs, x.off = r.off → x = r) →
              vlane e'.data r.off = if sx = true then toTwos 32 (sextN (8 * n) (got r)) else got r % 2 ^ 32)) ∧
        (after t).sRegs = c.sRegs ∧ (after t).vRegs = c.vRegs ∧ (after t).pc = c.pc ∧ t.mem = s.mem) ∧
    (∀ a, s.arg 1 = 1 → s.core.acks = [a] → a.ctx = k → a.kind = .store → ∃ t, exec .coreStorePerformed s = .next t ∧
      (t.coreAt core).acks = [] ∧ t.mem = s.mem) ∧
    (∀ p u, s.arg 1 = 0 → s.core.stq = [p] → s.core.acks = [] → p.ctx = k → p.units = [u] → 2 ^ 46 ≤ u.pa →
      u.pa + u.bytes.length ≤ 2 ^ 60 → u.mlog = false → (∀ b ∈ u.bytes, b.2 = 0xFF#8) →
      ∃ t, exec .coreStorePerformed s = .next t ∧ (t.coreAt core).stq = [] ∧
        (∀ i (h : i < u.bytes.length), memGet t.mem (u.pa + i) = u.bytes[i].1) ∧ SameMemOutside s t u.pa u.bytes.length) ∧
    (c.stat = .issuing → c.csr.ldqsw ≠ 0 → c.csr.ldqsw.toNat ≤ c.stallN →
      (s.ctxWaits core k).pop = true ∨ (s.ctxWaits core k).hold = true ∨ (s.ctxWaits core k).miss = true → s.core.othersReady k = true →
      ∃ t, exec .queueSwitch s = .next t ∧ (after t).stat = .qstall ∧
        (after t).rewindNext = (if c.segOpen = true then some 1 else none) ∧ (after t).latS = [] ∧
        (t.coreAt core).port ≠ some k ∧ (after t).pc = c.pc ∧ t.mem = s.mem) ∧
    (c.stat = .issuing → k < 4 → c.segOpen = false → c.closing = false → s.core.sliceUp = true →
      ∃ t, exec .timeSliceSwitch s = .next t ∧ (after t).stat = .ready ∧ (after t).age = 0 ∧ (after t).latS = [] ∧
        (t.coreAt core).port ≠ some k ∧ (after t).pc = c.pc ∧ (after t).rewindNext = c.rewindNext ∧ t.mem = s.mem) ∧
    (c.stat = .issuing → k < 4 → s.core.gap = 0 → 1024 ≤ c.sliceN → (c.closing = true → c.feeding = false ∧ s.closeRoom core k = false) →
      ∃ t, exec .forcedDeparture s = .next t ∧ (after t).stat = .ready ∧ (after t).age = 0 ∧ (after t).latS = [] ∧
        (t.coreAt core).port ≠ some k ∧ (after t).rewindNext = (if c.segOpen = true then some 2 else none) ∧ t.mem = s.mem)

/-- R100, R209, R210, R213, R215 to R220, R222, R223, R247, R343, R355: what happens to a context from outside its own bundles: an error in
transient state rewinds its open segment, one in stored memory is corrected or poisons its word, one in the L1 drops the line; a trap
handler and the supervisor enter partition X, pre-emptions freeze it, its banks go drowsy, its block arrives, a breakpoint stops it. How the
words of a structure are numbered (`eccPlace`) and what the arguments of an error event are is the model's choice (log entries 164 and 165). -/
def Obligations.PartitionEventResults : Prop :=
  ∀ s : State,
    let core := s.cur.core
    let k := s.cur.ctx
    let c := s.ctx
    let y := s.core
    let after (t : State) : Ctx := t.ctxAt core k
    let x (t : State) : Ctx := t.ctxAt core 4
    (4 ≤ s.arg 0 → s.arg 0 ≤ 7 →
      (s.arg 2 ≠ 1 → ∃ t, exec .transientError s = .next t ∧ t.isPoisoned (eccPlace core (s.arg 0) (s.arg 1)) 8 = true ∧ t.mem = s.mem ∧
        ∀ i j, t.ctxAt i j = s.ctxAt i j) ∧
      (s.arg 2 = 1 → ∃ t, exec .transientError s = .next t ∧ t.poison = s.poison ∧ t.mem = s.mem ∧ ∀ i j, t.ctxAt i j = s.ctxAt i j)) ∧
    (s.arg 0 = 9 → s.arg 2 ≠ 1 → ∃ t, exec .transientError s = .next t ∧ tfind (t.coreAt core).l1 (s.arg 1 / 64) = none ∧
      t.poison = s.poison ∧ t.mem = s.mem ∧ ∀ i j, t.ctxAt i j = s.ctxAt i j) ∧
    (8 ≤ s.arg 0 → s.arg 0 ≠ 9 → s.arg 0 ≠ 13 → s.arg 2 ≠ 1 → c.drowsy = 0 → c.stat ≠ .free → c.segOpen = true → c.feeding = false →
      c.errN = 0 → ∃ t, exec .transientError s = .next t ∧ (after t).pc = c.csr.segpc ∧ (after t).segOpen = false ∧ (after t).pend = [] ∧
        (after t).held = [] ∧ (after t).irrev = [] ∧ (after t).latS = [] ∧ (after t).csr.rotv = c.save.rotv ∧
        (after t).walkers = c.save.walkers ∧ (after t).replay = true ∧ (after t).errN = 1 ∧ (after t).errPc = c.csr.segpc ∧
        (after t).sRegs = c.sRegs ∧ t.mem = s.mem) ∧
    (∀ v rest, y.xrole = .none → y.xqueue = .trap v :: rest → v ≠ 4 → (s.ctxAt core v).stat = .frozen →
      let z := s.ctxAt core v
      ∃ t, exec .handlerEntry s = .next t ∧ (t.coreAt core).xrole = .handler v ∧ (t.coreAt core).xqueue = rest ∧ (x t).stat = .ready ∧
        (x t).pc = z.tk.handler ∧ (x t).sRegs = z.sRegs ∧ (x t).csr.trapc = z.csr.trapc ∧ (x t).csr.trapv = z.csr.trapv ∧
        (x t).csr.segpc = z.csr.segpc ∧ (x t).csr.done = z.csr.done ∧ (x t).mask = 0 ∧ (x t).csr.lnch = z.csr.lnch ∧ (x t).csr.sup = false ∧
        (x t).csr.fpstat = 0 ∧ (x t).entry = true ∧ (x t).q0 = QChan.empty ∧ (x t).latS = [] ∧ t.mem = s.mem ∧
        t.ctxAt core v = z) ∧
    (∀ v rest a, y.xrole = .none → y.xqueue = .super v :: rest → v ≠ 4 → (s.ctxAt core v).stat = .frozen → s.supEntry = some a →
      let z := s.ctxAt core v
      ∃ t, exec .handlerEntry s = .next t ∧ (t.coreAt core).xrole = .super v ∧ (x t).stat = .ready ∧ (x t).pc = a ∧
        (x t).csr.sup = true ∧ (x t).csr.done = z.csr.done ∧ (x t).mask = 0 ∧ (∀ n, n < 32 → (x t).nGet n = 0) ∧ (x t).sGet 2 = z.csr.trapc.setWidth 64 ∧ (x t).sGet 3 = z.csr.trapv ∧ (x t).sGet 4 = z.csr.segpc ∧
        t.mem = s.mem ∧ t.ctxAt core v = z) ∧
    (∀ l rest d n nd r h sp v, y.xrole = .none → y.xqueue = .urgent l :: rest → s.urgentInfo core l = some (d, n, nd, r, h, sp) →
      shConstBlk h = 0 → lrNosl r = 0 → y.port = some v → v < 4 → y.zeroing = false → s.closeFirst core = false →
      let z := s.ctxAt core v
      ∃ t, exec .urgentPreemption s = .next t ∧ (t.coreAt core).xrole = .urgent [v] ∧ (t.coreAt core).port = some 4 ∧
        (x t).stat = .issuing ∧ (x t).pc = lrEntry r ∧ (t.ctxAt core v).stat = .frozen ∧ (t.ctxAt core v).freeze = .urgent ∧
        (t.ctxAt core v).pc = (if z.segOpen = true then z.csr.segpc else z.pc) ∧ (t.ctxAt core v).sRegs = z.sRegs ∧ t.mem = s.mem) ∧
    (c.preempt = true → c.pend = [] → c.stat = .waiting ∨ (c.stat = .issuing ∧ c.segOpen = false ∧ c.closing = false) →
      ∃ t, exec .ordinaryPreemption s = .next t ∧ (after t).stat = .frozen ∧ (after t).freeze = .hearth ∧ (after t).csr.done = 0 ∧
        (after t).preempt = false ∧ (after t).pc = c.pc ∧ (after t).sRegs = c.sRegs ∧ (t.coreAt core).port ≠ some k ∧ t.mem = s.mem) ∧
    (c.stat = .frozen → 256 ≤ c.frozenN → XReq.trap k ∉ y.xqueue → ∃ t, exec .bankDrowsy s = .next t ∧ (after t).drowsy = 0xFF#8 ∧
      (after t).sRegs = c.sRegs ∧ (after t).vRegs = c.vRegs ∧ t.mem = s.mem ∧ SameOthers s t core k) ∧
    (c.stat ≠ .free → s.bundleAt core k c.pc = none →
      (∀ u, s.fetchBlock core k c.pc = (u, .ok) → ∃ t, exec .fetchBlockArrive s = .next t ∧ t = u) ∧
      (∀ u cs sub, s.fetchBlock core k c.pc = (u, .trap cs sub) → k ≠ 4 → cs ≠ 3 → ∃ t, exec .fetchBlockArrive s = .next t ∧
        (after t).stat = .frozen ∧ (after t).csr.trapc = trapcOf ⟨0, cs, sub, c.pc⟩ ∧ (after t).csr.trapv = c.pc) ∧
      (∀ u, s.fetchBlock core k c.pc = (u, .broken) → c.csr.sup = false → ∃ t, exec .fetchBlockArrive s = .next t ∧
        t = u.fetchFail (dieOf core) c.tk.job c.tk.serial c.pc)) ∧
    (c.stat = .issuing → k < 4 → c.skips = false → s.breakHit core k = true →
      ∃ t, exec .debugBreakpoint s = .next t ∧ (after t).stat = .frozen ∧ (after t).csr.trapc = trapcOf ⟨0, 0x03, 0x02, c.pc⟩ ∧
        (after t).csr.trapv = c.pc ∧ (after t).csr.done = 0 ∧ (after t).pc = c.pc ∧ t.mem = s.mem)

/-! The matrix engine at work, and failures (R191, R194, R197, R200, R202, R203, R221, R250). -/

/-- R28, R189, R191, R194, R197, R200 to R205, R250: the engine starts a command and ends it 12 cycles after its last step, when its writes
stand and its flags reach the task that issued it: a slot filled or stored, slots returned, products summed group by group, weights expanded
first where they are INT4, a tile cleared, loaded, stored, saved or drained, a row or a column written; evictions, saves and restores move
tiles; a failed engine makes its cluster no-matrix.  The model's choices: that a command's effects happen whole at its completion (log entry
79), and what a group whose exact sum is zero leaves (160). -/
def Obligations.MatrixEngineResults : Prop :=
  ∀ s : State,
    let core := s.cur.core
    let y := s.core
    let die := dieOf core
    let done (e : MQEntry) : Prop := e.start.isSome = true ∧ e.last + 12 ≤ y.cycle ∧ e.stuck = false
    let tile (t : State) (v x : Tile) : Prop := (t.coreAt core).tile v.ctx v.serial v.t = some x
    let held (v : Tile) (o n : Nat) : Bool := s.isPoisoned (tileBase core (v.phys.getD 0) + o) n
    let orAll (l : List Flags) : Flags := l.foldl (fun a b => a ||| b) 0
    (∀ e, y.mq = [e] → e.start = none → e.arrive < y.cycle → s.tileHere core e.cmd = true → s.stalled (srcCore core) = false →
      ∃ t f, exec .matrixCmdStart s = .next t ∧ (t.coreAt core).mq = [f] ∧ f.cmd = e.cmd ∧ f.start = some y.cycle ∧
        f.last + 1 = y.cycle + mSteps e.cmd ∧ t.mem = s.mem) ∧
    (∀ e, y.mq = [e] → y.mmaWait = [] → done e →
      let c := e.cmd
      let rows := shpRows c.shape
      let cols := shpCols c.shape
      let ends (f : State → Prop) : Prop := ∃ t, exec .matrixCmdComplete s = .next t ∧ (t.coreAt core).mq = [] ∧ f t
      let raises (t : State) (fl : Flags) : Prop := ∀ k, (s.ctxAt core c.ctx).task = some k → k.serial = c.serial →
        (s.ctxAt core c.ctx).debugStopped = false →
        (t.ctxAt core c.ctx).csr.fpstat = (s.ctxAt core c.ctx).csr.fpstat ||| (fl.setWidth 48 <<< 24)
      let writes (t : State) (r : Tile) (p : Nat) (cell : Nat → Nat → Nat) : Prop :=
        SameMemOutside s t (tileBase core p) 4096 ∧ (∀ x, tile t r x → x.stat = .dirty) ∧
        ∀ i j, i < 32 → j < 32 → t.tileEntry core p i j = if i < rows ∧ j < cols then cell i j else s.tileEntry core p i j
      let products (t : State) (r : Tile) (p k g : Nat) (z : Bool) (ea eb : Nat → Nat → XVal × Flags) : Prop :=
        let sum (i j : Nat) : XVal × Flags := (List.range ((k + g - 1) / g)).foldl
          (fun (x : XVal × Flags) q =>
            let u := mmaGroup x.1 ((((List.range k).drop (g * q)).take g).map fun l => ((ea i l).1, (eb j l).1))
            (u.1, x.2 ||| u.2))
          ((decodeFmt .f32 (if z = true then 0 else s.tileEntry core p i j)).1, 0)
        writes t r p (fun i j => (rneF32 (sum i j).1).1) ∧
        raises t (orAll ((List.range rows).flatMap fun i => (List.range cols).map fun j =>
          (sum i j).2 ||| orAll ((List.range k).map fun l => (ea i l).2 ||| (eb j l).2)))
      (∀ p, c.kind = .omst p → ends fun t => (∀ i, i < 4096 → memGet t.mem (c.place + i) = memGet s.mem (omBase core p + i)) ∧
        SameMemOutside s t c.place 4096) ∧
      (∀ p, c.kind = .omld p → ends fun t => (∀ i, i < 4096 → memGet t.mem (omBase core p + i) = memGet s.mem (c.place + i)) ∧
        t.slotScl core p = 0x3F80#16 ∧ SameMemOutside s t (omBase core p) 4096) ∧
      (∀ names phys, c.kind = .omrel names phys → ends fun t => (∀ n ∈ phys, n < 64 → n ∈ (t.coreAt core).omFree) ∧ t.mem = s.mem) ∧
      ∀ r p, s.cmdTile core c = some (r, p) →
        (c.kind = .tzero → ends fun t => (∀ i, i < 4096 → memGet t.mem (tileBase core p + i) = 0) ∧
          SameMemOutside s t (tileBase core p) 4096) ∧
        (∀ a b k fb z, c.kind = .mma a b k 8 fb z →
          let iv (x : XVal) : Int := match x with | .fin n m _ => if n then -m else m | _ => 0
          let va (i q : Nat) : Int := iv (slotElem (s.slotBits core a) (s.slotScl core a) 8 i q).1
          let vb (j q : Nat) : Int := iv (slotElem (s.slotBits core b) (s.slotScl core b) fb j q).1
          let out (i j : Nat) : Nat × Flags := mmaInt (mmaShape 8).2.2 (if z = true then 0 else s.tileEntry core p i j)
            ((List.range k).map fun q => (va i q, vb j q))
          ends fun t => writes t r p (fun i j => (out i j).1) ∧
            raises t (orAll ((List.range rows).flatMap fun i => (List.range cols).map fun j => (out i j).2))) ∧
        (∀ a b k fa fb z, c.kind = .mma a b k fa fb z → fa ≠ 8 → ends fun t => products t r p k (mmaShape fa).2.2 z
          (slotElem (s.slotBits core a) (s.slotScl core a) fa) (slotElem (s.slotBits core b) (s.slotScl core b) fb)) ∧
        (∀ a b k z, c.kind = .mmaq a b k z →
          let byte (j o : Nat) : Nat := (memGet s.mem (omBase core b + 128 * j + o)).toNat
          let weight (j l : Nat) : XVal × Flags :=
            let o := 4 * (l / 32)
            let code := decodeFmt .i4 (byte j (l / 2) / 2 ^ (4 * (l % 2)) % 16)
            let u := (code.1.add false (XVal.ofInt (-(sextN 8 (byte j (34 + o)))))).1.mul
              (decodeFmt .bf16 (byte j (32 + o) + 256 * byte j (33 + o))).1
            let w := encodeFmt .bf16 .rne .none 0 u.1
            ((decodeFmt .bf16 w.1).1, code.2 ||| u.2 ||| w.2)
          k ≤ 64 → ends fun t => products t r p k 4 z (slotElem (s.slotBits core a) (s.slotScl core a) 3) weight) ∧
        (∀ n x m, c.kind = .rowW n x m → n < rows → ends fun t =>
          writes t r p fun i j => if i = n ∧ m.getLsbD j = true then vlane x j else s.tileEntry core p i j) ∧
        (∀ n x m, c.kind = .colW n x m → n < cols → ends fun t =>
          writes t r p fun i j => if j = n ∧ m.getLsbD i = true then vlane x i else s.tileEntry core p i j) ∧
        (c.kind = .tld → ends fun t => writes t r p fun i j => memRead s.mem (c.place + 4 * (i * cols + j)) 4) ∧
        (c.kind = .tst → ends fun t => SameMemOutside s t c.place (shpBytes c.shape) ∧
          ∀ i j, i < rows → j < cols → memRead t.mem (c.place + 4 * (i * cols + j)) 4 = s.tileEntry core p i j) ∧
        (c.kind = .tsave → r.save ≠ 0 → ∀ u, s.engWrite die r.x r.save (memBytes s.mem (tileBase core p) 4096)
            (fun o n => s.isPoisoned (tileBase core p + o) n) = (u, none) →
          ends fun t => t.mem = u.mem ∧ ∀ x, tile t r x → x.stat = .clean) ∧
        (∀ zr row0 col0, c.kind = .tdrain zr row0 col0 → tnBad e.recd = true → ends fun t =>
          (zr = false → t.mem = s.mem) ∧ (zr = true → ∀ i j, i < 32 → j < 32 → t.tileEntry core p i j = 0) ∧ raises t (e.fl ||| fIV) ∧
          ∀ k, (s.ctxAt core c.ctx).task = some k → k.serial = c.serial → r.t < 8 → (t.ctxAt core c.ctx).derr.getLsbD r.t = true) ∧
        (∀ row0 col0 pg i j g q, c.kind = .tdrain false row0 col0 → e.pos = 0 → tnBad e.recd = false →
          s.engPage die c.x .write (BitVec.ofNat 64 (tnBase e.recd)) = (s, .inl pg) → pg.geo ≠ 1 → pg.fmt ≠ 6 →
          drainCells e.recd c.shape row0 col0 = [(i, j)] →
          let o := drainPlace e.recd row0 col0 pg.fmt false i j
          8 ≤ o.2 → (s.engPage die c.x .read o.1.va).2 = .inl g → (g.fmt, g.geo) = (pg.fmt, pg.geo) →
          s.engPage die c.x .write o.1.va = (s, .inl q) → s.keyDead q.key q.pa = false → q.mlog = false → q.pa % 64 + o.2 / 8 ≤ 64 →
          (∃ d, plocOf q.pa = .dram d) ∨ (∃ d a, plocOf q.pa = .dscr d a) →
          let v := if pg.fmt = 0 then (s.tileEntry core p i j, 0)
            else encodeFmt (fmtN pg.fmt) (rmodeOf (tnRm e.recd)) (tnClampOf e.recd) (lfsrDraw (lfsrStep (tnGen e.recd)))
              (entryValue c.shape (s.tileEntry core p i j))
          ends fun t => ofBytes (t.placeBytes q.key q.pa (o.2 / 8)) = v.1 % 2 ^ o.2 ∧ raises t (e.fl ||| v.2))) ∧
    (∀ a l, (∀ x ∈ l, (∃ n m k, x.1 = .fin n m k) ∧ ∃ n m k, x.2 = .fin n m k) → (∃ n m k, a = .fin n m k) →
      let sum := l.foldl (fun (u : XVal) x => (u.add false (x.1.mul x.2).1).1) XVal.zero
      sum.isZero = false → mmaGroup a l = ((decodeFmt .f32 (rneF32 (a.add false sum).1).1).1, (rneF32 (a.add false sum).1).2)) ∧
    (∀ a l, a = .nan ∨ (∃ x ∈ l, x.1 = .nan ∨ x.2 = .nan) → (mmaGroup a l).1 = .nan) ∧
    (∀ v, y.claims s.cur.ctx = true → y.freePhys = none → (∀ x ∈ y.tiles, x.saving = none ∧ x.restoring = none) →
      y.victim s.cur.ctx = some v → ∃ t x, exec .tileClaimEvict s = .next t ∧ tile t v x ∧ t.mem = s.mem ∧
        (v.stat = .clean → x.stat = .saved) ∧ (v.stat = .dirty → x.saving = some (y.cycle + 64))) ∧
    (∀ v u, y.dueMove Tile.saving = some v →
      s.engWrite die v.x v.save (memBytes s.mem (tileBase core (v.phys.getD 0)) 4096) (held v) = (u, none) →
      ∃ t, exec .lazySaveDone s = .next t ∧ t.mem = u.mem ∧ ∀ x, tile t v x → x.stat = .saved ∧ x.saving = none) ∧
    (∀ v u bs bad, y.dueMove Tile.restoring = some v → s.engRead die v.x v.save 4096 = (u, .inl (bs, bad)) →
      ∃ t, exec .lazyRestoreDone s = .next t ∧ (∀ i (h : i < bs.length), memGet t.mem (tileBase core (v.phys.getD 0) + i) = bs[i]) ∧
        ∀ x, tile t v x → x.stat = .clean ∧ x.restoring = none) ∧
    (y.mq = [] → y.mmaWait = [] → (∀ i, i < 5 → ∀ k, (y.ctxAt i).task = some k → (y.ctxAt i).stat = .free ∨ k.nomx = true) →
      ∃ t, exec .matrixEngineFailure s = .next t ∧ (t.clusterAt (clusterOf core)).nomx = true ∧
        t.sn.nomx = s.sn.nomx ||| BitVec.ofNat 32 (2 ^ clusterOf core) ∧ t.mem = s.mem)

/-- R221: a machine check is recorded with its physical address, and every ordinary context that holds a task of the job becomes FREE. -/
def Obligations.MachineCheckKillsTheJob : Prop :=
  ∀ s : State, ∃ t, exec .machineCheck s = .next t ∧ t.mchecks = s.mchecks ++ [s.arg 3 % 2 ^ 64] ∧
    ∀ i k x, k < 4 → (s.ctxAt i k).task = some x → x.job = s.arg 0 → (t.ctxAt i k).stat = .free

/-! The Hearth (R237, R252 to R272). -/

/-- R237, R254, R257 to R260, R262 to R264, R354: a barrier counts an arrival, a graph takes its table entries, a count falls and its node
becomes READY at zero, a phase opens its DEFERRED nodes, a launch is read, verified, expanded one task at a time, and rises with age; a node
whose work is over completes, and lowers its successors' counts or cancels them.  The model's choices: a window of cl for each task (log entry
96), and where the tenant's key is taken from (197). -/
def Obligations.HearthEventResults : Prop :=
  ∀ s : State,
    let d := s.arg 0
    let n := s.arg 1
    let x := s.node d n
    let core := s.cur.core
    let k := s.cur.ctx
    let cl := clusterOf core
    let live (x : Node) : Prop := x.st = .ready ∨ x.st = .active
    (∀ p, k < 5 → s.arg 0 < 16 → s.baraHolds core k (s.arg 2) = true → s.ctx.tk.bars[s.arg 0]? = some p →
      let b := tget Barrier.zero (s.clusterAt cl).bars p
      let want := if b.cnt = 0 then s.arg 1 else b.exp
      let mask := if b.mask.contains (ctxSlot core k) then b.mask else b.mask ++ [ctxSlot core k]
      ∃ t, exec .baraAccept s = .next t ∧ (t.ctxAt core k).arr.getLsbD (s.arg 0) = true ∧ t.mem = s.mem ∧
        tget Barrier.zero (t.clusterAt cl).bars p = (if b.cnt + 1 = want then ⟨want, 0, []⟩ else ⟨want, b.cnt + 1, mask⟩) ∧
        (b.cnt + 1 = want → ∀ n ∈ mask, (t.ctxAt (slotCtx cl n).1 (slotCtx cl n).2).comp.getLsbD (s.arg 0) = true) ∧
        (b.cnt + 1 ≠ want → (t.ctxAt core k).comp.getLsbD (s.arg 0) = false ∧
          ∀ i j, i ≠ core ∨ j ≠ k → t.ctxAt i j = s.ctxAt i j)) ∧
    (∀ g b, (s.dieAt d).admissible = some (g, b) → g.res = 0 →
      let id : BitVec 32 := BitVec.ofNat 32 (d % 4 * 2 ^ 30 + (s.dieAt d).seq % 2 ^ 18 * 2 ^ 12 + b)
      ∃ t, exec .graphAdmit s = .next t ∧ (t.dieAt d).seq = (s.dieAt d).seq + 1 ∧ (t.dieAt d).waiting = (s.dieAt d).waiting.erase g ∧
        (t.dieAt d).graphs = (s.dieAt d).graphs ++ [⟨id, g.job, g.phase, g.nodes.length, g.nodes.length, .ok⟩] ∧ t.mem = s.mem ∧
        ∀ e, g.nodes = [e] → bitsOf e.toNat 15 0 ≠ 0 → (t.node d b).count = bitsOf e.toNat 15 0 ∧ (t.node d b).st = .waiting ∧
          (t.node d b).graph = id ∧ (t.node d b).job = g.job) ∧
    (∀ m core' j ph sr y, (s.dieAt d).intake = [⟨.trig n m, core', j, ph, sr⟩] → tfind (s.dieAt d).nodes n = some y → y.job = j →
      y.st = .waiting → ∃ t, exec .nodeDecrement s = .next t ∧ (t.dieAt d).intake = [] ∧ (t.node d n).count = y.count - m ∧
        t.mem = s.mem ∧ (m < y.count → (t.node d n).st = .waiting) ∧
        (y.count ≤ m → y.susp = false → (t.node d n).st =
          if s.nodePhase d n ≤ (s.job j).phase ∧ (s.job j).phaseDone = false then .ready else .deferred)) ∧
    (let j := s.job (s.arg 0);
      j.st = .running → j.phaseDone = true → j.closed = false → tget CStatus.ok j.phSt j.phase ≠ .failed →
      ∃ t, exec .phaseOpen s = .next t ∧ (t.job (s.arg 0)).phase = j.phase + 1 ∧ (t.job (s.arg 0)).phaseDone = false ∧ t.mem = s.mem ∧
        ∀ e m z, e < 4 → tfind (s.dieAt e).nodes m = some z → z.job = s.arg 0 → z.st = .deferred → z.susp = false →
          s.nodePhase e m = j.phase + 1 → (t.node e m).st = .ready) ∧
    (∀ u bs, x.kind = .launch → x.st = .ready → x.lrec = none → x.canc = [] → x.recAddr.toNat % 128 = 0 →
      s.engRead d (s.jobX x.job) x.recAddr 128 = (u, .inl (bs, false)) →
      let r : BitVec 1024 := BitVec.ofNat 1024 (ofBytes bs)
      lrBad r = false → u.progOf (u.job (u.node d n).job).asid (lrProg r) = none →
      ∃ t, exec .launchReady s = .next t ∧ (t.node d n).lrec = some r ∧ (t.node d n).level = x.pri.getD (lrPrio r) ∧
        (t.node d n).left = lrTasks r ∧ (t.node d n).next = 0 ∧ t.mem = u.mem) ∧
    (∀ r u h key, x.lrec = some r → x.st = .ready → s.headerStands x = false → s.progs.length < 256 →
      s.tenantKey (s.job x.job).tenant = some key → s.verifyHeader d x.job key (lrProg r) = (u, some h) →
      let v : State := { u with progs := u.progs ++ [⟨lrProg r, (u.job x.job).asid, x.job, h⟩] }
      v.launchFault (v.node d n) = none → ∃ t, exec .sealedHeaderVerified s = .next t ∧ t = v) ∧
    (∀ m c r b, s.nextLaunch d = some (m, c) → (s.node d m).lrec = some r → (s.node d m).skip = [] →
      let l := lnchOf (s.node d m).graph m
      (s.clusterAt c).bindFor l (s.node d m).job r (s.node d m).next = some b →
      ∃ t, exec .launchExpand s = .next t ∧ (t.node d m).st = .active ∧ (t.node d m).next = (s.node d m).next + 1 ∧
        (t.clusterAt c).ready = readyIns ⟨m, l, (s.node d m).job, (s.node d m).next, (s.node d m).level, (s.node d m).aged⟩ (s.clusterAt c).ready ∧
        b ∈ (t.clusterAt c).binds ∧ (∃ w, (s.node d m).next = w.1 ∧ w ∈ b.wins) ∧ (b.clSize = 0 → t.mem = s.mem) ∧
        ∀ a, a < 2 ^ 46 → memGet t.mem a = memGet s.mem a) ∧
    (∀ r, x.lrec = some r → live x → x.susp = false → x.next < lrTasks r → 2 ≤ x.level → x.aged + ageLimit ≤ s.now →
      ∃ t, exec .launchAge s = .next t ∧ (t.node d n).level + 1 = x.level ∧ (t.node d n).aged = s.now ∧ (t.node d n).st = x.st ∧
        t.mem = s.mem) ∧
    (let endsAs (y : Node) (st : CStatus) : Prop :=
        (y.kind = .gate ∧ y.st = .ready ∧ y.lrec = none ∧ st = .ok) ∨
        (y.kind = .copy ∧ y.st = .active ∧ y.lrec = none ∧ y.dying = true ∧ s.nodeCopies d n = false ∧ st = .cancelled) ∨
        (y.kind = .launch ∧ y.st = .active ∧ (∃ r, y.lrec = some r ∧ lrTasks r ≤ y.next ∧ lrRptl r = false) ∧ y.left = 0 ∧
          (s.dieAt d).ended = [] ∧ s.engineBusy y.serials = false ∧
          st = if y.bad = true then .failed else if y.dying = true then .cancelled else .ok)
      ∀ y g st, tfind (s.dieAt d).nodes n = some y → endsAs y st → (s.dieAt d).graphs = [g] → g.id = y.graph → 3 ≤ g.left →
        (y.succ = [] → ∃ t, exec .nodeComplete s = .next t ∧ (t.node d n).status = st ∧ t.mem = s.mem ∧
          (t.node d n).st = (if y.dying = true ∨ st = .cancelled then .cancelled else .done) ∧
          (t.dieAt d).graphs = [{ g with left := g.left - 1, status := g.status.worst st }]) ∧
        (∀ i z, let m := graphBase y.graph + i
          y.succ = [i] → m ≠ n → tfind (s.dieAt d).nodes m = some z → z.st = .waiting → z.next = 0 → z.lrec = none → z.succ = [] →
          ∃ t, exec .nodeComplete s = .next t ∧ (t.node d n).status = st ∧ t.mem = s.mem ∧
            (st = .ok → (t.node d m).count = z.count - 1 ∧ (1 < z.count → (t.node d m).st = .waiting) ∧
              (z.count ≤ 1 → z.susp = false → (t.node d m).st =
                if s.nodePhase d m ≤ (s.job z.job).phase ∧ (s.job z.job).phaseDone = false then .ready else .deferred)) ∧
            (st ≠ .ok → (t.node d m).st = .cancelled)))

/-- R97, R206, R235, R266 to R268, R271: a task placed in a context starts READY at ENTRY with its arguments, its coordinate, its bounds and
its launch; a stolen task leaves the tail of its queue; an urgent launch asks for partition X; a core that unbinds frees its handles, and
has its stores zeroed once its engines are at rest. The model's choices: that the zeroing is a second step of the unbinding (log entry
102), and that a core for which an urgent task is asked stays bound (199). -/
def Obligations.TaskEventResults : Prop :=
  ∀ s : State,
    let cl := s.arg 0
    let d := s.arg 0
    let n := s.arg 1
    let core := s.cur.core
    let starts (t : State) (i k tidx sp : Nat) (x : Node) (r : BitVec 1024) (h : BitVec 3072) : Prop :=
      let c := t.ctxAt i k
      c.stat = .ready ∧ c.pc = lrEntry r ∧ (∀ j, j < 4 → c.sGet (j + 1) = lrArg r j) ∧ c.csr.segpc = lrEntry r ∧
      c.csr.tcx = BitVec.ofNat 32 (tidx % lrGX r) ∧ c.csr.tcy = BitVec.ofNat 32 (tidx / lrGX r % lrGY r) ∧
      c.csr.tcz = BitVec.ofNat 32 (tidx / (lrGX r * lrGY r)) ∧ c.csr.bndlo = BitVec.ofNat 19 (shBndlo h) ∧
      c.csr.bndhi = BitVec.ofNat 19 (shBndhi h) ∧ c.csr.rseed = (if lrSeed r = 0 then 1 else lrSeed r) ∧
      c.tk.job = x.job ∧ c.tk.tidx = tidx ∧ c.tk.spBase = sp ∧ c.tk.hLo = lrHbase r ∧ c.tk.hCnt = lrHcnt r ∧
      c.tk.serial = s.nextSerial ∧ t.nextSerial = s.nextSerial + 1 ∧ c.pGet 1 = 0 ∧ c.vGet 0 = 0 ∧ c.latS = [] ∧ c.q0 = QChan.empty
    (∀ k x r h i c sp, (s.clusterAt cl).ready = [k] → s.dispatchHeld k.job = false → s.readyInfo (cl / 8) k = some (x, r, h) →
      s.placeFor cl k r h = some (i, c, sp) → shConstBlk h = 0 → lrNosl r = 0 →
      ∃ t, exec .taskDispatch s = .next t ∧ starts t i c k.tidx sp x r h ∧ (t.clusterAt cl).ready = [] ∧ t.mem = s.mem) ∧
    (∀ o k x r h i c sp, s.stealFrom cl = some (o, k, x, r, h, i, c, sp) → shConstBlk h = 0 → lrNosl r = 0 →
      ∃ t, exec .taskSteal s = .next t ∧ starts t i c k.tidx sp x r h ∧ (t.clusterAt o).ready = (s.clusterAt o).ready.dropLast ∧
        (∀ b, (s.clusterAt cl).bindFor k.lnch x.job r k.tidx = some b → b.clSize = 0 → t.mem = s.mem) ∧
        ∀ a, a < 2 ^ 46 → memGet t.mem a = memGet s.mem a) ∧
    (let x := s.node d n;
      ∀ r, x.lrec = some r → x.st = .ready → x.susp = false → x.dying = false → x.level = 0 → lrPrio r = 0 → x.next = 0 →
      s.headerStands x = true → s.stalled (srcHearth d) = false → s.dispatchHeld x.job = false →
      let i := 64 * d + lrUcore r
      let l := lnchOf x.graph n
      (s.coreAt i).zeroing = false → (s.clusterAt (clusterOf i)).nomx = false ∨ lrNomx r = true →
      ∀ b, (s.coreAt i).bound = none ∨ (s.coreAt i).bound = some x.job → (s.clusterAt (clusterOf i)).bindFor l x.job r 0 = some b →
      ∃ t, exec .urgentDispatch s = .next t ∧ (t.coreAt i).xqueue = (s.coreAt i).xqueue ++ [XReq.urgent l] ∧
        (t.coreAt i).bound = some x.job ∧ (t.node d n).st = .active ∧ (t.node d n).next = 1 ∧ (b.clSize = 0 → t.mem = s.mem)) ∧
    (let y := s.core;
      (y.zeroing = false → y.bound.isSome = true → (∀ l, XReq.urgent l ∉ y.xqueue) → (∀ c ∈ y.ctxs, c.1 < 4 → c.2.stat = .free) →
        (∀ h ∈ y.handles, h.2.st = .free ∨ h.2.st = .full) → ∃ t, exec .coreUnbind s = .next t ∧ (t.coreAt core).bound = none ∧
        (t.coreAt core).handles = [] ∧ (t.coreAt core).zeroing = true ∧ (t.coreAt core).unbindJob = y.bound ∧ t.mem = s.mem ∧ ∀ i k, t.ctxAt i k = s.ctxAt i k) ∧
      (y.zeroing = true → y.xrole = .none → y.xqueue = [] → y.mq = [] → y.mmaWait = [] → s.sentLeft core = false →
      ∃ t, exec .coreUnbind s = .next t ∧ (t.coreAt core).zeroing = false ∧ (t.coreAt core).tiles = [] ∧
        (t.coreAt core).omFree = List.range 64 ∧
        (∀ a, spBase core ≤ a → a < spBase core + 0x60000 → memGet t.mem a = 0) ∧
        (∀ a, lsBase core 0 ≤ a → a < lsBase core 0 + 0x10000 → memGet t.mem a = 0) ∧
        (∀ a, omBase core 0 ≤ a → a < omBase core 0 + 0x40000 → memGet t.mem a = 0) ∧
        (∀ a, tileBase core 0 ≤ a → a < tileBase core 0 + 0x8000 → memGet t.mem a = 0) ∧
        ∀ a, a < 2 ^ 46 → memGet t.mem a = memGet s.mem a))

/-! The copy engines, handles and their follow-on commands (R274 to R288). -/

/-- R274, R277, R278, R281 to R284, R286 to R288: a copy is accepted into FILLING and refused a handle in use; a copy of one piece moves its
bytes or converts its elements, into operand memory for a COPYM, whose MMA then takes a queue entry; a gather moves a row of its table, or
fills it, and a scatter-add adds to one; each leaves its handle FULL, or DRAINING with a release pending; a DRAINING handle is FREE once no
earlier command runs; a READY copy node goes to the engine with the fewest copies.  That a refused copy occupies a slot of its engine and
what the MMA of a COPYM is while it waits are the model's choices (log entries 88 and 86). -/
def Obligations.CopyEventResults : Prop :=
  ∀ s : State,
    let cl := s.arg 0
    let core := s.cur.core
    (∀ i rest slot, (s.clusterAt cl).intake = i :: rest → i.cmd.kind = .copy → i.node = none → i.cmd.md % 4 = 0 →
      (s.clusterAt cl).freeSlot = some slot → spInBounds i.view.bndlo i.view.bndhi i.cmd.a.toNat 128 = true →
      s.isPoisoned (i.view.sp + i.cmd.a.toNat) 128 = false →
      let r := ofBytes (s.placeBytes 0 (i.view.sp + i.cmd.a.toNat) 128)
      let h := cpHnd r
      i.view.hLo ≤ h → h < i.view.hLo + i.view.hCnt → cpBad r false false = false → cpTrec r = 0 →
      ((s.coreAt i.core).handle h).st ≠ .draining →
      ∃ t c, exec .copyAccept s = .next t ∧ (t.clusterAt cl).intake = rest ∧ t.copyAt cl slot = some c ∧ c.inp = i ∧
        c.rec0 = BitVec.ofNat 1024 r ∧ c.pos = 0 ∧ t.mem = s.mem ∧
        (((s.coreAt i.core).handle h).st = .free → ((t.coreAt i.core).handle h).st = .filling ∧ c.fin = none ∧ c.hnd = some h) ∧
        (((s.coreAt i.core).handle h).st ≠ .free → (t.coreAt i.core).handle h = (s.coreAt i.core).handle h ∧ c.fin = some (1, 0))) ∧
    (∀ c h, s.stalled (srcCopy cl) = false → s.copyAt cl (s.arg 1) = some c → c.fin = none → c.pos = 0 → c.idx = none → c.stuck = false →
      c.failed = false → c.inp.node = none → s.heldBack c.inp.core c.inp.ctx c.inp.serial = false → c.hnd = some h → c.cwa = 0 →
      2 ^ 46 ≤ c.inp.view.sp → c.inp.view.sp < 2 ^ 51 →
      let r := c.rec0.toNat
      let v := c.inp.view
      let n := cpElen r
      let sa := cpSrcAt c 0
      let da := cpDstAt c 0
      let fits (a : Word) (n : Nat) : Prop := spInBounds v.bndlo v.bndhi a.toNat n = true
      let at_ (m : Mem) (a : Word) (n : Nat) : Nat := memRead m (v.sp + a.toNat) n
      let lands (p : State → Prop) : Prop := ∃ t, exec .copyComplete s = .next t ∧ t.copyAt cl (s.arg 1) = none ∧ p t ∧
        ((t.coreAt c.inp.core).handle h).st = if ((s.coreAt c.inp.core).handle h).rel.isSome = true then .draining else .full
      (cpPieces r = 1 → cpTrec r = 0 → cpTmode r = false → cpSsp r = 0 → fits sa n →
        (c.inp.cmd.kind = .copy → cpConv r = false → cpDsp r = 0 → fits da n → lands fun t =>
          (∀ j, j < n → memGet t.mem (v.sp + da.toNat + j) = memGet s.mem (v.sp + sa.toNat + j)) ∧
          SameMemOutside s t (v.sp + da.toNat) n) ∧
        (∀ p, let m := c.inp.core
          let d := c.inp.cmd.b.toNat
          let slot (o : Nat) : Nat := (tfind v.omap o).getD 0
          c.inp.cmd.kind = .copym → cpConv r = false → cpDsp r = 4 → da.toNat < 2 ^ 18 → da.toNat % 4096 + n ≤ 4096 →
          tfind v.omap (da.toNat / 4096) = some p → (s.coreAt m).mmaWait = [] → (s.coreAt m).mq.length < 16 →
          s.tileShape m c.inp.ctx c.inp.serial (mdTile d) ≠ 0 → lands fun t =>
          (∀ j, j < n → memGet t.mem (omBase m p + da.toNat % 4096 + j) = memGet s.mem (v.sp + sa.toNat + j)) ∧
          SameMemOutside s t (omBase m p + da.toNat % 4096) n ∧
          ∃ e, (t.coreAt m).mq = (s.coreAt m).mq ++ [e] ∧ e.cmd.tile = some (mdTile d) ∧ e.start = none ∧
            e.cmd.kind = .mma (slot (mdOa d)) (slot (mdOb d)) (mdK d) (mdFa d) (mdFb d) (mdZ d))) ∧
      (let wS := (fmtN (cpSfmt r)).width
       let wD := (fmtN (cpDfmt r)).width
       c.inp.cmd.kind = .copy → cpPieces r = 1 → c.tens = none → cpTrec r = 0 → cpTmode r = false → cpSsp r = 0 → cpDsp r = 0 →
        cpConv r = true → 1 ≤ cpSfmt r → cpSfmt r ≤ 9 → 1 ≤ cpDfmt r → cpDfmt r ≤ 9 → 8 ≤ wS → 8 ≤ wD →
        fits sa (n * (wS / 8)) → fits da (n * (wD / 8)) → lands fun t =>
          (∀ k, k < n → at_ t.mem (da + BitVec.ofNat 64 (k * (wD / 8))) (wD / 8) =
            (convert (fmtN (cpSfmt r)) (fmtN (cpDfmt r)) .rne .max 0 (at_ s.mem (sa + BitVec.ofNat 64 (k * (wS / 8))) (wS / 8))).1 % 2 ^ wD) ∧
          SameMemOutside s t (v.sp + da.toNat) (n * (wD / 8))) ∧
      (let ft := fmtN (gaFmt r)
       let w := typeWidth (gaFmt r)
       let m := gaRow r
       let ia : Word := BitVec.ofNat 64 (gaIdxa r)
       let x := at_ s.mem ia 4
       let ra := gaRowAt r 0
       let ta := gaTabAt r x
       let elem (m : Mem) (a : Word) (k : Nat) : Nat := at_ m a (gaRow r) / 2 ^ (w * k) % 2 ^ w
       gaNidx r = 1 → gaIsp r = 0 → gaTsp r = 0 → gaRsp r = 0 → fits ia 4 →
        (c.inp.cmd.kind.gathers = true → gaBad r (c.inp.cmd.kind == .scad) = false → x = 0xFFFFFFFF → lands fun t => t.mem = s.mem) ∧
        (c.inp.cmd.kind = .gath → gaBad r false = false → x ≠ 0xFFFFFFFF → gaNrows r ≤ x → fits ra m → lands fun t =>
          SameMemOutside s t (v.sp + ra.toNat) m ∧
          ∀ k, k < gaRlen r → elem t.mem ra k = (convert .f32 ft .rne .none 0 (gaFill r)).1 % 2 ^ w) ∧
        (c.inp.cmd.kind = .gath → gaBad r false = false → x ≠ 0xFFFFFFFF → x < gaNrows r → fits ta m → fits ra m → lands fun t =>
          SameMemOutside s t (v.sp + ra.toNat) m ∧
          ∀ j, j < m → memGet t.mem (v.sp + ra.toNat + j) = memGet s.mem (v.sp + ta.toNat + j)) ∧
        (c.inp.cmd.kind = .scad → gaBad r true = false → gaNrows r ≤ x → lands fun t => t.mem = s.mem) ∧
        (c.inp.cmd.kind = .scad → gaBad r true = false → x ≠ 0xFFFFFFFF → x < gaNrows r → fits ta m → fits ra m → lands fun t =>
          SameMemOutside s t (v.sp + ta.toNat) m ∧
          ∀ k, k < gaRlen r → elem t.mem ta k = if ft.isInt = true then (elem s.mem ta k + elem s.mem ra k) % 2 ^ w
            else (encodeFmt ft .rne .none 0 ((decodeFmt ft (elem s.mem ta k)).1.add false (decodeFmt ft (elem s.mem ra k)).1).1).1 % 2 ^ w))) ∧
    (∀ n, (s.core.handle (s.arg 0)).st = .draining → (s.core.handle (s.arg 0)).rel = some n → (∀ b ∈ s.core.cmdBusy, n ≤ b) →
      ∃ t, exec .handleFree s = .next t ∧ ((t.coreAt core).handle (s.arg 0)).st = .free ∧ t.mem = s.mem) ∧
    (let d := s.arg 0; let n := s.arg 1
     let load (k : Nat) : Nat := (s.clusterAt (8 * d + k)).copies.length
     (s.node d n).kind = .copy → (s.node d n).st = .ready →
      ∃ t k i, exec .copyNodeStart s = .next t ∧ k < 8 ∧ (∀ j, j < 8 → load k ≤ load j) ∧ (t.node d n).st = .active ∧
        (t.clusterAt (8 * d + k)).intake = (s.clusterAt (8 * d + k)).intake ++ [i] ∧ i.cmd.kind = .copy ∧
        i.cmd.a = (s.node d n).recAddr ∧ i.node = some (d, n) ∧ t.mem = s.mem) ∧
    (∀ c rest, s.core.mmaWait = c :: rest → s.core.mq.length < 16 → s.tileShape core c.ctx c.serial (c.tile.getD 0) ≠ 0 →
      ∃ t e, exec .copymMmaEnqueue s = .next t ∧ (t.coreAt core).mmaWait = rest ∧ (t.coreAt core).mq = s.core.mq ++ [e] ∧
        e.cmd.kind = c.kind ∧ e.cmd.tile = c.tile ∧ e.cmd.shape = s.tileShape core c.ctx c.serial (c.tile.getD 0) ∧ e.start = none ∧
        t.mem = s.mem)

/-! Translation, invalidation, the fault queue and device registers (R322 to R328, R342, R382). -/

/-- R325 to R328, R342, R382: a walk that finds a permitted leaf fills the TLB and a fault leaves it; TLBINV drops the matching entries of
its die; RESOLVE frees its record and lets the suspended copy go on, or fails it; registers keep their reserved bits clear. R386: an entry
holds the node that its leaf's aperture named at the walk. That the low bits of FQBASE drop what is written, and that the number of
a resolved record is free again, are the model's choices (log entries 110 and 93). -/
def Obligations.TranslationEventResults : Prop :=
  ∀ s : State,
    let core := s.cur.core
    let die := s.arg 0
    (let x := s.xctxOf s.ctx; let va : Word := BitVec.ofNat 64 (s.arg 0); let acc := xaccOf (s.arg 1)
     va.toNat < 2 ^ 48 → tlbFind s.core.tlb x.asid acc va.toNat = none →
      (∀ w ∈ s.walksOf (dieOf core), (core, s.cur.ctx) ∉ w.who) →
      (∀ e a level, s.walkFrom x.tenant va.toNat 3 x.root = .leaf e a level → accessFault x acc e = none →
        (acc = .write → pteD (s.pteAt a) = true) →
        let size := leafSize level (pteCont e)
        ∃ t, exec .pageWalk s = .next t ∧ t.mem = s.mem ∧
          (t.coreAt core).tlb = tlbPut s.core.tlb ⟨x.asid, va.toNat / size * size, size, BitVec.ofNat 64 (s.pteAt a),
            s.aptNode (leafPA e level va.toNat)⟩) ∧
      (∀ sub, s.walkFrom x.tenant va.toNat 3 x.root = .fault sub →
        ∃ t, exec .pageWalk s = .next t ∧ t.mem = s.mem ∧ (t.coreAt core).tlb = s.core.tlb)) ∧
    (let drops (i : Instr) (p : TlbEnt → Prop) : Prop := ∃ t, exec i s = .next t ∧ t.mem = s.mem ∧ ∀ k,
       (dieOf k ≠ die → (t.coreAt k).tlb = (s.coreAt k).tlb) ∧
       (dieOf k = die → ∀ e, e ∈ (t.coreAt k).tlb ↔ e ∈ (s.coreAt k).tlb ∧ ¬p e)
     drops .tlbinvPage (fun e => e.asid = tlbAsid (s.arg 1) ∧ e.va ≤ tlbPage (s.arg 1) ∧ tlbPage (s.arg 1) < e.va + e.size) ∧
      drops .tlbinvAsid (fun e => e.asid = tlbAsid (s.arg 1)) ∧ drops .tlbinvAll (fun _ => True)) ∧
    (∀ cl slot va c, tfind (s.dieAt die).faults (s.arg 1) = some (.copy cl slot, va) → s.copyAt cl slot = some c → c.stuck = true →
      c.fin = none → c.inp.node = none → s.heldBack c.inp.core c.inp.ctx c.inp.serial = false → cpTrec c.rec0.toNat = 0 →
      c.inp.cmd.kind = .copy →
      (∃ t y, exec .resolveRetry s = .next t ∧ t.copyAt cl slot = some y ∧ y.stuck = false ∧ y.fin = none ∧ y.pos = c.pos ∧
        (t.dieAt die).faults = terase (s.dieAt die).faults (s.arg 1) ∧ t.mem = s.mem) ∧
      (∃ t y, exec .resolveFail s = .next t ∧ t.copyAt cl slot = some y ∧ y.fin = some (3, va) ∧
        (t.dieAt die).faults = terase (s.dieAt die).faults (s.arg 1) ∧ t.mem = s.mem)) ∧
    (let a := s.arg 0; let x : Word := BitVec.ofNat 64 (s.arg 1)
     let writes (p : State → Prop) : Prop := ∃ t, exec .registerWrite s = .next t ∧ p t ∧ t.mem = s.mem
     (s.arg 2 = 0 → (∀ d, d < 4 → a = ctlBase d + 0x40 → writes fun t => t.reg a = x &&& ~~~ 0x1FFF#64) ∧
        (∀ d, d < 4 → a = ctlBase d + 0x48 → writes fun t => t = s) ∧
        (∀ d j, d < 4 → j < 64 → a = ctlBase d + 0x1000 + 0x100 * j → writes fun t => t.reg a = x &&& 3#64) ∧
        (a = pkgBase + 0x2408 → writes fun t => t.domain = if domainFits s.nodecfg x = true then x &&& 0x0FFF_FFFF#64 else s.domain)) ∧
      (a = pkgBase + 0x2400 → writes fun t => t.nodecfg = if s.arg 2 = fnSniras then x &&& 0x3FFF_FFFF#64 else s.nodecfg))

/-! The trace fabric and the scrub (R330, R335 to R341, R347). -/

/-- R220, R330, R335, R337, R338, R341, R347: a sink writes a record that its stream passes and returns the credit; a stalled source counts
its cycles, and a core's time goes on; a core's summaries empty their table; a correction of the selected port steps time at once or slews
it; an uncorrectable word that the scrub finds is poisoned. That a TIME_STEP of any size steps at once, apart from the slews, is the model's
choice (log entry 117). -/
def Obligations.TraceEventResults : Prop :=
  ∀ s : State,
    let die := s.arg 0
    (∀ x, tget [] s.sinks die = [x] → s.keptBack die x = false → (s.source x.src).waiting = [] → x.src ≠ srcSink die →
      let passes := recordPasses (s.stream die x.tenant) (bitsOf x.body.toNat 199 192)
      (passes = false → ∃ t, exec .traceSinkWrite s = .next t ∧ tget [] t.sinks die = [] ∧ t.mem = s.mem ∧
        (t.source x.src).used = (s.source x.src).used - 1) ∧
      (passes = true → ringFull (s.stream die x.tenant) = false → tfind (s.source (srcSink die)).drops x.tenant = none →
        ∃ t, exec .traceSinkWrite s = .next t ∧ tget [] t.sinks die = [] ∧ (t.source x.src).used = (s.source x.src).used - 1 ∧
          t.mem = (s.ringWrite die x.tenant x.body).mem) ∧
      (passes = true → ringFull (s.stream die x.tenant) = true →
        ∃ t n, exec .traceSinkWrite s = .next t ∧ tget [] t.sinks die = [] ∧ t.mem = s.mem ∧
          tfind (t.source (srcSink die)).drops x.tenant = some n ∧
          n.1 = (tget (0, 0, 0) (s.source (srcSink die)).drops x.tenant).1 + 1)) ∧
    (let src := s.arg 0
     ∀ tn b rest, (s.source src).waiting = (tn, b) :: rest → ∃ t, exec .traceStall s = .next t ∧
      (t.source src).stallN = (s.source src).stallN + 1 ∧ (t.source src).waiting = (s.source src).waiting ∧
      tget 0 t.counters ((tn * 4 + sinkOf src) * 16 + 0x0A) = tget 0 s.counters ((tn * 4 + sinkOf src) * 16 + 0x0A) + 1 ∧
      (isCoreSrc src = true → (t.coreAt (src / 2 ^ 13 * 64 + src % 2 ^ 13)).cycle =
        (s.coreAt (src / 2 ^ 13 * 64 + src % 2 ^ 13)).cycle + 1) ∧ t.mem = s.mem) ∧
    (∃ t, exec .mxsum s = .next t ∧ (t.coreAt s.cur.core).mxSum = [] ∧ t.mem = s.mem) ∧
    (∃ t, exec .timeStep s = .next t ∧ t.mem = s.mem ∧ (s.arg 1 % 2 ≠ s.timeRef → t = s) ∧
      (s.arg 1 % 2 = s.timeRef → (s.arg 2 = 0 → t.time = s.time + s.arg 0 ∧ t.slews = s.slews) ∧
        (s.arg 2 ≠ 0 → ∃ from_, t = { s with slews := s.slews ++ [(from_, s.arg 0)] } ∧ s.elapsed ≤ from_))) ∧
    (∀ d, plocOf (s.arg 0) = .dram d → ∃ t, exec .patrolScrub s = .next t ∧ t.mem = s.mem ∧ (s.arg 1 = 0 → t = s) ∧
      (s.arg 1 = 1 → t.poison = s.poison) ∧ (2 ≤ s.arg 1 → t.isPoisoned (s.arg 0 / 8 * 8) 8 = true))

/-! Administration (R340, R349, R357, R358, R362, R363, R366, R371, R375). -/

/-- R349, R357, R358, R362, R366, R371: the host's administrative commands, once the queue is enabled and shows one, give the effect and the
response of R362, or the status that says why not.  The model's choices: which status answers a TENANT_CREATE of a live or an impossible
tenant, and OK of a KEYZERO on an EMPTY slot (log entry 137); how commands reach the model (133); that a CLOSEJOB closes the open phase (105). -/
def Obligations.AdminResults : Prop :=
  ∀ s : State, s.adminOpen = true → s.sn.recovery = false → s.arg 0 = 0 →
    let a := s.arg 2
    let b := s.arg 3
    let j := s.job a
    let ans (i : Instr) (st v : Nat) (p : State → Prop) : Prop := ∃ t, exec i s = .next t ∧ Answered s t st v ∧ p t
    let keeps (t : State) : Prop := t.jobs = s.jobs ∧ t.tenants = s.tenants ∧ t.keys = s.keys ∧ t.mem = s.mem
    (s.sn.negotiated = false → ans .admitJob admInvalid 0 keeps) ∧
    (s.sn.negotiated = true → (s.admitBad a = true → ans .admitJob admMalformed 0 keeps) ∧
      (s.admitBad a = false → (s.freeJob = none → ans .admitJob admBusy 0 keeps) ∧
        ∀ k, s.freeJob = some k → ans .admitJob admOk k fun t => t.job k = jobOf a ∧ (t.job k).st = .running ∧
          tfind t.fab.jobs k = some ⟨adTenant a, BitVec.ofNat 32 (adPerm a / 2 ^ 32), adCrBase a, adCrSize a, adAsid a⟩ ∧
          t.mem = s.mem)) ∧
    (a < 64 → (j.st = .free → ans .closejob admInvalid 0 keeps) ∧
      (j.st = .running → ans .closejob admOk 0 fun t => (t.job a).closed = true ∧ (t.job a).phaseClosed = true ∧ t.mem = s.mem) ∧
      (j.st = .done → ans .closejob admOk 0 fun t => (t.job a).st = .free ∧ t.mem = s.mem)) ∧
    (a < 64 → (j.st ≠ .running → ans .killjob admInvalid 0 keeps) ∧
      (j.st = .running → ans .killjob admOk 0 fun t =>
        ∀ i k x, k < 4 → (s.ctxAt i k).task = some x → x.job = a → (t.ctxAt i k).stat = .free)) ∧
    (a < 64 → ans .jobstat admOk j.st.code keeps) ∧ (64 ≤ a → ans .jobstat admInvalid 0 keeps) ∧
    (a = 0 ∨ 256 ≤ a → ans .tenantCreate admInvalid 0 keeps) ∧
    (1 ≤ a → a < 256 → (b ≠ 0 → s.feat.getLsbD 0 = false → ans .tenantCreate admInvalid 0 keeps) ∧
      (b = 0 ∨ s.feat.getLsbD 0 = true → ((tfind s.tenants a).isSome = true → ans .tenantCreate admBusy 0 keeps) ∧
        (tfind s.tenants a = none → ans .tenantCreate admOk 0 fun t => t.mem = s.mem ∧
          tfind t.tenants a = some ⟨b != 0, BitVec.ofNat 256 (s.arg 4)⟩))) ∧
    (tfind s.tenants a = none → ans .tenantDestroy admInvalid 0 keeps) ∧
    ((tfind s.tenants a).isSome = true → (s.tenantBusy a = true → ans .tenantDestroy admBusy 0 keeps) ∧
      (s.tenantBusy a = false → ans .tenantDestroy admOk 0 fun t => tfind t.tenants a = none ∧ t.mem = s.mem)) ∧
    (a = 0 → ans .keygen admDenied 0 keeps ∧ ans .keyzero admDenied 0 keeps) ∧
    (1 ≤ a → a < 8192 →
      ((tfind s.tenants b).isSome = true → (s.confidential b = true → ans .keygen admDenied 0 keeps) ∧
        (s.confidential b = false → (tfind s.keys a = none → ans .keygen admOk 0 fun t => t.mem = s.mem ∧
            tfind t.keys a = some ⟨Config.randomKey s.fresh, b⟩) ∧
          ((tfind s.keys a).isSome = true → ans .keygen admBusy 0 keeps))) ∧
      ((∀ r, tfind s.keys a = some r → s.confidential r.owner = false) →
        ans .keyzero admOk 0 fun t => tfind t.keys a = none ∧ t.mem = s.mem) ∧
      (∀ r, tfind s.keys a = some r → s.confidential r.owner = true → ans .keyzero admDenied 0 keeps)) ∧
    (a < 256 → b < 4 → s.arg 4 < 16 →
      (streamAllow (s.stream b a) (s.arg 4) = true → ans .counter admOk (tget 0 s.counters ((a * 4 + b) * 16 + s.arg 4)) keeps) ∧
      (streamAllow (s.stream b a) (s.arg 4) = false → ans .counter admDenied 0 keeps)) ∧
    (let v := (tget FwSlot.none s.sn.slots s.sn.running).svn;
     (s.sn.update ≠ none → ans .fwconfirm admBusy 0 fun t => t.sn = s.sn) ∧
      (s.sn.update = none → s.sn.healthy = true → s.sn.fb = false →
        ans .fwconfirm admOk (Max.max s.sn.otpsvn v) fun t => t.sn.otpsvn = Max.max s.sn.otpsvn v) ∧
      (s.sn.update = none → s.sn.healthy = false ∨ s.sn.fb = true → ans .fwconfirm admDenied 0 fun t => t.sn = s.sn))

/-- R258, R362, R363: a submission queue's entry is taken when its doorbell shows one: a graph waits for admission, a phase closes, a job
closes; a FEATCTL commit accepts the kept features or leaves the map.  The model's choices: that closing a job closes its open phase (log
entry 105), and the form of the entries (133). -/
def Obligations.SubmissionResults : Prop :=
  ∀ s : State,
    let k := s.arg 0
    let j := s.job k
    let open_ : Prop := j.st = .running ∧ s.dmaOn = true ∧ s.sn.dumped = none ∧
      (s.reg (pkgBase + 0x1000 + 0x10 * k)).toNat ≠ j.sqHead
    let s1 := s.updJob k fun b => { b with sqHead := (b.sqHead + 1) % 2 ^ 64 }
    (∀ u h es, open_ → s.arg 3 = 1 → s1.readGraph (s.arg 2 % 4) k (BitVec.ofNat 64 (s.arg 1)) = (u, some (h, es)) →
      (u.job k).phaseClosed = false → (u.job k).closed = false → (u.job k).status ≠ .failed → bitsOf h 40 9 = (u.job k).phase →
      (∀ c, (u.job k).cancFrom = some c → (u.job k).phase < c) →
      ∃ t, exec .sqSubmitGraph s = .next t ∧ t.mem = u.mem ∧ t.job k = u.job k ∧
        (t.dieAt (s.arg 2 % 4)).waiting =
          (u.dieAt (s.arg 2 % 4)).waiting ++ [⟨k, bitsOf h 40 9, es, false, BitVec.ofNat 64 (bitsOf h 104 41), 0⟩]) ∧
    (open_ → ∃ t, exec .sqClosePhase s = .next t ∧ (t.job k).phaseClosed = true ∧ (t.job k).sqHead = (j.sqHead + 1) % 2 ^ 64 ∧
      t.mem = s.mem) ∧
    (open_ → ∃ t, exec .sqCloseJob s = .next t ∧ (t.job k).closed = true ∧ (t.job k).phaseClosed = true ∧
      (t.job k).sqHead = (j.sqHead + 1) % 2 ^ 64 ∧ t.mem = s.mem) ∧
    (let x : Word := BitVec.ofNat 64 (s.arg 0);
     s.arg 1 = 0 → x.getLsbD 0 = true →
      (s.featAcc &&& ~~~ s.sn.offered = 0 → s.sn.negotiated = false ∨ s.featAcc = s.feat ∨ (∀ y ∈ s.jobs, y.2.st ≠ .running) →
        ∃ t, exec .featctlCommit s = .next t ∧ t.feat = s.featAcc ∧ t.sn.featCtl = 1 ∧ t.sn.negotiated = true ∧ t.mem = s.mem) ∧
      (s.featAcc &&& ~~~ s.sn.offered ≠ 0 ∨ (s.sn.negotiated = true ∧ s.featAcc ≠ s.feat ∧ ∃ y ∈ s.jobs, y.2.st = .running) →
        ∃ t, exec .featctlCommit s = .next t ∧ t.feat = s.feat ∧ t.sn.featCtl = 2 ∧ t.sn.negotiated = s.sn.negotiated ∧ t.mem = s.mem))

/-- R375 to R377: MIGQUIESCE suspends every launch and answers once the job is still; MIGSEND and MIGRECV record their PASS, refuse one used
before, and end with their stream; MIGRESUME resumes every launch and each frozen task.  The model's choices: the stream's headers in clear
with no associated data, and the whole stream in one step (log entry 148); that a task which a trap stopped continues too (150). -/
def Obligations.MigrationResults : Prop :=
  ∀ s : State, s.adminOpen = true → s.sn.recovery = false → s.arg 0 = 0 → s.feat.getLsbD 1 = true →
    let j := s.arg 2
    (s.job j).st = .running →
    (∃ t, exec .migquiesce s = .next t ∧ (∀ d n, (d, n) ∈ s.jobLaunches j → (t.node d n).susp = true) ∧ t.mem = s.mem ∧
      (s.jobLaunches j = [] → s.jobStill j = true → (t.job j).quiesced = true ∧
        Answered s t admOk (s.ctxsWhere fun _ _ x => x.job == j).length) ∧
      (s.jobLaunches j = [] → s.jobStill j = false → t = s)) ∧
    (∀ mat, s.streamKey j (s.arg 5) = some mat → s.arg 3 ≤ 2 → (s.arg 3 = 2 → (s.job j).quiesced = true) →
      (passUsed s.sn.sendPass (s.arg 5) (s.arg 4) = true → ∃ t, exec .migsend s = .next t ∧ Answered s t admInvalid 0 ∧ t.mem = s.mem) ∧
      (passUsed s.sn.sendPass (s.arg 5) (s.arg 4) = false → ∃ t, exec .migsend s = .next t ∧ Answered s t admOk 0 ∧
        tfind t.sn.sendPass (s.arg 5) = some (s.arg 4 % 2 ^ 32))) ∧
    (∀ mat, s.streamKey j (s.arg 4) = some mat →
      (passUsed s.sn.recvPass (s.arg 4) (s.arg 3) = true → ∃ t, exec .migrecv s = .next t ∧ Answered s t admInvalid 0 ∧ t.mem = s.mem) ∧
      (passUsed s.sn.recvPass (s.arg 4) (s.arg 3) = false → ∀ hd tag body, hd.length = 16 → tag.length = 16 → s.cur.inp = hd ++ tag →
        ofBytes hd = rtEnd →
        gcmOpen (mat.setWidth 256) (BitVec.ofNat 96 (s.arg 3 % 2 ^ 32 * 2 ^ 64)) [] [] (BitVec.ofNat 128 (ofBytes tag)) = some body →
        ∃ t, exec .migrecv s = .next t ∧ Answered s t admOk 0 ∧ tfind t.sn.recvPass (s.arg 4) = some (s.arg 3 % 2 ^ 32) ∧
          t.mem = s.mem)) ∧
    ∃ t, exec .migresume s = .next t ∧ (t.job j).quiesced = false ∧ Answered s t admOk 0 ∧
      (∀ d n, (d, n) ∈ s.jobLaunches j → (t.node d n).susp = false) ∧
      ∀ i k, s.jobLaunches j = [] → (s.ctxsWhere fun _ _ x => x.job == j) = [(i, k)] → (s.ctxAt i k).stat = .frozen →
        (t.ctxAt i k).stat ≠ .frozen

/-! The host and its link (R349, R360, R364, R365, R367, R372). -/

/-- R349, R360, R364, R365, R372: BAR2 reads and writes under the function's key, or aborts and performs nothing; key messages act for a
tenant whose key was proved; TDI states move by their messages; sessions, IDE keys and signed measurements.  The model's choices: the forms
of the messages and of their answers (log entries 139, 140, 185, 186), the way out of RUN (140), and the access numbers by which the side-band
reads the dump and a function reads BAR0 (184), where a tenant's key is taken from (197), and the form of the identity (203). -/
def Obligations.HostResults : Prop :=
  ∀ s : State,
    let a := s.arg 0
    let b := s.arg 1
    let c := s.arg 2
    (∀ f, a = 512 + f → s.linkUp = true → b = 0 → c < 0x10000 → s.arg 3 ≠ 0 → ∃ t, exec .bar2Access s = .next t ∧
      t.hostOut = s.hostOut ++ [.bar f true (toBytes (s.barRead f (c / 8 * 8)).toNat 8)] ∧ t.mem = s.mem) ∧
    (a = 256 → b = 0 → s.sn.dumped.isSome = true → inDump c (s.arg 3) = true → ∃ t, exec .bar2Access s = .next t ∧
      t.hostOut = s.hostOut ++ [.reply true (s.bytesAt s.key0 c (s.arg 3))] ∧ t.mem = s.mem) ∧
    (s.linkUp = true → a < 256 → s.arg 3 ≠ 0 →
      let data := s.cur.inp
      let n := if b = 0 then s.arg 3 else data.length
      (s.barAborts a c n = true → ∃ t, exec .bar2Access s = .next t ∧ t.hostOut = s.hostOut ++ [.bar a false []] ∧ t.mem = s.mem) ∧
      (s.barAborts a c n = false → b = 0 → ∃ t, exec .bar2Access s = .next t ∧ t.mem = s.mem ∧
        t.hostOut = s.hostOut ++ [.bar a true (s.bytesAt ((s.keyMat (s.apKey a)).getD 0) c n)]) ∧
      (s.barAborts a c n = false → b ≠ 0 → ∀ off, plocOf c = .crucible off → ∃ t, exec .bar2Access s = .next t ∧
        t.hostOut = s.hostOut ++ [.bar a true []] ∧ (∀ i (h : i < data.length), memGet t.mem (c + i) = data[i]) ∧
        SameMemOutside s t c data.length)) ∧
    (∀ x, tfind s.sn.sessions a = some x → x.tenants.contains b = true → s.confidential b = true →
      (1 ≤ c → c < 8192 → tfind s.keys c = none → ∃ t, exec .keySet s = .next t ∧
        tfind t.keys c = some ⟨BitVec.ofNat 512 (s.arg 3), b⟩ ∧ t.hostOut = s.hostOut ++ [.reply x.side [BitVec.ofNat 8 admOk]] ∧
        t.mem = s.mem) ∧
      (∀ r, tfind s.keys c = some r → r.owner = b → ∃ t, exec .keyZero s = .next t ∧ tfind t.keys c = none ∧
        t.hostOut = s.hostOut ++ [.reply x.side [BitVec.ofNat 8 admOk]] ∧ t.mem = s.mem)) ∧
    (∀ x, tfind s.sn.sessions a = some x → x.tenants.contains b = false → ∃ t u, exec .keySet s = .next t ∧ t.keys = s.keys ∧
      exec .keyZero s = .next u ∧ u.keys = s.keys ∧ t.hostOut = s.hostOut ++ [.reply x.side [BitVec.ofNat 8 admDenied]] ∧
      u.hostOut = t.hostOut) ∧
    (s.linkUp = true → 1 ≤ a → a < 256 →
      (s.feat.getLsbD 0 = true → (s.tdi a).st = .unlocked → (tfind s.tenants b).isSome = true → ∃ t, exec .lockInterface s = .next t ∧
        (t.tdi a).st = .locked ∧ (t.tdi a).tenant = b ∧ t.mem = s.mem ∧
        t.hostOut = s.hostOut ++ [.reply false (BitVec.ofNat 8 admOk :: interfaceReport a)]) ∧
      ((s.tdi a).st = .locked → ∃ t, exec .tdiEnterRun s = .next t ∧ (t.tdi a).st = .run ∧ (t.tdi a).tenant = (s.tdi a).tenant ∧
        t.mem = s.mem)) ∧
    (1 ≤ a → a < 256 → ∃ t, exec .tdiLeaveRun s = .next t ∧ t.mem = s.mem ∧
      (t.tdi a).st = (if b = 0 then .unlocked else .error) ∧
      ((s.tdi a).st = .run → s.confidential (s.tdi a).tenant = true → t.agenda = s.agenda ++ linkdownEvs (s.tdi a).tenant)) ∧
    ((a = 0 ∧ s.linkUp = true) ∨ (a ≠ 0 ∧ s.sn.recovery = false) →
      let body := BitVec.ofNat 8 (if b = 0 then 5 else (measAsked b).length) :: (measAsked b).flatMap s.measBlock
      ∃ t, exec .getMeasurements s = .next t ∧ t.mem = s.mem ∧
        t.hostOut = s.hostOut ++ [.reply (a != 0) (body ++ s.identitySign (s.cur.inp ++ body))]) ∧
    ((b = 0 ∧ s.linkUp = true) ∨ (b ≠ 0 ∧ s.sn.recovery = false) →
      ∃ t x, exec .spdmSecuredSession s = .next t ∧ tfind t.sn.sessions a = some x ∧ x.side = (b != 0) ∧ t.mem = s.mem ∧
        t.hostOut = s.hostOut ++ [.reply (b != 0) (BitVec.ofNat 8 admOk :: s.identityOf ++ s.identitySign s.cur.inp)] ∧
        (∀ key, (tfind s.tenants c).isSome = true → s.tenantKey c = some key →
          ecdsaOk key (sha256 (s.cur.inp.take (s.cur.inp.length - 64)))
            (BitVec.ofNat 512 (ofBytes (s.cur.inp.drop (s.cur.inp.length - 64)))) = true → x.tenants.contains c = true) ∧
        ((tfind s.tenants c = none) → tfind s.sn.sessions a = none → x.tenants = [])) ∧
    (s.linkUp = true → a < 64 → ∃ t, exec .ideStreamProgram s = .next t ∧ tfind t.sn.streams a = some (BitVec.ofNat 256 b) ∧
      t.mem = s.mem)

/-- R367: at a link-down every TDI is in ERROR and DMA stops; confidential jobs then stop as for a kill, their cores' stores read zero and
their tenants' keys are EMPTY; the link comes up again, and DMA runs once Bus Master Enable is set.  That the later actions come as events of
the agenda is the model's choice (log entry 141). -/
def Obligations.LinkDownResults : Prop :=
  ∀ s : State,
    let only := s.arg 0
    let hit (j : Nat) (b : Job) (st : JobSt) : Prop := tfind s.jobs j = some b ∧ b.st = st ∧ s.downTenant only b.tenant = true
    (∃ t, exec .linkDown s = .next t ∧ t.linkUp = false ∧ t.dmaOn = false ∧ t.sn.streams = [] ∧ t.mem = s.mem ∧
      (∀ f, 1 ≤ f → f < 256 → (t.tdi f).st = .error) ∧ (∀ y ∈ t.sn.sessions, y.2.side = true) ∧ t.agenda = s.agenda ++ linkdownEvs 0) ∧
    (∃ t, exec .linkdownStopConfJobs s = .next t ∧ ∀ j b, hit j b .running → (t.job j).st = .linkKilled ∧
      ∀ i k x, k < 4 → (s.ctxAt i k).task = some x → x.job = j → (t.ctxAt i k).stat = .free) ∧
    (∃ t, exec .linkdownZeroise s = .next t ∧
      (∀ k r, tfind s.keys k = some r → s.downTenant only r.owner = true → tfind t.keys k = none) ∧
      (∀ j b i, hit j b .linkKilled → (s.coreAt i).bound = some j ∨ (s.coreAt i).unbindJob = some j →
        ∀ a, spBase i ≤ a → a < spBase i + 0x60000 → memGet t.mem a = 0) ∧
      ∀ a, memGet t.mem a = 0 ∨ memGet t.mem a = memGet s.mem a) ∧
    (∃ t, exec .hostLinkUp s = .next t ∧ t = { s with linkUp := true }) ∧
    (s.linkUp = true → ∃ t, exec .busMasterEnable s = .next t ∧ t.dmaOn = true ∧ t.mem = s.mem)

/-! Boot, firmware, power and the fatal dump (R347, R368 to R370, R378, R379, R434). -/

/-- R217, R369, R370, R378, R379, R434: a reset clears the stores, takes the first slot that passes the ROM's tests and counts an attempt,
or ends in recovery; the watchdog and HEALTHY, updates and commits, power and clock; a fatal event empties confidential keys and cuts the
dump.  The model's choices: what PACKAGE_RESET clears beside what the spec names (log entry 142), the numbers of the dump's causes (76), and
the 31 steps of the clock (145), the form of key digests (184), and where the ROM has its key (208). -/
def Obligations.BootResults : Prop :=
  ∀ s : State,
    let a := s.arg 0
    let slot (t : State) (i : Nat) : FwSlot := tget FwSlot.none t.sn.slots i
    let resets (i : Instr) : Prop := ∃ t, exec i s = .next t ∧ t.cores = [] ∧ t.jobs = [] ∧ t.tenants = [] ∧ t.poison = [] ∧
      (∀ e ∈ t.agenda, outside e.ins = true) ∧ t.sn.otpsvn = s.sn.otpsvn ∧ t.keys = [(0, ⟨Config.randomKey s.fresh, 0⟩)] ∧
      (∀ k fb, s.bootSlot = some (k, fb) → t.sn.running = k ∧ t.sn.fb = fb ∧ t.sn.watchdog = true ∧ t.sn.recovery = false ∧
        (slot t k).att = (slot s k).att + 1 ∧ t.sn.otpBoot = s.sn.otpsvn ∧ (fwSup (slot s k).image = none → t.mem = [])) ∧
      (s.bootSlot = none → t.sn.recovery = true ∧ t.sn.offered = 0 ∧ t.sn.fb = true ∧ t.sn.otpBoot = s.sn.otpsvn ∧ t.mem = [])
    (a = 0 ∧ s.sn.update ≠ some true ∧ s.sn.recovery = false ∨ 1 ≤ a → resets .packageReset) ∧
    (s.sn.watchdog = true → resets .watchdogExpire) ∧ (s.sn.watchdog = false → ∃ t, exec .watchdogExpire s = .next t ∧ t = s) ∧
    (s.sn.watchdog = true → ∃ t, exec .firmwareHealthy s = .next t ∧ t.sn.healthy = true ∧ t.sn.watchdog = false ∧
      t.sn.att = (slot s s.sn.running).att ∧ (slot t s.sn.running).att = 0 ∧ t.mem = s.mem) ∧
    (a ≠ 0 ∨ s.sn.update ≠ some true → ∃ t, exec .firmwareUpdate s = .next t ∧
      let x := slot t (1 - s.sn.running)
      x.svn = s.arg 1 % 128 ∧ x.image = s.cur.inp ∧ x.sig = BitVec.ofNat 512 (s.arg 2) ∧
      t.sn.update = some (a != 0) ∧ t.sn.pref = s.sn.pref ∧ t.sn.running = s.sn.running ∧ t.mem = s.mem) ∧
    (s.sn.update = some (a != 0) → ∃ t, exec .firmwareCommit s = .next t ∧ t.sn.update = none ∧ t.mem = s.mem ∧
      let x := slot s (1 - s.sn.running)
      let good := keyDigest s.sn.fwKey = s.sn.otpKey ∧ ecdsaOk s.sn.fwKey (sha256 x.image) x.sig = true
      (good → s.sn.otpsvn ≤ x.svn → t.sn.pref = 1 - s.sn.running ∧ (slot t (1 - s.sn.running)).att = 0) ∧
      (¬ good ∨ x.svn < s.sn.otpsvn → t.sn.pref = s.sn.pref)) ∧
    (a = 0 → s.sn.update = some true → ∃ t, exec .firmwareCommit s = .next t ∧ t.sn = s.sn ∧
      t.hostOut = s.hostOut ++ [.reply false [BitVec.ofNat 8 admBusy]]) ∧
    (a ≠ 0 → s.sn.update = some false → ∃ t, exec .firmwareCommit s = .next t ∧ t.sn.update = none ∧ t.sn.pref = s.sn.pref) ∧
    (a ≠ 0 ∨ s.sn.update ≠ some true → a = 0 ∨ s.sn.recovery = false → ∃ t, exec .powerLimitSet s = .next t ∧ t.mem = s.mem ∧
      t.sn.power = if 900 ≤ s.arg 1 ∧ s.arg 1 ≤ 1800 then s.arg 1 else s.sn.power) ∧
    (∃ t, exec .clockStep s = .next t ∧ t = { s with sn := { s.sn with
      clock := if a ≠ 0 then Min.min (s.sn.clock + 1) 31 else s.sn.clock - 1 } }) ∧
    (let dumps (i : Instr) (cause : Nat) (ports : List Nat) : Prop := ∃ t, exec i s = .next t ∧ t.sn.dumped = some cause ∧
       t.sn.cutPorts = ports ∧ ∀ k r, tfind s.keys k = some r → s.confidential r.owner = true → tfind t.keys k = none
     (s.sn.dumped = none → dumps .thermalTrip 2 [] ∧ dumps .fatalDump a [] ∧ dumps .dumpMarkerArrive 3 [a]) ∧
      (s.sn.dumped.isSome = true → (∃ t, exec .thermalTrip s = .next t ∧ t = s) ∧ (∃ t, exec .fatalDump s = .next t ∧ t = s) ∧
        (a ∈ s.sn.cutPorts → ∃ t, exec .dumpMarkerArrive s = .next t ∧ t = s) ∧
        (a ∉ s.sn.cutPorts → ∃ t, exec .dumpMarkerArrive s = .next t ∧ t.sn.cutPorts = s.sn.cutPorts ++ [a] ∧
          t.sn.dumped = s.sn.dumped)))

/-! The fabric (R380 to R418). -/

/-- R380, R384, R391, R404, R411, R412, R416: a packet that arrives spends one hop and runs; a staged packet goes to an injection lane with
its stamps, or waits for its PKT_SEND to leave and takes that record's time; a packet that cannot leave parks; a remote request of a known job
is served and answered, one of an unknown job fails, one for a third node goes on; remote operations succeed, fail or are discarded; links
come and go; a package that has taken its cut records what arrives.  The model's choices: timeouts as events (log entry 121), what a request
and its response carry (126), the outbox of the node (127), the form in which arrivals are recorded (188), and a packet's TS where its record
waits (207). -/
def Obligations.FabricEventResults : Prop :=
  ∀ s : State,
    let l := s.cur.lane
    (∀ p rest j, s.laneHeld l = false → (s.fab.lane l).pkt = none → (s.fab.lane l).queue = (p, .arrive) :: rest → s.cur.inp = [] → s.sn.dumped = none →
      tfind s.fab.jobs p.pmi = some j → j.tenant = p.tenant →
      (p.hb ≠ 0 → ∃ t, exec .packetArrival s = .next t ∧ t.fab.lane l = ⟨rest, some { p with hb := p.hb - 1 }, 0⟩ ∧ t.mem = s.mem) ∧
      (p.hb = 0 → ∃ t, exec .packetArrival s = .next t ∧ (t.fab.lane l).pkt = none ∧ t.mem = s.mem ∧
        ∀ n, ((List.range 256).find? fun i => (tfind s.fab.park i).isNone) = some n →
          tfind t.fab.park n = some ⟨p, 0x01, s.now, s.fab.parkN⟩)) ∧
    (∀ i x, (s.fab.pktq.find? fun c => c.core == s.cur.core && c.ctx == s.cur.ctx) = some i → i.cmd.kind = .pksnd →
      s.fab.unsent = [] → bitsOf i.cmd.md 5 3 = 0 → (s.fab.staged.find? fun y => y.isSlot i (bitsOf i.cmd.md 2 0)) = some x →
      let q : Packet := { x.pkt with src := bitsOf s.nodecfg.toNat 14 0, tenant := s.tenantOf i.job, pmi := i.job, rty := false, cln := false }
      let src := s.source (srcCore i.core)
      let d := s.stream (sinkOf (srcCore i.core)) q.tenant
      q.bad s.nodecfg = false →
      ∃ t, exec .packetInject s = .next t ∧ t.mem = s.mem ∧ t.fab.pktq = s.fab.pktq.erase i ∧
        (∀ y ∈ t.fab.staged, y.isSlot i (bitsOf i.cmd.md 2 0) = false) ∧
        (src.waiting = [] → src.used ≤ 6 →
          ∃ k ts, (k = 6 ∨ k = 7) ∧ (t.fab.lane k).queue = (s.fab.lane k).queue ++ [({ q with ts := ts }, .inject)] ∧
            (t.fab.lane k).pkt = (s.fab.lane k).pkt ∧ t.fab.unsent = []) ∧
        (src.waiting ≠ [] → src.sends = [] → recordPasses d 0x31 = true → s.lossless d = true →
          t.fab.unsent = [⟨i, q, none⟩] ∧ t.fab.lanes = s.fab.lanes)) ∧
    (∀ u n ts, s.fab.unsent = [u] → u.inp.core = s.cur.core → u.inp.ctx = s.cur.ctx → u.ts = none →
      ((s.source (srcCore s.cur.core)).sends.find? fun y => y.1 == u.pkt.tenant) = some (n, ts) →
      ∃ t k, exec .packetInject s = .next t ∧ t.mem = s.mem ∧ t.fab.unsent = [] ∧ (k = 6 ∨ k = 7) ∧
        (t.fab.lane k).queue = (s.fab.lane k).queue ++ [({ u.pkt with ts := BitVec.ofNat 64 ts }, .inject)]) ∧
    (∀ x, s.fab.leaving[s.arg 0]? = some x → ∃ t, exec .packetTimeout s = .next t ∧ t.mem = s.mem ∧
      t.fab.leaving = s.fab.leaving.eraseIdx (s.arg 0) ∧
      ∀ n, ((List.range 256).find? fun i => (tfind s.fab.park i).isNone) = some n →
        tfind t.fab.park n = some ⟨x.before, 0x0B, s.now, s.fab.parkN⟩) ∧
    (∀ i, (s.fab.pktq.find? fun c => c.core == s.cur.core && c.ctx == s.cur.ctx) = some i → i.cmd.kind = .pkprkDrop → i.core = s.cur.core → s.fab.unsent = [] →
      (s.core.handle (i.cmd.c.toNat % 128)).st = .free → s.heldBack i.core i.ctx i.serial = false →
      ∀ n x, s.pickPark i = some (n, x) →
      ∃ t, exec .packetUnitDone s = .next t ∧ t.mem = s.mem ∧ t.fab.park = terase s.fab.park n ∧ t.fab.pktq = s.fab.pktq.erase i ∧
        ((t.coreAt s.cur.core).handle (i.cmd.c.toNat % 128)).st = .full) ∧
    (let r : RemReq := ⟨rkindOf (s.arg 0), s.arg 1, s.arg 2, s.arg 3, s.arg 4, s.arg 5, s.arg 6, s.arg 7, s.cur.inp, s.arg 8 != 0, s.arg 9⟩
     let s1 : State := { s with cur := { s.cur with least := r.sent + 32 } }
     let va := BitVec.ofNat 64 r.addr
     let parts := pageParts (r.n / 4096 + 2) 0 va r.n
     let mine : Prop := ∃ j, tfind s.fab.jobs r.job = some j ∧ j.tenant = r.tenant
     let answers (u t : State) (ok : Bool) (data : List Byte) (bad : Bool) : Prop :=
       let port := (routePort s.nodecfg r.src).getD 0
       let m : NetMsg := .response port r.src ⟨r.slot, ok, data, bad, u.now⟩
       (r.src = s.self → t.agenda = u.agenda ++ [⟨.remoteResponseArrive, 0, 0, 0,
          [r.slot, if ok = true then 1 else 0, if bad = true then 1 else 0, u.now, s.self, 8], data⟩]) ∧
       (r.src ≠ s.self → t.agenda = u.agenda ∧ t.fab.net = u.fab.net ++ (if u.present port = true then [m] else []) ∧
         t.fab.held = u.fab.held ++ if u.present port = true then [] else [m])
     (s.sn.dumped.isSome = true → s.arg 11 < 6 → s.sn.cutPorts.contains (s.arg 11) = false →
       ∃ t, exec .remoteRequestArrive s = .next t ∧ t = { s with sn := { s.sn with chan := s.sn.chan ++ [(s.arg 11, r.flits)] } }) ∧
     (s.sn.dumped = none → s.arg 10 ≠ s.self →
       let m : NetMsg := .request ((routePort s.nodecfg (s.arg 10)).getD 0) (s.arg 10) r
       ∃ t, exec .remoteRequestArrive s = .next t ∧ t.mem = s.mem ∧
         (s.present (m.port s.nodecfg) = true → t.fab.net = s.fab.net ++ [m]) ∧
         (s.present (m.port s.nodecfg) = false → t.fab.held = s.fab.held ++ [m])) ∧
     (s.sn.dumped = none → s.arg 10 = s.self →
      (∀ u rs, r.kind = .rld → mine → s1.cpPages 4 (s1.anvilView r.job) .read parts = (u, .inl rs) →
        ∃ t, exec .remoteRequestArrive s = .next t ∧ t.mem = u.mem ∧ answers u t true (u.runsRead rs).1 (u.runsRead rs).2) ∧
      (∀ u rs, r.kind = .rst ∨ r.kind = .ffn → mine → s1.cpPages 4 (s1.anvilView r.job) .write parts = (u, .inl rs) →
        (∀ x ∈ rs, u.keyDead x.key x.pa = false) →
        ∃ t, exec .remoteRequestArrive s = .next t ∧ t.mem = (u.runsWrite rs r.data fun _ _ => r.bad).mem ∧
          answers (u.runsWrite rs r.data fun _ _ => r.bad) t true [] false) ∧
      (∀ u rs, r.kind = .faa → mine → s1.cpPages 4 (s1.anvilView r.job) .write parts = (u, .inl rs) →
        (∀ x ∈ rs, u.keyDead x.key x.pa = false) →
        let old := ofBytes (u.runsRead rs).1
        let bad := (u.runsRead rs).2
        ∃ t, exec .remoteRequestArrive s = .next t ∧
          let w := u.runsWrite rs (toBytes (old + ofBytes r.data) r.n) fun _ _ => bad || r.bad
          t.mem = w.mem ∧ answers w t true (toBytes old 8) bad) ∧
      (∀ off, plocOf r.addr = .crucible off → rangeMapped r.addr r.n = true →
        (r.kind = .apRead → ∃ t, exec .remoteRequestArrive s = .next t ∧ t.mem = s.mem ∧
          answers s t true (s.placeBytes r.key r.addr r.n) (s.isPoisoned r.addr r.n)) ∧
        (r.kind = .apWrite → r.data.length = r.n → ∃ t, exec .remoteRequestArrive s = .next t ∧ answers s t true [] false ∧
          (∀ i (h : i < r.data.length), memGet t.mem (r.addr + i) = r.data[i]) ∧ SameMemOutside s t r.addr r.n)) ∧
      (r.kind = .rld ∨ r.kind = .rst ∨ r.kind = .faa ∨ r.kind = .ffn → tfind s.fab.jobs r.job = none →
        ∃ t, exec .remoteRequestArrive s = .next t ∧ t.mem = s.mem ∧ answers s t false [] false))) ∧
    (∀ o h, s.sn.dumped = none → s.arg 4 = s.self → s.remoteAt (s.arg 0) = some o → o.stage = .sent → o.stuck = false → o.inp.cmd.kind = .rst → o.hnd = some h →
      ((s.coreAt o.inp.core).handle h).rel = none →
      s.heldBack o.inp.core o.inp.ctx o.inp.serial = false →
      ∃ t, exec .remoteResponseArrive s = .next t ∧ t.mem = s.mem ∧ t.remoteAt (s.arg 0) = none ∧
        ((t.coreAt o.inp.core).handle h).st = .full) ∧
    (∀ port node r, s.fab.held[s.arg 0]? = some (.response port node r) →
      ∃ t, exec .remoteDiscard s = .next t ∧ t = s.updFab fun f => { f with held := f.held.eraseIdx (s.arg 0) }) ∧
    (exec .linkFlitRetry s = .next s) ∧
    (s.arg 0 < 6 → ∃ t, exec .torusLinkTrained s = .next t ∧ t.mem = s.mem ∧ t.fab.links = s.fab.links ||| (1#6 <<< s.arg 0) ∧
      (s.sn.dumped.isSome = true → t.fab.net = s.fab.net) ∧
      (t.present (s.arg 0) = true → s.sn.dumped = none → (∀ m ∈ t.fab.held, m.port s.nodecfg ≠ s.arg 0) ∧
        ∀ m ∈ s.fab.held, m.port s.nodecfg = s.arg 0 → m ∈ t.fab.net)) ∧
    (s.arg 0 < 6 → ∃ t, exec .torusLinkDown s = .next t ∧ t.mem = s.mem ∧ t.fab.links.getLsbD (s.arg 0) = false ∧
      (∀ x, x ∈ t.fab.leaving ↔ x ∈ s.fab.leaving ∧ x.port ≠ s.arg 0) ∧
      ∀ x n, (s.fab.leaving.filter fun y => y.port == s.arg 0) = [x] →
        ((List.range 256).find? fun i => (tfind s.fab.park i).isNone) = some n →
        tfind t.fab.park n = some ⟨x.before, 0x08, s.now, s.fab.parkN⟩)

/-! Collectives (R419 to R435). -/

/-- R419, R425 to R427, R431: a legal COLL or RESH of a pair that is not active becomes active on its die; new weights come in through CWGT;
a ready bucket's contribution, the fold of its dies, goes to every other mesh node; a bucket whose contributions are here writes its outputs,
its completion word and its counter; one of a collective that has been aborted completes with the word that says so; an abort or a chunk of a
pair not yet seen is kept, and an abort ends one that is active; the order of a reduction on a line of two nodes (R423), and the exchange of a
RESH there (R433).  The model's choices: the fields of a chunk (log entry 128), the words of a failed bucket (130), that a pair aborted
before its COLL is kept (131), and which messages come too late (200). -/
def Obligations.CollectiveEventResults : Prop :=
  ∀ s : State,
    let j := s.arg 0
    let n := s.arg 1
    (∀ i rest, s.fab.collq = i :: rest → i.cmd.kind = .cwgt → s.sn.dumped = none →
      ∃ t, exec .collAccept s = .next t ∧ t.fab.collq = rest ∧ t.fab.newWeights = some (i.cmd.a.setWidth 12) ∧
        t.fab.weights = s.fab.weights ∧ t.mem = s.mem) ∧
    (∀ i rest u h l es, s.fab.collq = i :: rest → i.cmd.kind = .coll ∨ i.cmd.kind = .resh → s.sn.dumped = none →
      ({ s with fab := { s.fab with collq := rest }, cur := { s.cur with least := i.sent + 32 } } : State).collRecord i =
        (u, some (h, l, some es)) →
      u.collAt i.job (chNum h) = none → (if i.cmd.kind = .resh then u.reshBad i.job h l else u.collBad i.job h es) = false →
      (chDies h).contains (dieOf i.core) = true →
      ∃ t, exec .collAccept s = .next t ∧ t.mem = u.mem ∧ t.fab.collq = u.fab.collq ∧
        t.fab.colls = u.fab.colls ++ [⟨i.job, chNum h, chShared h, clShared l, [⟨dieOf i.core, i, chCwa h, es, none, [], []⟩],
          [], [], [], none, false, [], [], none⟩]) ∧
    (∀ w, s.fab.newWeights = some w →
      ∃ t, exec .cwgtApply s = .next t ∧ t.fab.weights = w ∧ t.fab.newWeights = none ∧ t.mem = s.mem) ∧
    (∀ c d, s.stalled srcColl = false → s.fab.colls = [c] → c.job = j → c.cnum = n → c.ended = some 8 → c.spread = false → c.ends = [] → c.stuck = [] →
      c.dies = [d] → d.ends = [] → d.st = none → s.arg 2 < d.ents.length → s.sn.dumped = none →
      s.heldBack d.inp.core d.inp.ctx d.inp.serial = false →
      let ctr := chCtr c.hdr.toNat + s.arg 2
      (c.failed = [(d.die, s.arg 2)] → ∃ t, exec .bucketComplete s = .next t ∧ t.mem = s.mem ∧
        (ctr / 64 = j → tget 0 t.fab.dctr ctr = tget 0 s.fab.dctr ctr + 1)) ∧
      (c.failed = [] → c.cause = none → ∀ u, s.collStore d (BitVec.ofNat 64 (d.cwa + 16 * s.arg 2)) (collWord 8 0 0) = (u, none) →
        u.fab = s.fab → ∃ t, exec .bucketComplete s = .next t ∧ t.mem = u.mem ∧
          (ctr / 64 = j → tget 0 t.fab.dctr ctr = tget 0 s.fab.dctr ctr + 1))) ∧
    (∀ c d, s.stalled srcColl = false → s.sn.dumped = none → s.fab.colls = [c] → c.job = j → c.cnum = n → c.ended = none → c.spread = false →
      c.ends = [] → c.stuck = [] → c.failed = [] → c.dies = [d] → d.ends = [] → d.outs = [] → d.st = none → s.arg 2 < d.ents.length →
      let b := s.arg 2
      let h := c.hdr.toNat
      (∀ u l, c.sent = [] → c.got = [] → 1 < chNodes h → b < chNb h → chDies h = [d.die] → s.bucketReady c d.die b = true →
        s.collRead d (ceSrc (d.ents.getD b 0)) (chWidth h) (c.len b) = (u, .inl l) → u.fab = s.fab →
        let k : Chunk := ⟨j, c.hdr, c.lay, b, u.meshSelf h, (List.range (c.len b)).map fun e => foldDies (chType h) (chRop h) fun i =>
          if i = d.die then some (l.getD e CElem.zero) else none, u.now⟩
        ∃ t, exec .bucketComplete s = .next t ∧ t.mem = u.mem ∧ t.fab.colls = [{ c with got := [k], sent := [b] }] ∧
          ∀ p, p < chNodes h → meshNode u.nodecfg h p ≠ u.self →
            .chunk (meshNode u.nodecfg h p) k ∈ t.fab.net ∨ .chunk (meshNode u.nodecfg h p) k ∈ t.fab.held) ∧
      (∀ xs u rs, c.sent.contains b = true → c.inputs b = some xs →
        let ys := if c.isResh = true then reshOuts h c.lay.toNat (s.meshSelf h) xs else collOuts h (c.len b) (s.meshSelf h) xs
        s.cpRuns 4 d.view 3 .write (ceDst (d.ents.getD b 0)) (chWidth h * ys.length) = (u, .inl rs) →
        (∀ r ∈ rs, u.keyDead r.key r.pa = false) → (∀ y ∈ ys, y.bad = false) →
        let w := u.runsWrite rs (ys.flatMap fun y => toBytes y.bits (chWidth h)) clean
        let fl := (ys.foldl (fun (a : Flags) y => a ||| y.fl) 0).toNat
        let nan := (ys.filter fun y => decide (chType h ≤ 5) && (decodeFmt (fmtN (chType h)) y.bits).1.isNaN).length
        let m := w.updColl j n fun x => x.updDie d.die fun y => { y with outs := tset y.outs b (fl, nan) }
        let x : State := match m.bucketCause c b with | some t => { m with cur := { m.cur with least := t + 32 } } | none => m
        w.fab = s.fab → x.heldBack d.inp.core d.inp.ctx d.inp.serial = false →
        ∀ v, x.collStore d (BitVec.ofNat 64 (d.cwa + 16 * b)) (collWord 0 fl nan) = (v, none) → v.fab = x.fab →
        ∃ t, exec .bucketComplete s = .next t ∧ t.mem = v.mem ∧
          ((chCtr h + b) / 64 = j → tget 0 t.fab.dctr (chCtr h + b) = tget 0 s.fab.dctr (chCtr h + b) + 1))) ∧
    (s.sn.dumped = none → s.collLate j n (s.arg 2) = false → s.collAt j n = none →
      ∃ t, exec .collAbortArrive s = .next t ∧ t.mem = s.mem ∧
        t.fab.colls = s.fab.colls ++ [⟨j, n, 0, 0, [], [], [], [], some 8, false, [], [], some (s.arg 2)⟩]) ∧
    (∀ c, s.sn.dumped = none → s.collLate j n (s.arg 2) = false → s.collAt j n = some c → c.ended = none →
      ∃ t x, exec .collAbortArrive s = .next t ∧ t.mem = s.mem ∧ t.collAt j n = some x ∧ x.ended = some 8 ∧ x.ends = c.ends ∧ x.got = c.got) ∧
    (let h := chShared (ofBytes (s.cur.inp.take 64))
     let k : Chunk := ⟨j, h, clShared (ofBytes (s.cur.inp.drop 64)), n, s.arg 2, elemsOf (s.cur.arg.drop 4), s.arg 3⟩
     s.sn.dumped = none → s.collLate j (chNum h.toNat) k.sent = false → s.collAt j (chNum h.toNat) = none →
      ∃ t, exec .collChunkArrive s = .next t ∧ t.mem = s.mem ∧
        t.fab.colls = s.fab.colls ++ [⟨j, chNum h.toNat, k.hdr, k.lay, [], [k], [], [], none, false, [], [], none⟩]) ∧
    (∀ h len (x y : List CElem) e, chExt h 0 = 2 → chExt h 1 = 1 → chExt h 2 = 1 → e < len →
      let c := e / ((len + 1) / 2)
      let a := x.getD e CElem.zero
      let b := y.getD e CElem.zero
      (allReduce h len [x, y]).getD e CElem.zero =
        if c % 2 = 0 then celemOp (chType h) (chRop h) b a else celemOp (chType h) (chRop h) a b) ∧
    (∀ h l (x y : List CElem) p, chExt h 0 = 2 → chExt h 1 = 1 → chExt h 2 = 1 → p < 2 → clRank l = 1 → clFps l = 0 → clTps l = 0 →
      clFrom l 0 = 1 → (∀ k, k < 4 → clTo l k = 0 ∧ (k ≠ 0 → clFrom l k = 0)) → clExt l 0 = 2 * x.length → y.length = x.length →
      reshOuts h l p [x, y] = x ++ y)

/-! Packet instructions (R391 to R401). -/

/-- R391 to R396, R401: a packet instruction of the stack, arithmetic, information, payload or branch group leaves the packet with the
popped and pushed values and the next PC, memory as it was; a pop of an empty stack, a push onto a full one, a PACC beyond PLEN, the
seventeenth instruction and a disabled group park the packet as it stood.  The order in which these reasons are judged is the model's choice
(log entry 179). -/
def Obligations.PacketInstructionResults : Prop :=
  ∀ (s : State) (p : Packet),
    let x := s.fab.lane s.cur.lane
    let top := tget 0 p.stk (p.sd - 1)
    let under := tget 0 p.stk (p.sd - 2)
    let goes (i : Instr) (q : Packet) : Prop := ∃ t, exec i s = .next t ∧ PktGoes s t q ∧ t.mem = s.mem
    let parks (i : Instr) (code : Nat) : Prop := ∃ t, exec i s = .next t ∧ PktParks s t p code
    let pushed (i : Instr) (v : BitVec 32) : Prop :=
      (p.sd < 8 → goes i { p with stk := tset p.stk p.sd v, sd := p.sd + 1, pc := p.pc + 1 }) ∧ (8 ≤ p.sd → parks i 0x04)
    let binary (i : Instr) (v : BitVec 32) : Prop :=
      (2 ≤ p.sd → p.sd ≤ 8 → goes i { p with stk := tset p.stk (p.sd - 2) v, sd := p.sd - 1, pc := p.pc + 1 }) ∧
      (p.sd < 2 → parks i 0x03)
    x.pkt = some p → p.sd ≤ 8 →
    (∀ i g, pktGroup i = some g → (16 ≤ x.steps → parks i 0x07) ∧
      (x.steps < 16 → (∀ j, tfind s.fab.jobs p.pmi = some j → j.perm.getLsbD g = false) → parks i 0x02)) ∧
    (s.PktMay p 0 →
      (∀ n : BitVec 2, pushed (.pktPshr n) (tget 0 p.k n.toNat) ∧
        (p.sd ≠ 0 → goes (.pktPopr n) { p with k := tset p.k n.toNat top, sd := p.sd - 1, pc := p.pc + 1 }) ∧
        (p.sd = 0 → parks (.pktPopr n) 0x03) ∧
        goes (.pktInc n) { p with k := tset p.k n.toNat (tget 0 p.k n.toNat + 1), pc := p.pc + 1 }) ∧
      (∀ im : BitVec 10, pushed (.pktPshi im) (im.signExtend 32)) ∧
      (p.sd ≠ 0 → p.sd < 8 → ∃ t q, exec .pktDup s = .next t ∧ PktGoes s t q ∧ t.mem = s.mem ∧ q.sd = p.sd + 1 ∧ q.pc = p.pc + 1 ∧
        tget 0 q.stk p.sd = top ∧ ∀ i, i < p.sd → tget 0 q.stk i = tget 0 p.stk i) ∧
      (p.sd = 8 → parks .pktDup 0x04) ∧ (p.sd = 0 → parks .pktDup 0x03 ∧ parks .pktDrp 0x03) ∧
      (2 ≤ p.sd → ∃ t q, exec .pktSwp s = .next t ∧ PktGoes s t q ∧ t.mem = s.mem ∧ q.sd = p.sd ∧ q.pc = p.pc + 1 ∧
        tget 0 q.stk (p.sd - 1) = under ∧ tget 0 q.stk (p.sd - 2) = top ∧ ∀ i, i < p.sd - 2 → tget 0 q.stk i = tget 0 p.stk i) ∧
      (p.sd < 2 → parks .pktSwp 0x03) ∧
      (p.sd ≠ 0 → goes .pktDrp { p with sd := p.sd - 1, pc := p.pc + 1 }) ∧
      binary .pktAdd (under + top) ∧ binary .pktSub (under - top) ∧
      binary .pktMin (if under.toInt ≤ top.toInt then under else top) ∧ binary .pktMax (if under.toInt ≤ top.toInt then top else under) ∧
      binary .pktAnd (under &&& top) ∧ binary .pktOr (under ||| top) ∧ binary .pktXor (under ^^^ top) ∧
      binary .pktShl (under <<< (top.toNat % 32)) ∧ binary .pktShr (under >>> (top.toNat % 32)) ∧
      binary .pktCeq (if under = top then 1 else 0) ∧ binary .pktClt (if under.toInt < top.toInt then 1 else 0) ∧
      pushed .pktTsc (BitVec.ofNat 32 s.now) ∧ pushed .pktNode (BitVec.ofNat 32 (bitsOf s.nodecfg.toNat 14 0)) ∧
      pushed .pktHops (BitVec.ofNat 32 p.hb) ∧
      (∀ t : BitVec 4, goes (.pktJmp t) { p with pc := t.toNat } ∧
        (p.sd ≠ 0 → goes (.pktJz t) { p with sd := p.sd - 1, pc := if top = 0 then t.toNat else p.pc + 1 } ∧
          goes (.pktJnz t) { p with sd := p.sd - 1, pc := if top = 0 then p.pc + 1 else t.toNat }) ∧
        (p.sd = 0 → parks (.pktJz t) 0x03 ∧ parks (.pktJnz t) 0x03))) ∧
    (s.PktMay p 1 → ∀ w : BitVec 7,
      let old := tget 0 p.pay w.toNat
      let put (i : Instr) (v : BitVec 32) : Prop :=
        (p.sd ≠ 0 → 4 * w.toNat < p.plen → goes i { p with pay := tset p.pay w.toNat v, sd := p.sd - 1, pc := p.pc + 1 }) ∧
        (p.sd ≠ 0 → p.plen ≤ 4 * w.toNat → parks i 0x09) ∧ (p.sd = 0 → parks i 0x03)
      pushed (.pktPld w) (if p.plen ≤ 4 * w.toNat then 0 else old) ∧
      put (.pktPaccI32 w) (old + top) ∧ put (.pktPaccF32 w) (paccF32 old top) ∧
      put (.pktPaccMax w) (if old.toInt ≤ top.toInt then top else old))

/-- R395, R397 to R400, R405: LDW, ADW and XCW act on a word of the job's Crucible window and push its old value; ROUTE and CLONE send the
packet out of ports that are present, and park it otherwise; a delivery writes its payload, raises its counter, fills its handle, lowers its
node's count or submits its graph, and ends the packet; a page that it cannot write parks it; PARK parks and DROP discards.  The model's
choices: the order in which a delivery is judged (log entry 122), and that an absent port parks at once (121). -/
def Obligations.PacketDeliveryResults : Prop :=
  ∀ (s : State) (p : Packet) (j : FabJob), (s.fab.lane s.cur.lane).pkt = some p → (s.fab.lane s.cur.lane).steps < 16 →
    tfind s.fab.jobs p.pmi = some j → j.perm = BitVec.allOnes 32 → p.sd ≤ 8 →
    let top := (tget 0 p.stk (p.sd - 1)).toNat
    let parks (i : Instr) (code : Nat) : Prop := ∃ t, exec i s = .next t ∧ PktParks s t p code
    let cr (a : Nat) : Nat := crucibleBase + j.crBase * 4096 + 4 * a
    let goes (t : State) (v : BitVec 32) (n : Nat) : Prop := PktGoes s t { p with stk := tset p.stk n v, sd := n + 1, pc := p.pc + 1 }
    let sends (i : Instr) (ps : List (Nat × Packet)) : Prop :=
      ∃ t, exec i s = .next t ∧ PktOver s t ∧ t.fab.leaving = s.fab.leaving ++ ps.map (fun y => ⟨y.1, y.2, p, s.cur.lane⟩) ∧
        t.fab.park = s.fab.park ∧ t.mem = s.mem
    (p.sd ≠ 0 →
      (4 * top < j.crSize * 4096 → ∃ t, exec .pktLdw s = .next t ∧ goes t (BitVec.ofNat 32 (memRead s.mem (cr top) 4)) (p.sd - 1) ∧
        t.mem = s.mem) ∧
      (j.crSize * 4096 ≤ 4 * top → parks .pktLdw 0x05)) ∧
    (p.sd = 0 → parks .pktLdw 0x03) ∧ (p.sd < 2 → parks .pktAdw 0x03 ∧ parks .pktXcw 0x03) ∧
    (2 ≤ p.sd →
      let a := (tget 0 p.stk (p.sd - 2)).toNat
      let o := BitVec.ofNat 32 (memRead s.mem (cr a) 4)
      let rmw (i : Instr) (v : BitVec 32) : Prop := ∃ t, exec i s = .next t ∧ goes t o (p.sd - 2) ∧
        memRead t.mem (cr a) 4 = v.toNat ∧ SameMemOutside s t (cr a) 4
      (4 * a < j.crSize * 4096 → rmw .pktAdw (o + tget 0 p.stk (p.sd - 1)) ∧ rmw .pktXcw (tget 0 p.stk (p.sd - 1))) ∧
      (j.crSize * 4096 ≤ 4 * a → parks .pktAdw 0x05 ∧ parks .pktXcw 0x05)) ∧
    (∀ n : BitVec 4,
      (∀ d : BitVec 3, d.toNat < 6 → (s.present d.toNat = true → sends (.pktRoutePort n d) [(d.toNat, { p with pc := n.toNat })]) ∧
        (s.present d.toNat = false → parks (.pktRoutePort n d) 0x08)) ∧
      (∀ port, routePort s.nodecfg p.dst = some port → s.present port = true → sends (.pktRouteAuto n) [(port, { p with pc := n.toNat })]) ∧
      (routePort s.nodecfg p.dst = none → parks (.pktRouteAuto n) 0x08) ∧
      (p.sd ≠ 0 → (top % 8 = 7 → parks (.pktRoutePop n) 0x06) ∧
        (top % 8 < 6 → (s.present (top % 8) = true → sends (.pktRoutePop n) [(top % 8, { p with sd := p.sd - 1, pc := n.toNat })]) ∧
          (s.present (top % 8) = false → parks (.pktRoutePop n) 0x08)) ∧
        (top % 8 = 6 →
          (∀ port, routePort s.nodecfg p.dst = some port →
            (s.present port = true → sends (.pktRoutePop n) [(port, { p with sd := p.sd - 1, pc := n.toNat })]) ∧
            (s.present port = false → parks (.pktRoutePop n) 0x08)) ∧
          (routePort s.nodecfg p.dst = none → parks (.pktRoutePop n) 0x08))) ∧
      (∀ m : BitVec 6,
        let ports := (List.range 6).filter fun d => m.getLsbD d
        (m ≠ 0 → (∀ d ∈ ports, s.present d = true) → sends (.pktClone n m) (ports.map fun d => (d, { p with pc := n.toNat, cln := true }))) ∧
        (m = 0 ∨ (∃ d ∈ ports, s.present d = false) → parks (.pktClone n m) 0x08))) ∧
    (p.sd = 0 → parks .pktDlvrCtr 0x03 ∧ parks .pktDlvrHnd 0x03 ∧ parks .pktDlvrNode 0x03 ∧ parks .pktDlvrGraph 0x03) ∧
    (p.sd ≠ 0 → p.plen = 0 →
      (2 ^ 12 ≤ top → parks .pktDlvrCtr 0x06) ∧ (2 ^ 15 ≤ top → parks .pktDlvrHnd 0x06) ∧
      (2 ^ 14 ≤ top → parks .pktDlvrNode 0x06) ∧ (4 ≤ top → parks .pktDlvrGraph 0x06) ∧
      (top < 2 ^ 12 → top / 64 ≠ p.pmi → parks .pktDlvrCtr 0x0A) ∧
      (top < 2 ^ 12 → top / 64 = p.pmi → ∃ t, exec .pktDlvrCtr s = .next t ∧ PktOver s t ∧ t.mem = s.mem ∧
        tget 0 t.fab.dctr top = tget 0 s.fab.dctr top + 1 ∧ ∀ i, i ≠ top → tget 0 t.fab.dctr i = tget 0 s.fab.dctr i) ∧
      (let k := s.coreAt (top / 128)
       top < 2 ^ 15 →
        (k.bound ≠ some p.pmi ∨ k.jobHandle p.pmi (top % 128) = false → parks .pktDlvrHnd 0x0A) ∧
        (k.bound = some p.pmi → k.jobHandle p.pmi (top % 128) = true →
          ((k.handle (top % 128)).st ≠ .free → parks .pktDlvrHnd 0x0D) ∧
          ((k.handle (top % 128)).st = .free → ∃ t, exec .pktDlvrHnd s = .next t ∧ PktOver s t ∧
            t.mem = s.mem ∧ ((t.coreAt (top / 128)).handle (top % 128)).st = .full))) ∧
      (let d := top / 2 ^ 12; let n := top % 2 ^ 12
       top < 2 ^ 14 → ∀ y, tfind (s.dieAt d).nodes n = some y → y.job = p.pmi → y.st = .waiting → 2 ≤ y.count →
        ∃ t, exec .pktDlvrNode s = .next t ∧ PktOver s t ∧ t.mem = s.mem ∧ (t.node d n).count = y.count - 1 ∧ (t.node d n).st = .waiting) ∧
      (top < 4 → (s.job p.pmi).phaseDone = false →
        (∀ v code va, s.dlvGraph top { p with sd := p.sd - 1 } = (v, some (.fault code va)) → v.fab = s.fab →
          ∃ t, exec .pktDlvrGraph s = .next t ∧ PktOver s t ∧
            ∀ n, ((List.range 256).find? fun i => (tfind s.fab.park i).isNone) = some n →
              ∃ e, tfind t.fab.park n = some e ∧ e.pkt = p ∧ e.code = code) ∧
        ∀ v u h es, s.dlvGraph top { p with sd := p.sd - 1 } = (v, none) → v.jobs = s.jobs → v.fab = s.fab →
          ({ v with cur := { v.cur with least := p.sentOn v + 32 } } : State).readGraph top p.pmi p.place = (u, some (h, es)) →
          (u.job p.pmi).status ≠ .failed → (∀ c, (u.job p.pmi).cancFrom = some c → (s.job p.pmi).phase < c) →
          ∃ t, exec .pktDlvrGraph s = .next t ∧ (t.fab.lane s.cur.lane).pkt = none ∧ t.mem = u.mem ∧
            (t.dieAt top).waiting = (u.dieAt top).waiting ++ [⟨p.pmi, (s.job p.pmi).phase, es, false, 0, 0⟩])) ∧
    (let q : Packet := { p with sd := p.sd - 1 }
     p.sd ≠ 0 →
      (top < 2 ^ 12 → top / 64 = p.pmi →
        (∀ u rs, s.dlvPages q = (u, .inl rs) → (∀ r ∈ rs, u.keyDead r.key r.pa = false) →
          let w := u.runsWrite rs p.payload clean
          w.fab = s.fab → ∃ t, exec .pktDlvrCtr s = .next t ∧ PktOver s t ∧ t.mem = w.mem ∧
            tget 0 t.fab.dctr top = tget 0 s.fab.dctr top + 1) ∧
        (∀ u code va, s.dlvPages q = (u, .inr (.fault code va)) → u.fab = s.fab → ∃ t, exec .pktDlvrCtr s = .next t ∧ PktOver s t ∧
          ∀ n, ((List.range 256).find? fun i => (tfind s.fab.park i).isNone) = some n →
            ∃ e, tfind t.fab.park n = some e ∧ e.pkt = p ∧ e.code = code)) ∧
      (let k := s.coreAt (top / 128)
       top < 2 ^ 15 → k.bound = some p.pmi → k.jobHandle p.pmi (top % 128) = true → (k.handle (top % 128)).st = .free →
        ∀ u rs, s.dlvPages q = (u, .inl rs) → (∀ r ∈ rs, u.keyDead r.key r.pa = false) →
          let w := (u.updCore (top / 128) fun k => k.setHandle (top % 128) ⟨.filling, none⟩).runsWrite rs p.payload clean
          w.fab = s.fab → ∃ t, exec .pktDlvrHnd s = .next t ∧ PktOver s t ∧ t.mem = w.mem ∧
            ((w.coreAt (top / 128)).handle (top % 128) = ⟨.filling, none⟩ → ((t.coreAt (top / 128)).handle (top % 128)).st = .full))) ∧
    (∀ n : BitVec 7, parks (.pktPark n) (0x80 + n.toNat)) ∧
    (∃ t, exec .pktDrop s = .next t ∧ PktOver s t ∧ t = s.updFab fun f => { f with lanes := t.fab.lanes })

/-! Reading operands and elements (R11, R59, R83). -/

/-- R11: an element of width 32, 16, 8 or 4 lies in the lane and at the place that its number gives; the widths are those of the formats. -/
def Obligations.ElementOfRegister : Prop :=
  (Fmt.f32.width = 32 ∧ Fmt.i32.width = 32 ∧ Fmt.f16.width = 16 ∧ Fmt.bf16.width = 16 ∧ Fmt.e4m3.width = 8 ∧ Fmt.e5m2.width = 8 ∧
    Fmt.i8.width = 8 ∧ Fmt.fp4.width = 4 ∧ Fmt.i4.width = 4) ∧
  (∀ (x : Vec) (w i : Nat), w = 32 ∨ w = 16 ∨ w = 8 ∨ w = 4 → i < 2048 / w →
    velem w x i = vlane x (i * w / 32) / 2 ^ (w * (i % (32 / w))) % 2 ^ w) ∧
  (∀ (w i : Nat) (f : Nat → Nat), w = 32 ∨ w = 16 ∨ w = 8 ∨ w = 4 → i < 2048 / w → velem w (vbuild w f) i = f i % 2 ^ w)

/-- R59: what a constant selector supplies in a scalar role, in an integer element role and in a floating-point element role: every element
the same, and no flag with it. -/
def Obligations.ConstantSelector : Prop :=
  ∀ (c : Ctx) (cur : Cur) (k : BitVec 8),
    c.srcS cur (.const k) = k.signExtend 64 ∧
    (∀ f : Fmt, f = .i32 ∨ f = .i8 ∨ f = .i4 → ∀ i, i < 2048 / f.width →
      let lo : Int := if f = .i4 then -7 else f.intLo
      let x := velem f.width (c.srcE cur f (.const k)) i
      (decodeFmt f x) = (XVal.ofInt (Max.max lo (Min.min k.toInt f.intHi)), 0)) ∧
    (∀ f : Fmt, f = .f32 ∨ f = .f16 ∨ f = .bf16 ∨ f = .e4m3 ∨ f = .e5m2 ∨ f = .fp4 → ∀ i, i < 2048 / f.width →
      let x := velem f.width (c.srcE cur f (.const k)) i
      x = (encodeFmt f .rne .none 0 (XVal.ofInt k.toInt)).1 ∧ (decodeFmt f x).2 = 0)

/-- R83, R91, R93: a result of latency L is seen by the bundles L and more behind its own and by none before; s0 stays zero; a vector write
changes the lanes of its mask alone; the latch entry comes with it. -/
def Obligations.ResultVisibility : Prop :=
  ∀ (c : Ctx) (lat k slot n : Nat) (x a : Word) (m : Word) (y : Vec) (l : LatchVal), c.pend = [] →
    let p (w : Write) : Pend := ⟨c.count + lat, slot, [w], some l, 0, a, false⟩
    let after (w : Write) : Ctx := (c.post (p w)).advance k
    (k < lat → ∀ w, (after w).sRegs = c.sRegs ∧ (after w).pRegs = c.pRegs ∧ (after w).vRegs = c.vRegs ∧ (after w).dRegs = c.dRegs ∧
      (after w).nRegs = c.nRegs ∧ (after w).latS = c.latS ∧ (after w).latA = c.latA ∧ (after w).latB = c.latB ∧
      (after w).pend = [p w]) ∧
    (lat ≤ k →
      (n ≠ 0 → (after (.s n x)).sGet n = x) ∧ (∀ j, j ≠ n ∨ n = 0 → (after (.s n x)).sGet j = c.sGet j) ∧
      (after (.s n x)).sGet 0 = 0 ∧ (after (.s n x)).pend = [] ∧ (after (.s n x)).vRegs = c.vRegs ∧ (after (.s n x)).pRegs = c.pRegs ∧
      (∀ i, i < 64 → vlane (tget 0 (after (.v n m y)).vRegs n) i = if m.getLsbD i = true then vlane y i else vlane (tget 0 c.vRegs n) i) ∧
      (∀ j, j ≠ n → tget 0 (after (.v n m y)).vRegs j = tget 0 c.vRegs j) ∧ (after (.v n m y)).sRegs = c.sRegs ∧
      (slot < 3 → (after (.s n x)).latchAt slot 0 = some l))

/-! Precise traps (R94, R212, R213, R220). -/

/-- R213, R216: a trap writes TRAPC, TRAPV and DONE, freezes its context, keeps its registers, results in flight and held commands, and
joins the queue of partition X; reading a poisoned register (R220) or an empty latch (R94) takes one, and the operation has no effect.  That
a false guard excuses neither of these two is the model's choice (log entry 8). -/
def Obligations.TrapEntry : Prop :=
  (∀ (s : State) (tr : Trap) (done : BitVec 9),
    let t := s.takeTrap tr done
    t.ctx.stat = .frozen ∧ t.ctx.csr.trapc = trapcOf tr ∧ t.ctx.csr.trapv = tr.val ∧ t.ctx.csr.done = done ∧ t.ctx.pc = s.ctx.pc ∧
      t.ctx.sRegs = s.ctx.sRegs ∧ t.ctx.pRegs = s.ctx.pRegs ∧ t.ctx.vRegs = s.ctx.vRegs ∧ t.ctx.dRegs = s.ctx.dRegs ∧
      t.ctx.nRegs = s.ctx.nRegs ∧ t.ctx.walkers = s.ctx.walkers ∧ t.ctx.pend = s.ctx.pend ∧ t.ctx.held = s.ctx.held ∧
      t.ctx.csr.segpc = s.ctx.csr.segpc ∧ t.ctx.csr.fpstat = s.ctx.csr.fpstat ∧ t.mem = s.mem ∧ SameOthers s t s.cur.core s.cur.ctx ∧
      (s.core.port = some s.cur.ctx → t.core.port = none) ∧
      (s.cur.ctx ≠ 4 → (t.core.xqueue = s.core.xqueue ++ [.trap s.cur.ctx] ∨ t.core.xqueue = s.core.xqueue ++ [.super s.cur.ctx])) ∧
      (s.cur.ctx ≠ 4 → tr.cause ≠ 3 → ∀ x, s.ctx.task = some x → t.core.xqueue = s.core.xqueue ++
        [if x.handler = 0 then .super s.cur.ctx else .trap s.cur.ctx])) ∧
  (∀ (op : ROp) (s : State) (n : BitVec 8), op.xa = .reg n → op.xb = .reg 0 →
    s.ctx.bad.contains (0, n.toNat) = true → s.ctx.bad.contains (0, 0) = false →
    exec (.add op) s = .next (s.takeTrap ⟨partS, 0x0C, 0x01, BitVec.ofNat 64 (n.toNat * 256)⟩ 0)) ∧
  (∀ (op : ROp) (s : State) (slot : Fin 3) (d : BitVec 2), op.xa = .latch slot d → op.xb = .reg 0 → s.ctx.replay = false →
    s.ctx.latchAt slot.val d.toNat = none → s.ctx.bad.contains (0, 0) = false →
    exec (.add op) s = .next (s.takeTrap ⟨partS, 0x04, 0, BitVec.ofNat 64 (256 + slot.val * 64 + d.toNat * 16)⟩ 0))

/-! Packet branches, PARK and DROP, each with its encoding (R396, R400). -/

/-- R396, R400: the words of JZ, JNZ and JMP, what each does to the packet, the fault of a target at or beyond NPROG when the lane reaches
it, and the branches' place in the step limit; the words of PARK and DROP and how each ends the packet.  That the step limit is
judged before a PC at or beyond NPROG is the model's choice (log entry 179). -/
def Obligations.PacketBranchParkDrop : Prop :=
  (∀ t : BitVec 10,
    (t.toNat < 16 → decodePacket (0x28 * 1024 + t.toNat) = some (.pktJz (t.setWidth 4)) ∧
      decodePacket (0x29 * 1024 + t.toNat) = some (.pktJnz (t.setWidth 4)) ∧
      decodePacket (0x2A * 1024 + t.toNat) = some (.pktJmp (t.setWidth 4))) ∧
    (16 ≤ t.toNat → decodePacket (0x28 * 1024 + t.toNat) = none ∧ decodePacket (0x29 * 1024 + t.toNat) = none ∧
      decodePacket (0x2A * 1024 + t.toNat) = none) ∧
    (t.toNat < 128 → decodePacket (0x33 * 1024 + t.toNat) = some (.pktPark (t.setWidth 7))) ∧
    (128 ≤ t.toNat → decodePacket (0x33 * 1024 + t.toNat) = none) ∧
    (t = 0 → decodePacket (0x34 * 1024 + t.toNat) = some .pktDrop) ∧ (t ≠ 0 → decodePacket (0x34 * 1024 + t.toNat) = none)) ∧
  (∀ (s : State) (p : Packet), s.PktMay p 0 →
    let top := tget 0 p.stk (p.sd - 1)
    let goes (i : Instr) (q : Packet) : Prop := ∃ t, exec i s = .next t ∧ PktGoes s t q ∧ t.mem = s.mem
    (∀ t : BitVec 4, goes (.pktJmp t) { p with pc := t.toNat } ∧
      (p.sd ≠ 0 → goes (.pktJz t) { p with sd := p.sd - 1, pc := if top = 0 then t.toNat else p.pc + 1 } ∧
        goes (.pktJnz t) { p with sd := p.sd - 1, pc := if top ≠ 0 then t.toNat else p.pc + 1 })) ∧
    (∀ n : BitVec 7, ∃ t, exec (.pktPark n) s = .next t ∧ PktParks s t p (0x80 + n.toNat)) ∧
    (∃ t, exec .pktDrop s = .next t ∧ PktOver s t ∧ t.fab.park = s.fab.park ∧ t.fab.leaving = s.fab.leaving ∧ t.fab.net = s.fab.net ∧
      t.trace = s.trace ∧ t.sinks = s.sinks ∧ t.hostOut = s.hostOut ∧ t.mem = s.mem)) ∧
  (∀ (s : State) (l : Nat) (p : Packet), s.laneHeld l = false → (s.fab.lane l).pkt = some p → (s.fab.lane l).steps < 16 → p.nprog ≤ p.pc →
    ∃ t, s.laneTurn l = .next t ∧ (t.fab.lane l).pkt = none ∧ ∀ n, ((List.range 256).find? fun i => (tfind s.fab.park i).isNone) = some n →
      ∃ e, tfind t.fab.park n = some e ∧ e.pkt = p ∧ e.code = 0x06) ∧
  (∀ (s : State) (p : Packet) (t : BitVec 4), (s.fab.lane s.cur.lane).pkt = some p → 16 ≤ (s.fab.lane s.cur.lane).steps →
    ∃ u, exec (.pktJmp t) s = .next u ∧ PktParks s u p 0x07)

/-! Encodings (R46 to R73, R393). -/

/-- R52, R53, R61, R62, R73, R120, R157, R393: words of the spec, worked out bit by bit there, and packet words from its tables, decode to
the instructions that they stand for. -/
def Obligations.DecodeWords : Prop :=
  (decSlot Attr.any .s 0x0040030070500000).op = some (.add ⟨0, false, false, 3, .reg 1, .const 5, .reg 0, 0⟩) ∧
  (decSlot Attr.any .y 0x1C0A0C00).op = some (.chk ⟨0, false, 0x50, 0xC00⟩) ∧
  (decSlot Attr.any .s 0x1840005000000C01).op = some (.brc ⟨0, false, false, 0, .latch 1 0, 3, 1⟩) ∧
  (decSlot Attr.any .s 0x194000FFFFFFFB00).op = some (.brlc ⟨0, false, false, 0, 0xFFFFFFFB, 0⟩) ∧
  (decSlot Attr.any .a 0x0E00050080000010).op = some (.vred .a ⟨0, false, false, 5, .reg 2, .reg 0, .reg 0, 0x010⟩) ∧
  (decSlot Attr.any .a 0x20C0050000800000).op = some (.ddot8 .a ⟨0, false, false, 5, .reg 0, .reg 8, .reg 0, 0⟩) ∧
  (decSlot Attr.any .m 0x04000200001C1133).op = some (.mma ⟨0, false, false, 2, .reg 0, .reg 1, .const 4, 0x133⟩) ∧
  (decSlot Attr.any .m 0x0880000080C00001).op = some (.trowW ⟨0, false, false, 0, .reg 2, .reg 12, .reg 0, 1⟩) ∧
  (decSlot Attr.any .c 0x010050586000).op = some (.copy ⟨0, false, 10, 11, 12, 0⟩) ∧
  decodePacket 0x0402 = some (.pktPshr 2) ∧ decodePacket 0xC032 = some (.pktRoutePort 3 2) ∧
  decodePacket 0xC016 = some (.pktRouteAuto 1) ∧ decodePacket 0xC485 = some (.pktClone 2 5) ∧
  decodePacket 0x8485 = some (.pktPaccF32 5) ∧ decodePacket 0x0000 = none ∧ decodePacket 0x0404 = none

/-- R72, R444: an undefined opcode, a nonzero field of a NOP, a supervisor opcode in a user task and an M-slot opcode of a no-matrix task do
not decode, each with its reason, the lower one where the slot has another; a bundle that does not decode stops its context with ILL before any of its slots takes effect. -/
def Obligations.IllegalBundles : Prop :=
  (∀ (q : Attr) (sl : SlotId) (w : Nat), sl ≠ .c → sl ≠ .y → w < 2 ^ 64 → w / 2 ^ 54 ≠ 0 → rowOf sl (w / 2 ^ 54) = none →
    (decSlot q sl w).op = none ∧ (decSlot q sl w).why = 1) ∧
  (∀ (q : Attr) (sl : SlotId) (w : Nat), sl ≠ .c → sl ≠ .y → w < 2 ^ 54 → w ≠ 0 → (decSlot q sl w).op = none ∧ (decSlot q sl w).why = 4) ∧
  (∀ (q : Attr) (w : Nat), w < 2 ^ 48 → w / 2 ^ 40 ≠ 0 → rowC (w / 2 ^ 40) = none → (decSlot q .c w).why = 1) ∧
  (∀ (q : Attr) (w : Nat), w < 2 ^ 32 → w / 2 ^ 26 ≠ 0 → rowY (w / 2 ^ 26) = none → (decSlot q .y w).why = 1) ∧
  (∀ (q : Attr) (w : Nat), q.sup = false → w < 2 ^ 64 → 0x3F0 ≤ w / 2 ^ 54 → (decSlot q .s w).op = none ∧
    let r := (decSlot { q with sup := true } .s w).why
    (r = 0 → (decSlot q .s w).why = 9) ∧ (r ≠ 0 → r < 9 → (decSlot q .s w).why = r)) ∧
  (∀ (q : Attr) (w : Nat), q.nomx = true → w < 2 ^ 64 → w ≠ 0 → (decSlot q .m w).op = none ∧
    let r := (decSlot { q with nomx := false } .m w).why
    (r = 0 → (decSlot q .m w).why = 8) ∧ (r ≠ 0 → r < 8 → (decSlot q .m w).why = r)) ∧
  (∀ (s : State) (core h p r : Nat) (w : BundleWord), s.TurnOf core → s.turned.Fetched core h w →
    decodeBundle (s.turned.ctxAt core h).attr w = .ill p r →
    let c := s.turned.ctxAt core h
    s.turned.valueIll core h (opsBelow c.attr w p) = none →
    step s = .next (s.turned.turnEnd (s.turned.stopBefore core h ⟨p, 0x01, r, BitVec.ofNat 64 (c.pc.toNat / 64 * 64 + p)⟩ 0) core))

/-- R46 to R73, R393: decoding the encoding of a well-formed instruction gives it back, with every operand, in its own slot or as a packet
instruction. -/
def Obligations.EncodingRoundTrip : Prop :=
  (∀ (i : Instr) (sl : SlotId), WellFormed i = true → slotOf i = some sl →
    encode i < 2 ^ slotWidth sl ∧ (decSlot Attr.any sl (encode i)).op = some i ∧ (decSlot Attr.any sl (encode i)).why = 0) ∧
  (∀ (i : Instr) (w : BitVec 16), WellFormed i = true → instrCode i = .pkt w → decodePacket (encode i) = some i)

/-- R46, R48, R60, R73: a bundle of well-formed instructions, each in its own slot, with a defined scope, no register written twice, and END
or ERET only with SE, encodes to a word that decodes to it. -/
def Obligations.BundleRoundTrip : Prop :=
  ∀ b : Bundle, b.scope.toNat < 5 → (∀ sl i, b.op sl = some i → slotOf i = some sl ∧ WellFormed i = true) →
    endReason b.se (encSlot b.s / 2 ^ 54) = 0 → withDoubles (slots.map fun sl => decSlot Attr.any sl (encSlot (b.op sl))) = [0, 0, 0, 0, 0, 0, 0, 0] →
    decodeBundle Attr.any (encodeBundle b) = .bundle b

/-! The step, reset and the memory (log entries 2 to 5). -/

/-- R97 to R104, R391: a step runs the event at the head of the agenda; or the decoded instruction of a lane's packet; or the operation of
the bundle that the holder of a port has fetched, decoded and found free of stops and waits, and commits its bundle.  The model's choices:
the order of the turns (log entry 5), that exec of an operation is its part of the bundle's effect (154), and when the
accesses before one to the scratchpad are performed (168). -/
def Obligations.StepRuns : Prop :=
  ∀ s : State,
    (∀ e rest, s.agenda = e :: rest → (s.sn.dumped = none ∨ outside e.ins = true) →
      step s = exec e.ins { s with
        agenda := rest, cur := { Cur.reset with core := e.core, ctx := e.ctx, lane := e.lane, arg := e.arg, inp := e.inp } }) ∧
    (∀ l p i, s.agenda = [] → s.sn.dumped = none → s.turn % 2 = 1 →
      let u : State := { s with turn := s.turn + 1 }
      u.duties[s.turn / 2 % u.duties.length]? = some (.lane l) → (s.fab.lane l).pkt = some p → (s.fab.lane l).steps < 16 →
      p.pc < p.nprog → s.laneHeld l = false → decodePacket (p.prog.getD p.pc 0).toNat = some i →
      step s = exec i { u.updFab (fun f => { f with clock := f.clock + 8 }) with cur := { Cur.reset with lane := l } }) ∧
    (∀ core h w b sl i, s.TurnOf core → s.turned.Fetched core h w → decodeBundle (s.turned.ctxAt core h).attr w = .bundle b →
      undoneOps b (s.ctxAt core h).mask = [(sl, i)] → spPair b = false →
      let v := (s.turned.atBundle core h b.scope.toNat [i]).queueFirst core h [i]
      (v.ctxAt core h).stat = .issuing → v.stopOf i = none → (∀ q ∈ opPops i, (v.cur.head q).isSome = true) → (v.waitsOf [i]).any = false →
      v.bankWait [i] ≤ (v.ctxAt core h).bankN →
      let u := v.updCtx fun c => c.openAt b.sb
      ∀ t, exec i (u.popFlags [i]) = .next t →
        step s = .next (s.turned.turnEnd (t.commit core h b [i] (u.ctx.isLone b.sb)) core))

/-- R85, R89, R90, R97, R252, R348: reset as the spec gives it (contexts FREE, TRAPC and DONE zero, FPREC with no event, no task, job or
tenant, no key but key 0, no feature accepted), and as the model chooses where the spec gives none (registers and memory zero, log entries 2
and 3; the package as manufactured, log entry 4). -/
def Obligations.ResetLeaves : Prop :=
  (∀ core ctx, let c := State.reset.ctxAt core ctx
    c.stat = .free ∧ c.task = none ∧ c.csr.trapc = 0 ∧ c.csr.done = 0 ∧ c.csr.fpstat = 0 ∧ c.csr.fprec = 0x38 ∧ c.csr.lc = 0 ∧
    c.csr.ec = 0 ∧ c.csr.rotv = 0 ∧ c.csr.rotp = 0 ∧ c.pend = [] ∧ c.held = [] ∧ (∀ k, c.sGet k = 0) ∧ (∀ k, c.vGet k = 0) ∧
    (∀ k, (State.reset.coreAt core).handle k = ⟨.free, none⟩) ∧ (State.reset.coreAt core).port = none) ∧
  (∀ j, (State.reset.job j).st = .free) ∧ State.reset.tenants = [] ∧ (∀ k, k ≠ 0 → tfind State.reset.keys k = none) ∧ (tfind State.reset.keys 0).isSome = true ∧ State.reset.feat = 0 ∧
  State.reset.races = [] ∧ (∀ a, memGet State.reset.mem a = 0) ∧ State.reset.Ok ∧ State.reset.agenda = [] ∧
  ∃ t, step State.reset = .next t

/-- Log entry 3: a step keeps the memory in its canonical form, strictly rising addresses and no listed byte of value zero, so that two
memories that read alike are one and the same. -/
def Obligations.MemoryCanonicalKept : Prop :=
  (∀ s t : State, s.Ok → step s = .next t → t.Ok) ∧
  (∀ m n : Mem, Memory.wf m = true → Memory.wf n = true → (∀ a, memGet m a = memGet n a) → m = n)

/-! Frames (R91, R102, R141). -/

/-- R91, R140, R162, R173, R189, R192, R193, R244: whatever an operation of any slot does when it answers a next state, at issue it changes
no other context and none of its own registers and walkers, whose new values are only in flight, and no control register but RSEED, unless it
traps; no job, no key; no byte of memory, but for the T slot and the two operations of the M slot that clear what they claim; XRD and XWR,
which reach another partition, apart. -/
def Obligations.RegisterSlotFrame : Prop :=
  ∀ (i : Instr) (sl : SlotId) (s t : State), slotOf i = some sl → (∀ op, i ≠ .xrd op) → (∀ op, i ≠ .xwr op) → exec i s = .next t →
    (SameOthers s t s.cur.core s.cur.ctx ∧ t.ctx.sRegs = s.ctx.sRegs ∧ t.ctx.pRegs = s.ctx.pRegs ∧
      t.ctx.vRegs = s.ctx.vRegs ∧ t.ctx.dRegs = s.ctx.dRegs ∧ t.ctx.nRegs = s.ctx.nRegs ∧ t.ctx.walkers = s.ctx.walkers ∧
      t.jobs = s.jobs ∧ t.keys = s.keys ∧ (t.cur.stop = none → t.ctx.csr = { s.ctx.csr with rseed := t.ctx.csr.rseed })) ∧
    (sl ≠ .t → t.fab = s.fab) ∧
    (sl ≠ .t → (∀ op, i ≠ .omclaim op) → (∀ op, i ≠ .tcfg op) → t.mem = s.mem) ∧
    (sl = .m → ∀ a, memGet t.mem a = 0 ∨ memGet t.mem a = memGet s.mem a) ∧
    (∀ op, i = .sts op ∨ i = .stv op ∨ i = .stp op ∨ i = .stg op → mdSpace op.md = .cl ∨ mdSpace op.md = .ds → t.mem = s.mem) ∧
    (∀ op, i = .aadd op ∨ i = .afadd op ∨ i = .amin op ∨ i = .amax op ∨ i = .axch op ∨ i = .acas op ∨ i = .aand op ∨ i = .aor op ∨
      i = .axor op → mdSpace op.md ≠ .g → t.mem = s.mem)
end

