-- ==== Sys2Proof/Laws/Tab.lean ====
section
/-! SUPPORT. Laws of tables and of memory: reading after writing, and that every operation keeps memory's canonical form. -/

namespace Sys2Proof.Machine

/-! Tables. -/

@[simp] theorem tget_tset_same {α : Type} (d : α) (t : Tab α) (k : Nat) (v : α) : tget d (tset t k v) k = v := by
  induction t with
  | nil => simp [tset, tget]
  | cons x t ih =>
    obtain ⟨j, y⟩ := x
    by_cases h : j = k
    · simp [tset, tget, h]
    · by_cases h2 : j < k <;> simp [tset, tget, h, h2, ih]

theorem tget_tset_ne {α : Type} (d : α) (t : Tab α) {j k : Nat} (v : α) (h : j ≠ k) : tget d (tset t k v) j = tget d t j := by
  induction t with
  | nil => simp [tset, tget, Ne.symm h]
  | cons x t ih =>
    obtain ⟨i, y⟩ := x
    by_cases h1 : i = k
    · subst h1; simp [tset, tget, Ne.symm h]
    · by_cases h2 : i < k
      · simp only [tset, h1, h2, if_false, if_true, tget, ih]
      · simp [tset, tget, h1, h2, Ne.symm h]

theorem tget_tset {α : Type} (d : α) (t : Tab α) (j k : Nat) (v : α) :
    tget d (tset t k v) j = if j = k then v else tget d t j := by
  by_cases h : j = k
  · subst h; simp
  · simp [h, tget_tset_ne]

@[simp] theorem tfind_tset_same {α : Type} (t : Tab α) (k : Nat) (v : α) : tfind (tset t k v) k = some v := by
  induction t with
  | nil => simp [tset, tfind]
  | cons x t ih =>
    obtain ⟨j, y⟩ := x
    by_cases h : j = k
    · simp [tset, tfind, h]
    · by_cases h2 : j < k <;> simp [tset, tfind, h, h2, ih]

theorem tfind_tset_ne {α : Type} (t : Tab α) {j k : Nat} (v : α) (h : j ≠ k) : tfind (tset t k v) j = tfind t j := by
  induction t with
  | nil => simp [tset, tfind, Ne.symm h]
  | cons x t ih =>
    obtain ⟨i, y⟩ := x
    by_cases h1 : i = k
    · subst h1; simp [tset, tfind, Ne.symm h]
    · by_cases h2 : i < k
      · simp only [tset, h1, h2, if_false, if_true, tfind, ih]
      · simp [tset, tfind, h1, h2, Ne.symm h]

/-! Memory reads after writes. -/

theorem memGet_memIns_same (m : Mem) (k : Nat) (v : Byte) : memGet (memIns m k v) k = v := by
  induction m with
  | nil => simp [memIns, memGet]
  | cons x t ih =>
    obtain ⟨a, b⟩ := x
    by_cases h : a = k
    · simp [memIns, memGet, h]
    · by_cases h2 : a < k <;> simp [memIns, memGet, h, h2, ih]

theorem memGet_memIns_ne (m : Mem) {j k : Nat} (v : Byte) (h : j ≠ k) : memGet (memIns m k v) j = memGet m j := by
  induction m with
  | nil => simp [memIns, memGet, Ne.symm h]
  | cons x t ih =>
    obtain ⟨a, b⟩ := x
    by_cases h1 : a = k
    · subst h1; simp [memIns, memGet, Ne.symm h]
    · by_cases h2 : a < k
      · simp only [memIns, h1, h2, if_false, if_true, memGet, ih]
      · simp [memIns, memGet, h1, h2, Ne.symm h]

theorem memGet_memDel_same (m : Mem) (k : Nat) : memGet (memDel m k) k = 0 := by
  induction m with
  | nil => rfl
  | cons x t ih =>
    obtain ⟨a, b⟩ := x
    by_cases h : a = k <;> simp [memDel, memGet, h, ih]

theorem memGet_memDel_ne (m : Mem) {j k : Nat} (h : j ≠ k) : memGet (memDel m k) j = memGet m j := by
  induction m with
  | nil => rfl
  | cons x t ih =>
    obtain ⟨a, b⟩ := x
    by_cases h1 : a = k
    · subst h1; simp [memDel, memGet, Ne.symm h, ih]
    · simp only [memDel, h1, if_false, memGet, ih]

/-- The byte written is the byte read. -/
@[simp] theorem memGet_memSet_same (m : Mem) (k : Nat) (v : Byte) : memGet (memSet m k v) k = v := by
  unfold memSet
  split
  · next h => rw [memGet_memDel_same, h]
  · exact memGet_memIns_same m k v

/-- Every other byte stays. -/
theorem memGet_memSet_ne (m : Mem) {j k : Nat} (v : Byte) (h : j ≠ k) : memGet (memSet m k v) j = memGet m j := by
  unfold memSet
  split
  · exact memGet_memDel_ne _ h
  · exact memGet_memIns_ne _ _ h

/-- Bytes outside the range written stay. -/
theorem memGet_memPut_outside (m : Mem) (a : Nat) (l : List Byte) {j : Nat} (h : j < a ∨ a + l.length ≤ j) :
    memGet (memPut m a l) j = memGet m j := by
  induction l generalizing m a with
  | nil => rfl
  | cons b t ih =>
    rw [List.length_cons] at h
    rw [memPut, ih _ _ (by omega), memGet_memSet_ne _ _ (by omega)]

/-- Bytes inside the range written are those written. -/
theorem memGet_memPut_inside (m : Mem) (a : Nat) (l : List Byte) {i : Nat} (h : i < l.length) :
    memGet (memPut m a l) (a + i) = l[i] := by
  induction l generalizing m a i with
  | nil => simp at h
  | cons b t ih =>
    cases i with
    | zero =>
      simp only [memPut, Nat.add_zero, List.getElem_cons_zero]
      rw [memGet_memPut_outside _ _ _ (by omega), memGet_memSet_same]
    | succ i =>
      rw [List.length_cons] at h
      have := ih (memSet m a b) (a + 1) (i := i) (by omega)
      rwa [show a + 1 + i = a + (i + 1) by omega] at this

/-! The canonical form. -/

theorem memWfFrom_mono {lo lo' : Nat} (h : lo' ≤ lo) (m : Mem) (w : memWfFrom lo m = true) : memWfFrom lo' m = true := by
  cases m with
  | nil => rfl
  | cons x t =>
    obtain ⟨a, b⟩ := x
    simp only [memWfFrom, Bool.and_eq_true, decide_eq_true_eq] at w ⊢
    exact ⟨⟨Nat.le_trans h w.1.1, w.1.2⟩, w.2⟩

theorem memWfFrom_memIns (m : Mem) (k : Nat) (v : Byte) (hv : v ≠ 0) :
    ∀ lo, lo ≤ k → memWfFrom lo m = true → memWfFrom lo (memIns m k v) = true := by
  induction m with
  | nil => intro lo h _; simp only [memIns, memWfFrom, Bool.and_eq_true, decide_eq_true_eq]; exact ⟨⟨h, hv⟩, trivial⟩
  | cons x t ih =>
    obtain ⟨a, b⟩ := x
    intro lo h w
    simp only [memWfFrom, Bool.and_eq_true, decide_eq_true_eq] at w
    obtain ⟨⟨h1, h2⟩, h3⟩ := w
    by_cases e : a = k
    · subst e
      simp only [memIns, if_true, memWfFrom, Bool.and_eq_true, decide_eq_true_eq]
      exact ⟨⟨h, hv⟩, h3⟩
    · by_cases l : a < k
      · simp only [memIns, e, l, if_true, if_false, memWfFrom, Bool.and_eq_true, decide_eq_true_eq]
        exact ⟨⟨h1, h2⟩, ih (a + 1) (by omega) h3⟩
      · simp only [memIns, e, l, if_false, memWfFrom, Bool.and_eq_true, decide_eq_true_eq]
        exact ⟨⟨h, hv⟩, ⟨by omega, h2⟩, h3⟩

theorem memWfFrom_memDel (m : Mem) (k : Nat) : ∀ lo, memWfFrom lo m = true → memWfFrom lo (memDel m k) = true := by
  induction m with
  | nil => intro lo _; rfl
  | cons x t ih =>
    obtain ⟨a, b⟩ := x
    intro lo w
    simp only [memWfFrom, Bool.and_eq_true, decide_eq_true_eq] at w
    obtain ⟨⟨h1, h2⟩, h3⟩ := w
    by_cases e : a = k
    · simp only [memDel, e, if_true]; exact ih lo (memWfFrom_mono (by omega) _ h3)
    · simp only [memDel, e, if_false, memWfFrom, Bool.and_eq_true, decide_eq_true_eq]
      exact ⟨⟨h1, h2⟩, ih (a + 1) h3⟩

/-- Writing a byte keeps the canonical form. -/
theorem wf_memSet (m : Mem) (k : Nat) (v : Byte) (w : Memory.wf m = true) : Memory.wf (memSet m k v) = true := by
  unfold memSet
  split
  · exact memWfFrom_memDel m k 0 w
  · next h => exact memWfFrom_memIns m k v h 0 (Nat.zero_le _) w

/-- Writing bytes keeps it. -/
theorem wf_memPut (m : Mem) (a : Nat) (l : List Byte) (w : Memory.wf m = true) : Memory.wf (memPut m a l) = true := by
  induction l generalizing m a with
  | nil => exact w
  | cons b t ih => exact ih _ _ (wf_memSet m a b w)

/-- Writing a number keeps it. -/
theorem wf_memWrite (m : Mem) (a n x : Nat) (w : Memory.wf m = true) : Memory.wf (memWrite m a n x) = true :=
  wf_memPut m a _ w

/-- Copying keeps it. -/
theorem wf_memMove (m : Mem) (d a n : Nat) (w : Memory.wf m = true) : Memory.wf (memMove m d a n) = true := wf_memPut m d _ w

theorem memWfFrom_filter (p : Host.Cell → Bool) (m : Mem) : ∀ lo, memWfFrom lo m = true → memWfFrom lo (m.filter p) = true := by
  induction m with
  | nil => intro lo _; rfl
  | cons x t ih =>
    obtain ⟨a, b⟩ := x
    intro lo w
    simp only [memWfFrom, Bool.and_eq_true, decide_eq_true_eq] at w
    obtain ⟨⟨h1, h2⟩, h3⟩ := w
    by_cases e : p (a, b) = true
    · simp only [List.filter_cons, e, if_true, memWfFrom, Bool.and_eq_true, decide_eq_true_eq]
      exact ⟨⟨h1, h2⟩, ih (a + 1) h3⟩
    · simp only [List.filter_cons, e]; exact ih lo (memWfFrom_mono (by omega) _ h3)

/-- Clearing a range keeps it. -/
theorem wf_memZero (m : Mem) (a n : Nat) (w : Memory.wf m = true) : Memory.wf (memZero m a n) = true :=
  memWfFrom_filter _ m 0 w

/-- A cleared range reads zero. -/
theorem memGet_memZero_inside (m : Mem) (a n : Nat) {j : Nat} (h : a ≤ j ∧ j < a + n) : memGet (memZero m a n) j = 0 := by
  induction m with
  | nil => rfl
  | cons x t ih =>
    obtain ⟨i, b⟩ := x
    simp only [memZero, List.filter_cons] at *
    split
    · rename_i hp
      simp only [Bool.or_eq_true, decide_eq_true_eq] at hp
      simp only [memGet]; rw [if_neg (by omega)]; exact ih
    · exact ih

/-- Bytes outside the cleared range stay. -/
theorem memGet_memZero_outside (m : Mem) (a n : Nat) {j : Nat} (h : j < a ∨ a + n ≤ j) : memGet (memZero m a n) j = memGet m j := by
  induction m with
  | nil => rfl
  | cons x t ih =>
    obtain ⟨i, b⟩ := x
    simp only [memZero, List.filter_cons] at *
    split
    · simp only [memGet]; split
      · rfl
      · exact ih
    · rename_i hp
      simp only [Bool.or_eq_true, decide_eq_true_eq] at hp
      simp only [memGet]; rw [if_neg (by omega)]; exact ih

end Sys2Proof.Machine
end

