-- ==== Sys2Proof/Laws/State.lean ====
section
/-! SUPPORT. Laws of the state's named updates: which fields each leaves, and what is read back from the one it changes. -/

namespace Sys2Proof.Machine

/-! `setCore` changes cores alone. -/

@[simp] theorem State.setCore_mem (s : State) (i : Nat) (c : Core) : (s.setCore i c).mem = s.mem := rfl
@[simp] theorem State.setCore_poison (s : State) (i : Nat) (c : Core) : (s.setCore i c).poison = s.poison := rfl
@[simp] theorem State.setCore_lineKey (s : State) (i : Nat) (c : Core) : (s.setCore i c).lineKey = s.lineKey := rfl
@[simp] theorem State.setCore_keys (s : State) (i : Nat) (c : Core) : (s.setCore i c).keys = s.keys := rfl
@[simp] theorem State.setCore_tenants (s : State) (i : Nat) (c : Core) : (s.setCore i c).tenants = s.tenants := rfl
@[simp] theorem State.setCore_rptQueue (s : State) (i : Nat) (c : Core) : (s.setCore i c).rptQueue = s.rptQueue := rfl
@[simp] theorem State.setCore_jobs (s : State) (i : Nat) (c : Core) : (s.setCore i c).jobs = s.jobs := rfl
@[simp] theorem State.setCore_nodecfg (s : State) (i : Nat) (c : Core) : (s.setCore i c).nodecfg = s.nodecfg := rfl
@[simp] theorem State.setCore_domain (s : State) (i : Nat) (c : Core) : (s.setCore i c).domain = s.domain := rfl
@[simp] theorem State.setCore_apt (s : State) (i : Nat) (c : Core) : (s.setCore i c).apt = s.apt := rfl
@[simp] theorem State.setCore_feat (s : State) (i : Nat) (c : Core) : (s.setCore i c).feat = s.feat := rfl
@[simp] theorem State.setCore_races (s : State) (i : Nat) (c : Core) : (s.setCore i c).races = s.races := rfl
@[simp] theorem State.setCore_regs (s : State) (i : Nat) (c : Core) : (s.setCore i c).regs = s.regs := rfl
@[simp] theorem State.setCore_supRoot (s : State) (i : Nat) (c : Core) : (s.setCore i c).supRoot = s.supRoot := rfl
@[simp] theorem State.setCore_supProg (s : State) (i : Nat) (c : Core) : (s.setCore i c).supProg = s.supProg := rfl
@[simp] theorem State.setCore_clusters (s : State) (i : Nat) (c : Core) : (s.setCore i c).clusters = s.clusters := rfl
@[simp] theorem State.setCore_dies (s : State) (i : Nat) (c : Core) : (s.setCore i c).dies = s.dies := rfl
@[simp] theorem State.setCore_time (s : State) (i : Nat) (c : Core) : (s.setCore i c).time = s.time := rfl
@[simp] theorem State.setCore_slews (s : State) (i : Nat) (c : Core) : (s.setCore i c).slews = s.slews := rfl
@[simp] theorem State.setCore_timeRef (s : State) (i : Nat) (c : Core) : (s.setCore i c).timeRef = s.timeRef := rfl
@[simp] theorem State.setCore_trace (s : State) (i : Nat) (c : Core) : (s.setCore i c).trace = s.trace := rfl
@[simp] theorem State.setCore_sinks (s : State) (i : Nat) (c : Core) : (s.setCore i c).sinks = s.sinks := rfl
@[simp] theorem State.setCore_counters (s : State) (i : Nat) (c : Core) : (s.setCore i c).counters = s.counters := rfl
@[simp] theorem State.setCore_progs (s : State) (i : Nat) (c : Core) : (s.setCore i c).progs = s.progs := rfl
@[simp] theorem State.setCore_hostOut (s : State) (i : Nat) (c : Core) : (s.setCore i c).hostOut = s.hostOut := rfl
@[simp] theorem State.setCore_mchecks (s : State) (i : Nat) (c : Core) : (s.setCore i c).mchecks = s.mchecks := rfl
@[simp] theorem State.setCore_dmaOn (s : State) (i : Nat) (c : Core) : (s.setCore i c).dmaOn = s.dmaOn := rfl
@[simp] theorem State.setCore_linkUp (s : State) (i : Nat) (c : Core) : (s.setCore i c).linkUp = s.linkUp := rfl
@[simp] theorem State.setCore_fab (s : State) (i : Nat) (c : Core) : (s.setCore i c).fab = s.fab := rfl
@[simp] theorem State.setCore_sn (s : State) (i : Nat) (c : Core) : (s.setCore i c).sn = s.sn := rfl
@[simp] theorem State.setCore_nextSerial (s : State) (i : Nat) (c : Core) : (s.setCore i c).nextSerial = s.nextSerial := rfl
@[simp] theorem State.setCore_cur (s : State) (i : Nat) (c : Core) : (s.setCore i c).cur = s.cur := rfl
@[simp] theorem State.setCore_agenda (s : State) (i : Nat) (c : Core) : (s.setCore i c).agenda = s.agenda := rfl
@[simp] theorem State.setCore_turn (s : State) (i : Nat) (c : Core) : (s.setCore i c).turn = s.turn := rfl
@[simp] theorem State.setCore_fresh (s : State) (i : Nat) (c : Core) : (s.setCore i c).fresh = s.fresh := rfl

/-! `updCore` changes cores alone. -/

@[simp] theorem State.updCore_mem (s : State) (i : Nat) (f : Core → Core) : (s.updCore i f).mem = s.mem := rfl
@[simp] theorem State.updCore_poison (s : State) (i : Nat) (f : Core → Core) : (s.updCore i f).poison = s.poison := rfl
@[simp] theorem State.updCore_lineKey (s : State) (i : Nat) (f : Core → Core) : (s.updCore i f).lineKey = s.lineKey := rfl
@[simp] theorem State.updCore_keys (s : State) (i : Nat) (f : Core → Core) : (s.updCore i f).keys = s.keys := rfl
@[simp] theorem State.updCore_tenants (s : State) (i : Nat) (f : Core → Core) : (s.updCore i f).tenants = s.tenants := rfl
@[simp] theorem State.updCore_rptQueue (s : State) (i : Nat) (f : Core → Core) : (s.updCore i f).rptQueue = s.rptQueue := rfl
@[simp] theorem State.updCore_jobs (s : State) (i : Nat) (f : Core → Core) : (s.updCore i f).jobs = s.jobs := rfl
@[simp] theorem State.updCore_nodecfg (s : State) (i : Nat) (f : Core → Core) : (s.updCore i f).nodecfg = s.nodecfg := rfl
@[simp] theorem State.updCore_domain (s : State) (i : Nat) (f : Core → Core) : (s.updCore i f).domain = s.domain := rfl
@[simp] theorem State.updCore_apt (s : State) (i : Nat) (f : Core → Core) : (s.updCore i f).apt = s.apt := rfl
@[simp] theorem State.updCore_feat (s : State) (i : Nat) (f : Core → Core) : (s.updCore i f).feat = s.feat := rfl
@[simp] theorem State.updCore_races (s : State) (i : Nat) (f : Core → Core) : (s.updCore i f).races = s.races := rfl
@[simp] theorem State.updCore_regs (s : State) (i : Nat) (f : Core → Core) : (s.updCore i f).regs = s.regs := rfl
@[simp] theorem State.updCore_supRoot (s : State) (i : Nat) (f : Core → Core) : (s.updCore i f).supRoot = s.supRoot := rfl
@[simp] theorem State.updCore_supProg (s : State) (i : Nat) (f : Core → Core) : (s.updCore i f).supProg = s.supProg := rfl
@[simp] theorem State.updCore_clusters (s : State) (i : Nat) (f : Core → Core) : (s.updCore i f).clusters = s.clusters := rfl
@[simp] theorem State.updCore_dies (s : State) (i : Nat) (f : Core → Core) : (s.updCore i f).dies = s.dies := rfl
@[simp] theorem State.updCore_time (s : State) (i : Nat) (f : Core → Core) : (s.updCore i f).time = s.time := rfl
@[simp] theorem State.updCore_slews (s : State) (i : Nat) (f : Core → Core) : (s.updCore i f).slews = s.slews := rfl
@[simp] theorem State.updCore_timeRef (s : State) (i : Nat) (f : Core → Core) : (s.updCore i f).timeRef = s.timeRef := rfl
@[simp] theorem State.updCore_trace (s : State) (i : Nat) (f : Core → Core) : (s.updCore i f).trace = s.trace := rfl
@[simp] theorem State.updCore_sinks (s : State) (i : Nat) (f : Core → Core) : (s.updCore i f).sinks = s.sinks := rfl
@[simp] theorem State.updCore_counters (s : State) (i : Nat) (f : Core → Core) : (s.updCore i f).counters = s.counters := rfl
@[simp] theorem State.updCore_progs (s : State) (i : Nat) (f : Core → Core) : (s.updCore i f).progs = s.progs := rfl
@[simp] theorem State.updCore_hostOut (s : State) (i : Nat) (f : Core → Core) : (s.updCore i f).hostOut = s.hostOut := rfl
@[simp] theorem State.updCore_mchecks (s : State) (i : Nat) (f : Core → Core) : (s.updCore i f).mchecks = s.mchecks := rfl
@[simp] theorem State.updCore_dmaOn (s : State) (i : Nat) (f : Core → Core) : (s.updCore i f).dmaOn = s.dmaOn := rfl
@[simp] theorem State.updCore_linkUp (s : State) (i : Nat) (f : Core → Core) : (s.updCore i f).linkUp = s.linkUp := rfl
@[simp] theorem State.updCore_fab (s : State) (i : Nat) (f : Core → Core) : (s.updCore i f).fab = s.fab := rfl
@[simp] theorem State.updCore_sn (s : State) (i : Nat) (f : Core → Core) : (s.updCore i f).sn = s.sn := rfl
@[simp] theorem State.updCore_nextSerial (s : State) (i : Nat) (f : Core → Core) : (s.updCore i f).nextSerial = s.nextSerial := rfl
@[simp] theorem State.updCore_cur (s : State) (i : Nat) (f : Core → Core) : (s.updCore i f).cur = s.cur := rfl
@[simp] theorem State.updCore_agenda (s : State) (i : Nat) (f : Core → Core) : (s.updCore i f).agenda = s.agenda := rfl
@[simp] theorem State.updCore_turn (s : State) (i : Nat) (f : Core → Core) : (s.updCore i f).turn = s.turn := rfl
@[simp] theorem State.updCore_fresh (s : State) (i : Nat) (f : Core → Core) : (s.updCore i f).fresh = s.fresh := rfl

/-! `setCtxAt` changes cores alone. -/

@[simp] theorem State.setCtxAt_mem (s : State) (i k : Nat) (x : Ctx) : (s.setCtxAt i k x).mem = s.mem := rfl
@[simp] theorem State.setCtxAt_poison (s : State) (i k : Nat) (x : Ctx) : (s.setCtxAt i k x).poison = s.poison := rfl
@[simp] theorem State.setCtxAt_lineKey (s : State) (i k : Nat) (x : Ctx) : (s.setCtxAt i k x).lineKey = s.lineKey := rfl
@[simp] theorem State.setCtxAt_keys (s : State) (i k : Nat) (x : Ctx) : (s.setCtxAt i k x).keys = s.keys := rfl
@[simp] theorem State.setCtxAt_tenants (s : State) (i k : Nat) (x : Ctx) : (s.setCtxAt i k x).tenants = s.tenants := rfl
@[simp] theorem State.setCtxAt_rptQueue (s : State) (i k : Nat) (x : Ctx) : (s.setCtxAt i k x).rptQueue = s.rptQueue := rfl
@[simp] theorem State.setCtxAt_jobs (s : State) (i k : Nat) (x : Ctx) : (s.setCtxAt i k x).jobs = s.jobs := rfl
@[simp] theorem State.setCtxAt_nodecfg (s : State) (i k : Nat) (x : Ctx) : (s.setCtxAt i k x).nodecfg = s.nodecfg := rfl
@[simp] theorem State.setCtxAt_domain (s : State) (i k : Nat) (x : Ctx) : (s.setCtxAt i k x).domain = s.domain := rfl
@[simp] theorem State.setCtxAt_apt (s : State) (i k : Nat) (x : Ctx) : (s.setCtxAt i k x).apt = s.apt := rfl
@[simp] theorem State.setCtxAt_feat (s : State) (i k : Nat) (x : Ctx) : (s.setCtxAt i k x).feat = s.feat := rfl
@[simp] theorem State.setCtxAt_races (s : State) (i k : Nat) (x : Ctx) : (s.setCtxAt i k x).races = s.races := rfl
@[simp] theorem State.setCtxAt_regs (s : State) (i k : Nat) (x : Ctx) : (s.setCtxAt i k x).regs = s.regs := rfl
@[simp] theorem State.setCtxAt_supRoot (s : State) (i k : Nat) (x : Ctx) : (s.setCtxAt i k x).supRoot = s.supRoot := rfl
@[simp] theorem State.setCtxAt_supProg (s : State) (i k : Nat) (x : Ctx) : (s.setCtxAt i k x).supProg = s.supProg := rfl
@[simp] theorem State.setCtxAt_clusters (s : State) (i k : Nat) (x : Ctx) : (s.setCtxAt i k x).clusters = s.clusters := rfl
@[simp] theorem State.setCtxAt_dies (s : State) (i k : Nat) (x : Ctx) : (s.setCtxAt i k x).dies = s.dies := rfl
@[simp] theorem State.setCtxAt_time (s : State) (i k : Nat) (x : Ctx) : (s.setCtxAt i k x).time = s.time := rfl
@[simp] theorem State.setCtxAt_slews (s : State) (i k : Nat) (x : Ctx) : (s.setCtxAt i k x).slews = s.slews := rfl
@[simp] theorem State.setCtxAt_timeRef (s : State) (i k : Nat) (x : Ctx) : (s.setCtxAt i k x).timeRef = s.timeRef := rfl
@[simp] theorem State.setCtxAt_trace (s : State) (i k : Nat) (x : Ctx) : (s.setCtxAt i k x).trace = s.trace := rfl
@[simp] theorem State.setCtxAt_sinks (s : State) (i k : Nat) (x : Ctx) : (s.setCtxAt i k x).sinks = s.sinks := rfl
@[simp] theorem State.setCtxAt_counters (s : State) (i k : Nat) (x : Ctx) : (s.setCtxAt i k x).counters = s.counters := rfl
@[simp] theorem State.setCtxAt_progs (s : State) (i k : Nat) (x : Ctx) : (s.setCtxAt i k x).progs = s.progs := rfl
@[simp] theorem State.setCtxAt_hostOut (s : State) (i k : Nat) (x : Ctx) : (s.setCtxAt i k x).hostOut = s.hostOut := rfl
@[simp] theorem State.setCtxAt_mchecks (s : State) (i k : Nat) (x : Ctx) : (s.setCtxAt i k x).mchecks = s.mchecks := rfl
@[simp] theorem State.setCtxAt_dmaOn (s : State) (i k : Nat) (x : Ctx) : (s.setCtxAt i k x).dmaOn = s.dmaOn := rfl
@[simp] theorem State.setCtxAt_linkUp (s : State) (i k : Nat) (x : Ctx) : (s.setCtxAt i k x).linkUp = s.linkUp := rfl
@[simp] theorem State.setCtxAt_fab (s : State) (i k : Nat) (x : Ctx) : (s.setCtxAt i k x).fab = s.fab := rfl
@[simp] theorem State.setCtxAt_sn (s : State) (i k : Nat) (x : Ctx) : (s.setCtxAt i k x).sn = s.sn := rfl
@[simp] theorem State.setCtxAt_nextSerial (s : State) (i k : Nat) (x : Ctx) : (s.setCtxAt i k x).nextSerial = s.nextSerial := rfl
@[simp] theorem State.setCtxAt_cur (s : State) (i k : Nat) (x : Ctx) : (s.setCtxAt i k x).cur = s.cur := rfl
@[simp] theorem State.setCtxAt_agenda (s : State) (i k : Nat) (x : Ctx) : (s.setCtxAt i k x).agenda = s.agenda := rfl
@[simp] theorem State.setCtxAt_turn (s : State) (i k : Nat) (x : Ctx) : (s.setCtxAt i k x).turn = s.turn := rfl
@[simp] theorem State.setCtxAt_fresh (s : State) (i k : Nat) (x : Ctx) : (s.setCtxAt i k x).fresh = s.fresh := rfl

/-! `updCtxAt` changes cores alone. -/

@[simp] theorem State.updCtxAt_mem (s : State) (i k : Nat) (f : Ctx → Ctx) : (s.updCtxAt i k f).mem = s.mem := rfl
@[simp] theorem State.updCtxAt_poison (s : State) (i k : Nat) (f : Ctx → Ctx) : (s.updCtxAt i k f).poison = s.poison := rfl
@[simp] theorem State.updCtxAt_lineKey (s : State) (i k : Nat) (f : Ctx → Ctx) : (s.updCtxAt i k f).lineKey = s.lineKey := rfl
@[simp] theorem State.updCtxAt_keys (s : State) (i k : Nat) (f : Ctx → Ctx) : (s.updCtxAt i k f).keys = s.keys := rfl
@[simp] theorem State.updCtxAt_tenants (s : State) (i k : Nat) (f : Ctx → Ctx) : (s.updCtxAt i k f).tenants = s.tenants := rfl
@[simp] theorem State.updCtxAt_rptQueue (s : State) (i k : Nat) (f : Ctx → Ctx) : (s.updCtxAt i k f).rptQueue = s.rptQueue := rfl
@[simp] theorem State.updCtxAt_jobs (s : State) (i k : Nat) (f : Ctx → Ctx) : (s.updCtxAt i k f).jobs = s.jobs := rfl
@[simp] theorem State.updCtxAt_nodecfg (s : State) (i k : Nat) (f : Ctx → Ctx) : (s.updCtxAt i k f).nodecfg = s.nodecfg := rfl
@[simp] theorem State.updCtxAt_domain (s : State) (i k : Nat) (f : Ctx → Ctx) : (s.updCtxAt i k f).domain = s.domain := rfl
@[simp] theorem State.updCtxAt_apt (s : State) (i k : Nat) (f : Ctx → Ctx) : (s.updCtxAt i k f).apt = s.apt := rfl
@[simp] theorem State.updCtxAt_feat (s : State) (i k : Nat) (f : Ctx → Ctx) : (s.updCtxAt i k f).feat = s.feat := rfl
@[simp] theorem State.updCtxAt_races (s : State) (i k : Nat) (f : Ctx → Ctx) : (s.updCtxAt i k f).races = s.races := rfl
@[simp] theorem State.updCtxAt_regs (s : State) (i k : Nat) (f : Ctx → Ctx) : (s.updCtxAt i k f).regs = s.regs := rfl
@[simp] theorem State.updCtxAt_supRoot (s : State) (i k : Nat) (f : Ctx → Ctx) : (s.updCtxAt i k f).supRoot = s.supRoot := rfl
@[simp] theorem State.updCtxAt_supProg (s : State) (i k : Nat) (f : Ctx → Ctx) : (s.updCtxAt i k f).supProg = s.supProg := rfl
@[simp] theorem State.updCtxAt_clusters (s : State) (i k : Nat) (f : Ctx → Ctx) : (s.updCtxAt i k f).clusters = s.clusters := rfl
@[simp] theorem State.updCtxAt_dies (s : State) (i k : Nat) (f : Ctx → Ctx) : (s.updCtxAt i k f).dies = s.dies := rfl
@[simp] theorem State.updCtxAt_time (s : State) (i k : Nat) (f : Ctx → Ctx) : (s.updCtxAt i k f).time = s.time := rfl
@[simp] theorem State.updCtxAt_slews (s : State) (i k : Nat) (f : Ctx → Ctx) : (s.updCtxAt i k f).slews = s.slews := rfl
@[simp] theorem State.updCtxAt_timeRef (s : State) (i k : Nat) (f : Ctx → Ctx) : (s.updCtxAt i k f).timeRef = s.timeRef := rfl
@[simp] theorem State.updCtxAt_trace (s : State) (i k : Nat) (f : Ctx → Ctx) : (s.updCtxAt i k f).trace = s.trace := rfl
@[simp] theorem State.updCtxAt_sinks (s : State) (i k : Nat) (f : Ctx → Ctx) : (s.updCtxAt i k f).sinks = s.sinks := rfl
@[simp] theorem State.updCtxAt_counters (s : State) (i k : Nat) (f : Ctx → Ctx) : (s.updCtxAt i k f).counters = s.counters := rfl
@[simp] theorem State.updCtxAt_progs (s : State) (i k : Nat) (f : Ctx → Ctx) : (s.updCtxAt i k f).progs = s.progs := rfl
@[simp] theorem State.updCtxAt_hostOut (s : State) (i k : Nat) (f : Ctx → Ctx) : (s.updCtxAt i k f).hostOut = s.hostOut := rfl
@[simp] theorem State.updCtxAt_mchecks (s : State) (i k : Nat) (f : Ctx → Ctx) : (s.updCtxAt i k f).mchecks = s.mchecks := rfl
@[simp] theorem State.updCtxAt_dmaOn (s : State) (i k : Nat) (f : Ctx → Ctx) : (s.updCtxAt i k f).dmaOn = s.dmaOn := rfl
@[simp] theorem State.updCtxAt_linkUp (s : State) (i k : Nat) (f : Ctx → Ctx) : (s.updCtxAt i k f).linkUp = s.linkUp := rfl
@[simp] theorem State.updCtxAt_fab (s : State) (i k : Nat) (f : Ctx → Ctx) : (s.updCtxAt i k f).fab = s.fab := rfl
@[simp] theorem State.updCtxAt_sn (s : State) (i k : Nat) (f : Ctx → Ctx) : (s.updCtxAt i k f).sn = s.sn := rfl
@[simp] theorem State.updCtxAt_nextSerial (s : State) (i k : Nat) (f : Ctx → Ctx) : (s.updCtxAt i k f).nextSerial = s.nextSerial := rfl
@[simp] theorem State.updCtxAt_cur (s : State) (i k : Nat) (f : Ctx → Ctx) : (s.updCtxAt i k f).cur = s.cur := rfl
@[simp] theorem State.updCtxAt_agenda (s : State) (i k : Nat) (f : Ctx → Ctx) : (s.updCtxAt i k f).agenda = s.agenda := rfl
@[simp] theorem State.updCtxAt_turn (s : State) (i k : Nat) (f : Ctx → Ctx) : (s.updCtxAt i k f).turn = s.turn := rfl
@[simp] theorem State.updCtxAt_fresh (s : State) (i k : Nat) (f : Ctx → Ctx) : (s.updCtxAt i k f).fresh = s.fresh := rfl

/-! `setCtx` changes cores alone. -/

@[simp] theorem State.setCtx_mem (s : State) (x : Ctx) : (s.setCtx x).mem = s.mem := rfl
@[simp] theorem State.setCtx_poison (s : State) (x : Ctx) : (s.setCtx x).poison = s.poison := rfl
@[simp] theorem State.setCtx_lineKey (s : State) (x : Ctx) : (s.setCtx x).lineKey = s.lineKey := rfl
@[simp] theorem State.setCtx_keys (s : State) (x : Ctx) : (s.setCtx x).keys = s.keys := rfl
@[simp] theorem State.setCtx_tenants (s : State) (x : Ctx) : (s.setCtx x).tenants = s.tenants := rfl
@[simp] theorem State.setCtx_rptQueue (s : State) (x : Ctx) : (s.setCtx x).rptQueue = s.rptQueue := rfl
@[simp] theorem State.setCtx_jobs (s : State) (x : Ctx) : (s.setCtx x).jobs = s.jobs := rfl
@[simp] theorem State.setCtx_nodecfg (s : State) (x : Ctx) : (s.setCtx x).nodecfg = s.nodecfg := rfl
@[simp] theorem State.setCtx_domain (s : State) (x : Ctx) : (s.setCtx x).domain = s.domain := rfl
@[simp] theorem State.setCtx_apt (s : State) (x : Ctx) : (s.setCtx x).apt = s.apt := rfl
@[simp] theorem State.setCtx_feat (s : State) (x : Ctx) : (s.setCtx x).feat = s.feat := rfl
@[simp] theorem State.setCtx_races (s : State) (x : Ctx) : (s.setCtx x).races = s.races := rfl
@[simp] theorem State.setCtx_regs (s : State) (x : Ctx) : (s.setCtx x).regs = s.regs := rfl
@[simp] theorem State.setCtx_supRoot (s : State) (x : Ctx) : (s.setCtx x).supRoot = s.supRoot := rfl
@[simp] theorem State.setCtx_supProg (s : State) (x : Ctx) : (s.setCtx x).supProg = s.supProg := rfl
@[simp] theorem State.setCtx_clusters (s : State) (x : Ctx) : (s.setCtx x).clusters = s.clusters := rfl
@[simp] theorem State.setCtx_dies (s : State) (x : Ctx) : (s.setCtx x).dies = s.dies := rfl
@[simp] theorem State.setCtx_time (s : State) (x : Ctx) : (s.setCtx x).time = s.time := rfl
@[simp] theorem State.setCtx_slews (s : State) (x : Ctx) : (s.setCtx x).slews = s.slews := rfl
@[simp] theorem State.setCtx_timeRef (s : State) (x : Ctx) : (s.setCtx x).timeRef = s.timeRef := rfl
@[simp] theorem State.setCtx_trace (s : State) (x : Ctx) : (s.setCtx x).trace = s.trace := rfl
@[simp] theorem State.setCtx_sinks (s : State) (x : Ctx) : (s.setCtx x).sinks = s.sinks := rfl
@[simp] theorem State.setCtx_counters (s : State) (x : Ctx) : (s.setCtx x).counters = s.counters := rfl
@[simp] theorem State.setCtx_progs (s : State) (x : Ctx) : (s.setCtx x).progs = s.progs := rfl
@[simp] theorem State.setCtx_hostOut (s : State) (x : Ctx) : (s.setCtx x).hostOut = s.hostOut := rfl
@[simp] theorem State.setCtx_mchecks (s : State) (x : Ctx) : (s.setCtx x).mchecks = s.mchecks := rfl
@[simp] theorem State.setCtx_dmaOn (s : State) (x : Ctx) : (s.setCtx x).dmaOn = s.dmaOn := rfl
@[simp] theorem State.setCtx_linkUp (s : State) (x : Ctx) : (s.setCtx x).linkUp = s.linkUp := rfl
@[simp] theorem State.setCtx_fab (s : State) (x : Ctx) : (s.setCtx x).fab = s.fab := rfl
@[simp] theorem State.setCtx_sn (s : State) (x : Ctx) : (s.setCtx x).sn = s.sn := rfl
@[simp] theorem State.setCtx_nextSerial (s : State) (x : Ctx) : (s.setCtx x).nextSerial = s.nextSerial := rfl
@[simp] theorem State.setCtx_cur (s : State) (x : Ctx) : (s.setCtx x).cur = s.cur := rfl
@[simp] theorem State.setCtx_agenda (s : State) (x : Ctx) : (s.setCtx x).agenda = s.agenda := rfl
@[simp] theorem State.setCtx_turn (s : State) (x : Ctx) : (s.setCtx x).turn = s.turn := rfl
@[simp] theorem State.setCtx_fresh (s : State) (x : Ctx) : (s.setCtx x).fresh = s.fresh := rfl

/-! `updCtx` changes cores alone. -/

@[simp] theorem State.updCtx_mem (s : State) (f : Ctx → Ctx) : (s.updCtx f).mem = s.mem := rfl
@[simp] theorem State.updCtx_poison (s : State) (f : Ctx → Ctx) : (s.updCtx f).poison = s.poison := rfl
@[simp] theorem State.updCtx_lineKey (s : State) (f : Ctx → Ctx) : (s.updCtx f).lineKey = s.lineKey := rfl
@[simp] theorem State.updCtx_keys (s : State) (f : Ctx → Ctx) : (s.updCtx f).keys = s.keys := rfl
@[simp] theorem State.updCtx_tenants (s : State) (f : Ctx → Ctx) : (s.updCtx f).tenants = s.tenants := rfl
@[simp] theorem State.updCtx_rptQueue (s : State) (f : Ctx → Ctx) : (s.updCtx f).rptQueue = s.rptQueue := rfl
@[simp] theorem State.updCtx_jobs (s : State) (f : Ctx → Ctx) : (s.updCtx f).jobs = s.jobs := rfl
@[simp] theorem State.updCtx_nodecfg (s : State) (f : Ctx → Ctx) : (s.updCtx f).nodecfg = s.nodecfg := rfl
@[simp] theorem State.updCtx_domain (s : State) (f : Ctx → Ctx) : (s.updCtx f).domain = s.domain := rfl
@[simp] theorem State.updCtx_apt (s : State) (f : Ctx → Ctx) : (s.updCtx f).apt = s.apt := rfl
@[simp] theorem State.updCtx_feat (s : State) (f : Ctx → Ctx) : (s.updCtx f).feat = s.feat := rfl
@[simp] theorem State.updCtx_races (s : State) (f : Ctx → Ctx) : (s.updCtx f).races = s.races := rfl
@[simp] theorem State.updCtx_regs (s : State) (f : Ctx → Ctx) : (s.updCtx f).regs = s.regs := rfl
@[simp] theorem State.updCtx_supRoot (s : State) (f : Ctx → Ctx) : (s.updCtx f).supRoot = s.supRoot := rfl
@[simp] theorem State.updCtx_supProg (s : State) (f : Ctx → Ctx) : (s.updCtx f).supProg = s.supProg := rfl
@[simp] theorem State.updCtx_clusters (s : State) (f : Ctx → Ctx) : (s.updCtx f).clusters = s.clusters := rfl
@[simp] theorem State.updCtx_dies (s : State) (f : Ctx → Ctx) : (s.updCtx f).dies = s.dies := rfl
@[simp] theorem State.updCtx_time (s : State) (f : Ctx → Ctx) : (s.updCtx f).time = s.time := rfl
@[simp] theorem State.updCtx_slews (s : State) (f : Ctx → Ctx) : (s.updCtx f).slews = s.slews := rfl
@[simp] theorem State.updCtx_timeRef (s : State) (f : Ctx → Ctx) : (s.updCtx f).timeRef = s.timeRef := rfl
@[simp] theorem State.updCtx_trace (s : State) (f : Ctx → Ctx) : (s.updCtx f).trace = s.trace := rfl
@[simp] theorem State.updCtx_sinks (s : State) (f : Ctx → Ctx) : (s.updCtx f).sinks = s.sinks := rfl
@[simp] theorem State.updCtx_counters (s : State) (f : Ctx → Ctx) : (s.updCtx f).counters = s.counters := rfl
@[simp] theorem State.updCtx_progs (s : State) (f : Ctx → Ctx) : (s.updCtx f).progs = s.progs := rfl
@[simp] theorem State.updCtx_hostOut (s : State) (f : Ctx → Ctx) : (s.updCtx f).hostOut = s.hostOut := rfl
@[simp] theorem State.updCtx_mchecks (s : State) (f : Ctx → Ctx) : (s.updCtx f).mchecks = s.mchecks := rfl
@[simp] theorem State.updCtx_dmaOn (s : State) (f : Ctx → Ctx) : (s.updCtx f).dmaOn = s.dmaOn := rfl
@[simp] theorem State.updCtx_linkUp (s : State) (f : Ctx → Ctx) : (s.updCtx f).linkUp = s.linkUp := rfl
@[simp] theorem State.updCtx_fab (s : State) (f : Ctx → Ctx) : (s.updCtx f).fab = s.fab := rfl
@[simp] theorem State.updCtx_sn (s : State) (f : Ctx → Ctx) : (s.updCtx f).sn = s.sn := rfl
@[simp] theorem State.updCtx_nextSerial (s : State) (f : Ctx → Ctx) : (s.updCtx f).nextSerial = s.nextSerial := rfl
@[simp] theorem State.updCtx_cur (s : State) (f : Ctx → Ctx) : (s.updCtx f).cur = s.cur := rfl
@[simp] theorem State.updCtx_agenda (s : State) (f : Ctx → Ctx) : (s.updCtx f).agenda = s.agenda := rfl
@[simp] theorem State.updCtx_turn (s : State) (f : Ctx → Ctx) : (s.updCtx f).turn = s.turn := rfl
@[simp] theorem State.updCtx_fresh (s : State) (f : Ctx → Ctx) : (s.updCtx f).fresh = s.fresh := rfl

/-! `updCur` changes cur alone. -/

@[simp] theorem State.updCur_cores (s : State) (f : Cur → Cur) : (s.updCur f).cores = s.cores := rfl
@[simp] theorem State.updCur_mem (s : State) (f : Cur → Cur) : (s.updCur f).mem = s.mem := rfl
@[simp] theorem State.updCur_poison (s : State) (f : Cur → Cur) : (s.updCur f).poison = s.poison := rfl
@[simp] theorem State.updCur_lineKey (s : State) (f : Cur → Cur) : (s.updCur f).lineKey = s.lineKey := rfl
@[simp] theorem State.updCur_keys (s : State) (f : Cur → Cur) : (s.updCur f).keys = s.keys := rfl
@[simp] theorem State.updCur_tenants (s : State) (f : Cur → Cur) : (s.updCur f).tenants = s.tenants := rfl
@[simp] theorem State.updCur_rptQueue (s : State) (f : Cur → Cur) : (s.updCur f).rptQueue = s.rptQueue := rfl
@[simp] theorem State.updCur_jobs (s : State) (f : Cur → Cur) : (s.updCur f).jobs = s.jobs := rfl
@[simp] theorem State.updCur_nodecfg (s : State) (f : Cur → Cur) : (s.updCur f).nodecfg = s.nodecfg := rfl
@[simp] theorem State.updCur_domain (s : State) (f : Cur → Cur) : (s.updCur f).domain = s.domain := rfl
@[simp] theorem State.updCur_apt (s : State) (f : Cur → Cur) : (s.updCur f).apt = s.apt := rfl
@[simp] theorem State.updCur_feat (s : State) (f : Cur → Cur) : (s.updCur f).feat = s.feat := rfl
@[simp] theorem State.updCur_races (s : State) (f : Cur → Cur) : (s.updCur f).races = s.races := rfl
@[simp] theorem State.updCur_regs (s : State) (f : Cur → Cur) : (s.updCur f).regs = s.regs := rfl
@[simp] theorem State.updCur_supRoot (s : State) (f : Cur → Cur) : (s.updCur f).supRoot = s.supRoot := rfl
@[simp] theorem State.updCur_supProg (s : State) (f : Cur → Cur) : (s.updCur f).supProg = s.supProg := rfl
@[simp] theorem State.updCur_clusters (s : State) (f : Cur → Cur) : (s.updCur f).clusters = s.clusters := rfl
@[simp] theorem State.updCur_dies (s : State) (f : Cur → Cur) : (s.updCur f).dies = s.dies := rfl
@[simp] theorem State.updCur_time (s : State) (f : Cur → Cur) : (s.updCur f).time = s.time := rfl
@[simp] theorem State.updCur_slews (s : State) (f : Cur → Cur) : (s.updCur f).slews = s.slews := rfl
@[simp] theorem State.updCur_timeRef (s : State) (f : Cur → Cur) : (s.updCur f).timeRef = s.timeRef := rfl
@[simp] theorem State.updCur_trace (s : State) (f : Cur → Cur) : (s.updCur f).trace = s.trace := rfl
@[simp] theorem State.updCur_sinks (s : State) (f : Cur → Cur) : (s.updCur f).sinks = s.sinks := rfl
@[simp] theorem State.updCur_counters (s : State) (f : Cur → Cur) : (s.updCur f).counters = s.counters := rfl
@[simp] theorem State.updCur_progs (s : State) (f : Cur → Cur) : (s.updCur f).progs = s.progs := rfl
@[simp] theorem State.updCur_hostOut (s : State) (f : Cur → Cur) : (s.updCur f).hostOut = s.hostOut := rfl
@[simp] theorem State.updCur_mchecks (s : State) (f : Cur → Cur) : (s.updCur f).mchecks = s.mchecks := rfl
@[simp] theorem State.updCur_dmaOn (s : State) (f : Cur → Cur) : (s.updCur f).dmaOn = s.dmaOn := rfl
@[simp] theorem State.updCur_linkUp (s : State) (f : Cur → Cur) : (s.updCur f).linkUp = s.linkUp := rfl
@[simp] theorem State.updCur_fab (s : State) (f : Cur → Cur) : (s.updCur f).fab = s.fab := rfl
@[simp] theorem State.updCur_sn (s : State) (f : Cur → Cur) : (s.updCur f).sn = s.sn := rfl
@[simp] theorem State.updCur_nextSerial (s : State) (f : Cur → Cur) : (s.updCur f).nextSerial = s.nextSerial := rfl
@[simp] theorem State.updCur_agenda (s : State) (f : Cur → Cur) : (s.updCur f).agenda = s.agenda := rfl
@[simp] theorem State.updCur_turn (s : State) (f : Cur → Cur) : (s.updCur f).turn = s.turn := rfl
@[simp] theorem State.updCur_fresh (s : State) (f : Cur → Cur) : (s.updCur f).fresh = s.fresh := rfl

/-! `focus` changes cur alone. -/

@[simp] theorem State.focus_cores (s : State) (core ctx : Nat) : (s.focus core ctx).cores = s.cores := rfl
@[simp] theorem State.focus_mem (s : State) (core ctx : Nat) : (s.focus core ctx).mem = s.mem := rfl
@[simp] theorem State.focus_poison (s : State) (core ctx : Nat) : (s.focus core ctx).poison = s.poison := rfl
@[simp] theorem State.focus_lineKey (s : State) (core ctx : Nat) : (s.focus core ctx).lineKey = s.lineKey := rfl
@[simp] theorem State.focus_keys (s : State) (core ctx : Nat) : (s.focus core ctx).keys = s.keys := rfl
@[simp] theorem State.focus_tenants (s : State) (core ctx : Nat) : (s.focus core ctx).tenants = s.tenants := rfl
@[simp] theorem State.focus_rptQueue (s : State) (core ctx : Nat) : (s.focus core ctx).rptQueue = s.rptQueue := rfl
@[simp] theorem State.focus_jobs (s : State) (core ctx : Nat) : (s.focus core ctx).jobs = s.jobs := rfl
@[simp] theorem State.focus_nodecfg (s : State) (core ctx : Nat) : (s.focus core ctx).nodecfg = s.nodecfg := rfl
@[simp] theorem State.focus_domain (s : State) (core ctx : Nat) : (s.focus core ctx).domain = s.domain := rfl
@[simp] theorem State.focus_apt (s : State) (core ctx : Nat) : (s.focus core ctx).apt = s.apt := rfl
@[simp] theorem State.focus_feat (s : State) (core ctx : Nat) : (s.focus core ctx).feat = s.feat := rfl
@[simp] theorem State.focus_races (s : State) (core ctx : Nat) : (s.focus core ctx).races = s.races := rfl
@[simp] theorem State.focus_regs (s : State) (core ctx : Nat) : (s.focus core ctx).regs = s.regs := rfl
@[simp] theorem State.focus_supRoot (s : State) (core ctx : Nat) : (s.focus core ctx).supRoot = s.supRoot := rfl
@[simp] theorem State.focus_supProg (s : State) (core ctx : Nat) : (s.focus core ctx).supProg = s.supProg := rfl
@[simp] theorem State.focus_clusters (s : State) (core ctx : Nat) : (s.focus core ctx).clusters = s.clusters := rfl
@[simp] theorem State.focus_dies (s : State) (core ctx : Nat) : (s.focus core ctx).dies = s.dies := rfl
@[simp] theorem State.focus_time (s : State) (core ctx : Nat) : (s.focus core ctx).time = s.time := rfl
@[simp] theorem State.focus_slews (s : State) (core ctx : Nat) : (s.focus core ctx).slews = s.slews := rfl
@[simp] theorem State.focus_timeRef (s : State) (core ctx : Nat) : (s.focus core ctx).timeRef = s.timeRef := rfl
@[simp] theorem State.focus_trace (s : State) (core ctx : Nat) : (s.focus core ctx).trace = s.trace := rfl
@[simp] theorem State.focus_sinks (s : State) (core ctx : Nat) : (s.focus core ctx).sinks = s.sinks := rfl
@[simp] theorem State.focus_counters (s : State) (core ctx : Nat) : (s.focus core ctx).counters = s.counters := rfl
@[simp] theorem State.focus_progs (s : State) (core ctx : Nat) : (s.focus core ctx).progs = s.progs := rfl
@[simp] theorem State.focus_hostOut (s : State) (core ctx : Nat) : (s.focus core ctx).hostOut = s.hostOut := rfl
@[simp] theorem State.focus_mchecks (s : State) (core ctx : Nat) : (s.focus core ctx).mchecks = s.mchecks := rfl
@[simp] theorem State.focus_dmaOn (s : State) (core ctx : Nat) : (s.focus core ctx).dmaOn = s.dmaOn := rfl
@[simp] theorem State.focus_linkUp (s : State) (core ctx : Nat) : (s.focus core ctx).linkUp = s.linkUp := rfl
@[simp] theorem State.focus_fab (s : State) (core ctx : Nat) : (s.focus core ctx).fab = s.fab := rfl
@[simp] theorem State.focus_sn (s : State) (core ctx : Nat) : (s.focus core ctx).sn = s.sn := rfl
@[simp] theorem State.focus_nextSerial (s : State) (core ctx : Nat) : (s.focus core ctx).nextSerial = s.nextSerial := rfl
@[simp] theorem State.focus_agenda (s : State) (core ctx : Nat) : (s.focus core ctx).agenda = s.agenda := rfl
@[simp] theorem State.focus_turn (s : State) (core ctx : Nat) : (s.focus core ctx).turn = s.turn := rfl
@[simp] theorem State.focus_fresh (s : State) (core ctx : Nat) : (s.focus core ctx).fresh = s.fresh := rfl

/-! `draw` changes fresh alone. -/

@[simp] theorem State.draw_cores (s : State) : (s.draw).cores = s.cores := rfl
@[simp] theorem State.draw_mem (s : State) : (s.draw).mem = s.mem := rfl
@[simp] theorem State.draw_poison (s : State) : (s.draw).poison = s.poison := rfl
@[simp] theorem State.draw_lineKey (s : State) : (s.draw).lineKey = s.lineKey := rfl
@[simp] theorem State.draw_keys (s : State) : (s.draw).keys = s.keys := rfl
@[simp] theorem State.draw_tenants (s : State) : (s.draw).tenants = s.tenants := rfl
@[simp] theorem State.draw_rptQueue (s : State) : (s.draw).rptQueue = s.rptQueue := rfl
@[simp] theorem State.draw_jobs (s : State) : (s.draw).jobs = s.jobs := rfl
@[simp] theorem State.draw_nodecfg (s : State) : (s.draw).nodecfg = s.nodecfg := rfl
@[simp] theorem State.draw_domain (s : State) : (s.draw).domain = s.domain := rfl
@[simp] theorem State.draw_apt (s : State) : (s.draw).apt = s.apt := rfl
@[simp] theorem State.draw_feat (s : State) : (s.draw).feat = s.feat := rfl
@[simp] theorem State.draw_races (s : State) : (s.draw).races = s.races := rfl
@[simp] theorem State.draw_regs (s : State) : (s.draw).regs = s.regs := rfl
@[simp] theorem State.draw_supRoot (s : State) : (s.draw).supRoot = s.supRoot := rfl
@[simp] theorem State.draw_supProg (s : State) : (s.draw).supProg = s.supProg := rfl
@[simp] theorem State.draw_clusters (s : State) : (s.draw).clusters = s.clusters := rfl
@[simp] theorem State.draw_dies (s : State) : (s.draw).dies = s.dies := rfl
@[simp] theorem State.draw_time (s : State) : (s.draw).time = s.time := rfl
@[simp] theorem State.draw_slews (s : State) : (s.draw).slews = s.slews := rfl
@[simp] theorem State.draw_timeRef (s : State) : (s.draw).timeRef = s.timeRef := rfl
@[simp] theorem State.draw_trace (s : State) : (s.draw).trace = s.trace := rfl
@[simp] theorem State.draw_sinks (s : State) : (s.draw).sinks = s.sinks := rfl
@[simp] theorem State.draw_counters (s : State) : (s.draw).counters = s.counters := rfl
@[simp] theorem State.draw_progs (s : State) : (s.draw).progs = s.progs := rfl
@[simp] theorem State.draw_hostOut (s : State) : (s.draw).hostOut = s.hostOut := rfl
@[simp] theorem State.draw_mchecks (s : State) : (s.draw).mchecks = s.mchecks := rfl
@[simp] theorem State.draw_dmaOn (s : State) : (s.draw).dmaOn = s.dmaOn := rfl
@[simp] theorem State.draw_linkUp (s : State) : (s.draw).linkUp = s.linkUp := rfl
@[simp] theorem State.draw_fab (s : State) : (s.draw).fab = s.fab := rfl
@[simp] theorem State.draw_sn (s : State) : (s.draw).sn = s.sn := rfl
@[simp] theorem State.draw_nextSerial (s : State) : (s.draw).nextSerial = s.nextSerial := rfl
@[simp] theorem State.draw_cur (s : State) : (s.draw).cur = s.cur := rfl
@[simp] theorem State.draw_agenda (s : State) : (s.draw).agenda = s.agenda := rfl
@[simp] theorem State.draw_turn (s : State) : (s.draw).turn = s.turn := rfl

/-! `setReg` changes regs alone. -/

@[simp] theorem State.setReg_cores (s : State) (a : Nat) (x : Word) : (s.setReg a x).cores = s.cores := rfl
@[simp] theorem State.setReg_mem (s : State) (a : Nat) (x : Word) : (s.setReg a x).mem = s.mem := rfl
@[simp] theorem State.setReg_poison (s : State) (a : Nat) (x : Word) : (s.setReg a x).poison = s.poison := rfl
@[simp] theorem State.setReg_lineKey (s : State) (a : Nat) (x : Word) : (s.setReg a x).lineKey = s.lineKey := rfl
@[simp] theorem State.setReg_keys (s : State) (a : Nat) (x : Word) : (s.setReg a x).keys = s.keys := rfl
@[simp] theorem State.setReg_tenants (s : State) (a : Nat) (x : Word) : (s.setReg a x).tenants = s.tenants := rfl
@[simp] theorem State.setReg_rptQueue (s : State) (a : Nat) (x : Word) : (s.setReg a x).rptQueue = s.rptQueue := rfl
@[simp] theorem State.setReg_jobs (s : State) (a : Nat) (x : Word) : (s.setReg a x).jobs = s.jobs := rfl
@[simp] theorem State.setReg_nodecfg (s : State) (a : Nat) (x : Word) : (s.setReg a x).nodecfg = s.nodecfg := rfl
@[simp] theorem State.setReg_domain (s : State) (a : Nat) (x : Word) : (s.setReg a x).domain = s.domain := rfl
@[simp] theorem State.setReg_apt (s : State) (a : Nat) (x : Word) : (s.setReg a x).apt = s.apt := rfl
@[simp] theorem State.setReg_feat (s : State) (a : Nat) (x : Word) : (s.setReg a x).feat = s.feat := rfl
@[simp] theorem State.setReg_races (s : State) (a : Nat) (x : Word) : (s.setReg a x).races = s.races := rfl
@[simp] theorem State.setReg_supRoot (s : State) (a : Nat) (x : Word) : (s.setReg a x).supRoot = s.supRoot := rfl
@[simp] theorem State.setReg_supProg (s : State) (a : Nat) (x : Word) : (s.setReg a x).supProg = s.supProg := rfl
@[simp] theorem State.setReg_clusters (s : State) (a : Nat) (x : Word) : (s.setReg a x).clusters = s.clusters := rfl
@[simp] theorem State.setReg_dies (s : State) (a : Nat) (x : Word) : (s.setReg a x).dies = s.dies := rfl
@[simp] theorem State.setReg_time (s : State) (a : Nat) (x : Word) : (s.setReg a x).time = s.time := rfl
@[simp] theorem State.setReg_slews (s : State) (a : Nat) (x : Word) : (s.setReg a x).slews = s.slews := rfl
@[simp] theorem State.setReg_timeRef (s : State) (a : Nat) (x : Word) : (s.setReg a x).timeRef = s.timeRef := rfl
@[simp] theorem State.setReg_trace (s : State) (a : Nat) (x : Word) : (s.setReg a x).trace = s.trace := rfl
@[simp] theorem State.setReg_sinks (s : State) (a : Nat) (x : Word) : (s.setReg a x).sinks = s.sinks := rfl
@[simp] theorem State.setReg_counters (s : State) (a : Nat) (x : Word) : (s.setReg a x).counters = s.counters := rfl
@[simp] theorem State.setReg_progs (s : State) (a : Nat) (x : Word) : (s.setReg a x).progs = s.progs := rfl
@[simp] theorem State.setReg_hostOut (s : State) (a : Nat) (x : Word) : (s.setReg a x).hostOut = s.hostOut := rfl
@[simp] theorem State.setReg_mchecks (s : State) (a : Nat) (x : Word) : (s.setReg a x).mchecks = s.mchecks := rfl
@[simp] theorem State.setReg_dmaOn (s : State) (a : Nat) (x : Word) : (s.setReg a x).dmaOn = s.dmaOn := rfl
@[simp] theorem State.setReg_linkUp (s : State) (a : Nat) (x : Word) : (s.setReg a x).linkUp = s.linkUp := rfl
@[simp] theorem State.setReg_fab (s : State) (a : Nat) (x : Word) : (s.setReg a x).fab = s.fab := rfl
@[simp] theorem State.setReg_sn (s : State) (a : Nat) (x : Word) : (s.setReg a x).sn = s.sn := rfl
@[simp] theorem State.setReg_nextSerial (s : State) (a : Nat) (x : Word) : (s.setReg a x).nextSerial = s.nextSerial := rfl
@[simp] theorem State.setReg_cur (s : State) (a : Nat) (x : Word) : (s.setReg a x).cur = s.cur := rfl
@[simp] theorem State.setReg_agenda (s : State) (a : Nat) (x : Word) : (s.setReg a x).agenda = s.agenda := rfl
@[simp] theorem State.setReg_turn (s : State) (a : Nat) (x : Word) : (s.setReg a x).turn = s.turn := rfl
@[simp] theorem State.setReg_fresh (s : State) (a : Nat) (x : Word) : (s.setReg a x).fresh = s.fresh := rfl

/-! `updJob` changes jobs alone. -/

@[simp] theorem State.updJob_cores (s : State) (j : Nat) (f : Job → Job) : (s.updJob j f).cores = s.cores := rfl
@[simp] theorem State.updJob_mem (s : State) (j : Nat) (f : Job → Job) : (s.updJob j f).mem = s.mem := rfl
@[simp] theorem State.updJob_poison (s : State) (j : Nat) (f : Job → Job) : (s.updJob j f).poison = s.poison := rfl
@[simp] theorem State.updJob_lineKey (s : State) (j : Nat) (f : Job → Job) : (s.updJob j f).lineKey = s.lineKey := rfl
@[simp] theorem State.updJob_keys (s : State) (j : Nat) (f : Job → Job) : (s.updJob j f).keys = s.keys := rfl
@[simp] theorem State.updJob_tenants (s : State) (j : Nat) (f : Job → Job) : (s.updJob j f).tenants = s.tenants := rfl
@[simp] theorem State.updJob_rptQueue (s : State) (j : Nat) (f : Job → Job) : (s.updJob j f).rptQueue = s.rptQueue := rfl
@[simp] theorem State.updJob_nodecfg (s : State) (j : Nat) (f : Job → Job) : (s.updJob j f).nodecfg = s.nodecfg := rfl
@[simp] theorem State.updJob_domain (s : State) (j : Nat) (f : Job → Job) : (s.updJob j f).domain = s.domain := rfl
@[simp] theorem State.updJob_apt (s : State) (j : Nat) (f : Job → Job) : (s.updJob j f).apt = s.apt := rfl
@[simp] theorem State.updJob_feat (s : State) (j : Nat) (f : Job → Job) : (s.updJob j f).feat = s.feat := rfl
@[simp] theorem State.updJob_races (s : State) (j : Nat) (f : Job → Job) : (s.updJob j f).races = s.races := rfl
@[simp] theorem State.updJob_regs (s : State) (j : Nat) (f : Job → Job) : (s.updJob j f).regs = s.regs := rfl
@[simp] theorem State.updJob_supRoot (s : State) (j : Nat) (f : Job → Job) : (s.updJob j f).supRoot = s.supRoot := rfl
@[simp] theorem State.updJob_supProg (s : State) (j : Nat) (f : Job → Job) : (s.updJob j f).supProg = s.supProg := rfl
@[simp] theorem State.updJob_clusters (s : State) (j : Nat) (f : Job → Job) : (s.updJob j f).clusters = s.clusters := rfl
@[simp] theorem State.updJob_dies (s : State) (j : Nat) (f : Job → Job) : (s.updJob j f).dies = s.dies := rfl
@[simp] theorem State.updJob_time (s : State) (j : Nat) (f : Job → Job) : (s.updJob j f).time = s.time := rfl
@[simp] theorem State.updJob_slews (s : State) (j : Nat) (f : Job → Job) : (s.updJob j f).slews = s.slews := rfl
@[simp] theorem State.updJob_timeRef (s : State) (j : Nat) (f : Job → Job) : (s.updJob j f).timeRef = s.timeRef := rfl
@[simp] theorem State.updJob_trace (s : State) (j : Nat) (f : Job → Job) : (s.updJob j f).trace = s.trace := rfl
@[simp] theorem State.updJob_sinks (s : State) (j : Nat) (f : Job → Job) : (s.updJob j f).sinks = s.sinks := rfl
@[simp] theorem State.updJob_counters (s : State) (j : Nat) (f : Job → Job) : (s.updJob j f).counters = s.counters := rfl
@[simp] theorem State.updJob_progs (s : State) (j : Nat) (f : Job → Job) : (s.updJob j f).progs = s.progs := rfl
@[simp] theorem State.updJob_hostOut (s : State) (j : Nat) (f : Job → Job) : (s.updJob j f).hostOut = s.hostOut := rfl
@[simp] theorem State.updJob_mchecks (s : State) (j : Nat) (f : Job → Job) : (s.updJob j f).mchecks = s.mchecks := rfl
@[simp] theorem State.updJob_dmaOn (s : State) (j : Nat) (f : Job → Job) : (s.updJob j f).dmaOn = s.dmaOn := rfl
@[simp] theorem State.updJob_linkUp (s : State) (j : Nat) (f : Job → Job) : (s.updJob j f).linkUp = s.linkUp := rfl
@[simp] theorem State.updJob_fab (s : State) (j : Nat) (f : Job → Job) : (s.updJob j f).fab = s.fab := rfl
@[simp] theorem State.updJob_sn (s : State) (j : Nat) (f : Job → Job) : (s.updJob j f).sn = s.sn := rfl
@[simp] theorem State.updJob_nextSerial (s : State) (j : Nat) (f : Job → Job) : (s.updJob j f).nextSerial = s.nextSerial := rfl
@[simp] theorem State.updJob_cur (s : State) (j : Nat) (f : Job → Job) : (s.updJob j f).cur = s.cur := rfl
@[simp] theorem State.updJob_agenda (s : State) (j : Nat) (f : Job → Job) : (s.updJob j f).agenda = s.agenda := rfl
@[simp] theorem State.updJob_turn (s : State) (j : Nat) (f : Job → Job) : (s.updJob j f).turn = s.turn := rfl
@[simp] theorem State.updJob_fresh (s : State) (j : Nat) (f : Job → Job) : (s.updJob j f).fresh = s.fresh := rfl

/-! `updDie` changes dies alone. -/

@[simp] theorem State.updDie_cores (s : State) (d : Nat) (f : Die → Die) : (s.updDie d f).cores = s.cores := rfl
@[simp] theorem State.updDie_mem (s : State) (d : Nat) (f : Die → Die) : (s.updDie d f).mem = s.mem := rfl
@[simp] theorem State.updDie_poison (s : State) (d : Nat) (f : Die → Die) : (s.updDie d f).poison = s.poison := rfl
@[simp] theorem State.updDie_lineKey (s : State) (d : Nat) (f : Die → Die) : (s.updDie d f).lineKey = s.lineKey := rfl
@[simp] theorem State.updDie_keys (s : State) (d : Nat) (f : Die → Die) : (s.updDie d f).keys = s.keys := rfl
@[simp] theorem State.updDie_tenants (s : State) (d : Nat) (f : Die → Die) : (s.updDie d f).tenants = s.tenants := rfl
@[simp] theorem State.updDie_rptQueue (s : State) (d : Nat) (f : Die → Die) : (s.updDie d f).rptQueue = s.rptQueue := rfl
@[simp] theorem State.updDie_jobs (s : State) (d : Nat) (f : Die → Die) : (s.updDie d f).jobs = s.jobs := rfl
@[simp] theorem State.updDie_nodecfg (s : State) (d : Nat) (f : Die → Die) : (s.updDie d f).nodecfg = s.nodecfg := rfl
@[simp] theorem State.updDie_domain (s : State) (d : Nat) (f : Die → Die) : (s.updDie d f).domain = s.domain := rfl
@[simp] theorem State.updDie_apt (s : State) (d : Nat) (f : Die → Die) : (s.updDie d f).apt = s.apt := rfl
@[simp] theorem State.updDie_feat (s : State) (d : Nat) (f : Die → Die) : (s.updDie d f).feat = s.feat := rfl
@[simp] theorem State.updDie_races (s : State) (d : Nat) (f : Die → Die) : (s.updDie d f).races = s.races := rfl
@[simp] theorem State.updDie_regs (s : State) (d : Nat) (f : Die → Die) : (s.updDie d f).regs = s.regs := rfl
@[simp] theorem State.updDie_supRoot (s : State) (d : Nat) (f : Die → Die) : (s.updDie d f).supRoot = s.supRoot := rfl
@[simp] theorem State.updDie_supProg (s : State) (d : Nat) (f : Die → Die) : (s.updDie d f).supProg = s.supProg := rfl
@[simp] theorem State.updDie_clusters (s : State) (d : Nat) (f : Die → Die) : (s.updDie d f).clusters = s.clusters := rfl
@[simp] theorem State.updDie_time (s : State) (d : Nat) (f : Die → Die) : (s.updDie d f).time = s.time := rfl
@[simp] theorem State.updDie_slews (s : State) (d : Nat) (f : Die → Die) : (s.updDie d f).slews = s.slews := rfl
@[simp] theorem State.updDie_timeRef (s : State) (d : Nat) (f : Die → Die) : (s.updDie d f).timeRef = s.timeRef := rfl
@[simp] theorem State.updDie_trace (s : State) (d : Nat) (f : Die → Die) : (s.updDie d f).trace = s.trace := rfl
@[simp] theorem State.updDie_sinks (s : State) (d : Nat) (f : Die → Die) : (s.updDie d f).sinks = s.sinks := rfl
@[simp] theorem State.updDie_counters (s : State) (d : Nat) (f : Die → Die) : (s.updDie d f).counters = s.counters := rfl
@[simp] theorem State.updDie_progs (s : State) (d : Nat) (f : Die → Die) : (s.updDie d f).progs = s.progs := rfl
@[simp] theorem State.updDie_hostOut (s : State) (d : Nat) (f : Die → Die) : (s.updDie d f).hostOut = s.hostOut := rfl
@[simp] theorem State.updDie_mchecks (s : State) (d : Nat) (f : Die → Die) : (s.updDie d f).mchecks = s.mchecks := rfl
@[simp] theorem State.updDie_dmaOn (s : State) (d : Nat) (f : Die → Die) : (s.updDie d f).dmaOn = s.dmaOn := rfl
@[simp] theorem State.updDie_linkUp (s : State) (d : Nat) (f : Die → Die) : (s.updDie d f).linkUp = s.linkUp := rfl
@[simp] theorem State.updDie_fab (s : State) (d : Nat) (f : Die → Die) : (s.updDie d f).fab = s.fab := rfl
@[simp] theorem State.updDie_sn (s : State) (d : Nat) (f : Die → Die) : (s.updDie d f).sn = s.sn := rfl
@[simp] theorem State.updDie_nextSerial (s : State) (d : Nat) (f : Die → Die) : (s.updDie d f).nextSerial = s.nextSerial := rfl
@[simp] theorem State.updDie_cur (s : State) (d : Nat) (f : Die → Die) : (s.updDie d f).cur = s.cur := rfl
@[simp] theorem State.updDie_agenda (s : State) (d : Nat) (f : Die → Die) : (s.updDie d f).agenda = s.agenda := rfl
@[simp] theorem State.updDie_turn (s : State) (d : Nat) (f : Die → Die) : (s.updDie d f).turn = s.turn := rfl
@[simp] theorem State.updDie_fresh (s : State) (d : Nat) (f : Die → Die) : (s.updDie d f).fresh = s.fresh := rfl

/-! `updNode` changes dies alone. -/

@[simp] theorem State.updNode_cores (s : State) (d n : Nat) (f : Node → Node) : (s.updNode d n f).cores = s.cores := rfl
@[simp] theorem State.updNode_mem (s : State) (d n : Nat) (f : Node → Node) : (s.updNode d n f).mem = s.mem := rfl
@[simp] theorem State.updNode_poison (s : State) (d n : Nat) (f : Node → Node) : (s.updNode d n f).poison = s.poison := rfl
@[simp] theorem State.updNode_lineKey (s : State) (d n : Nat) (f : Node → Node) : (s.updNode d n f).lineKey = s.lineKey := rfl
@[simp] theorem State.updNode_keys (s : State) (d n : Nat) (f : Node → Node) : (s.updNode d n f).keys = s.keys := rfl
@[simp] theorem State.updNode_tenants (s : State) (d n : Nat) (f : Node → Node) : (s.updNode d n f).tenants = s.tenants := rfl
@[simp] theorem State.updNode_rptQueue (s : State) (d n : Nat) (f : Node → Node) : (s.updNode d n f).rptQueue = s.rptQueue := rfl
@[simp] theorem State.updNode_jobs (s : State) (d n : Nat) (f : Node → Node) : (s.updNode d n f).jobs = s.jobs := rfl
@[simp] theorem State.updNode_nodecfg (s : State) (d n : Nat) (f : Node → Node) : (s.updNode d n f).nodecfg = s.nodecfg := rfl
@[simp] theorem State.updNode_domain (s : State) (d n : Nat) (f : Node → Node) : (s.updNode d n f).domain = s.domain := rfl
@[simp] theorem State.updNode_apt (s : State) (d n : Nat) (f : Node → Node) : (s.updNode d n f).apt = s.apt := rfl
@[simp] theorem State.updNode_feat (s : State) (d n : Nat) (f : Node → Node) : (s.updNode d n f).feat = s.feat := rfl
@[simp] theorem State.updNode_races (s : State) (d n : Nat) (f : Node → Node) : (s.updNode d n f).races = s.races := rfl
@[simp] theorem State.updNode_regs (s : State) (d n : Nat) (f : Node → Node) : (s.updNode d n f).regs = s.regs := rfl
@[simp] theorem State.updNode_supRoot (s : State) (d n : Nat) (f : Node → Node) : (s.updNode d n f).supRoot = s.supRoot := rfl
@[simp] theorem State.updNode_supProg (s : State) (d n : Nat) (f : Node → Node) : (s.updNode d n f).supProg = s.supProg := rfl
@[simp] theorem State.updNode_clusters (s : State) (d n : Nat) (f : Node → Node) : (s.updNode d n f).clusters = s.clusters := rfl
@[simp] theorem State.updNode_time (s : State) (d n : Nat) (f : Node → Node) : (s.updNode d n f).time = s.time := rfl
@[simp] theorem State.updNode_slews (s : State) (d n : Nat) (f : Node → Node) : (s.updNode d n f).slews = s.slews := rfl
@[simp] theorem State.updNode_timeRef (s : State) (d n : Nat) (f : Node → Node) : (s.updNode d n f).timeRef = s.timeRef := rfl
@[simp] theorem State.updNode_trace (s : State) (d n : Nat) (f : Node → Node) : (s.updNode d n f).trace = s.trace := rfl
@[simp] theorem State.updNode_sinks (s : State) (d n : Nat) (f : Node → Node) : (s.updNode d n f).sinks = s.sinks := rfl
@[simp] theorem State.updNode_counters (s : State) (d n : Nat) (f : Node → Node) : (s.updNode d n f).counters = s.counters := rfl
@[simp] theorem State.updNode_progs (s : State) (d n : Nat) (f : Node → Node) : (s.updNode d n f).progs = s.progs := rfl
@[simp] theorem State.updNode_hostOut (s : State) (d n : Nat) (f : Node → Node) : (s.updNode d n f).hostOut = s.hostOut := rfl
@[simp] theorem State.updNode_mchecks (s : State) (d n : Nat) (f : Node → Node) : (s.updNode d n f).mchecks = s.mchecks := rfl
@[simp] theorem State.updNode_dmaOn (s : State) (d n : Nat) (f : Node → Node) : (s.updNode d n f).dmaOn = s.dmaOn := rfl
@[simp] theorem State.updNode_linkUp (s : State) (d n : Nat) (f : Node → Node) : (s.updNode d n f).linkUp = s.linkUp := rfl
@[simp] theorem State.updNode_fab (s : State) (d n : Nat) (f : Node → Node) : (s.updNode d n f).fab = s.fab := rfl
@[simp] theorem State.updNode_sn (s : State) (d n : Nat) (f : Node → Node) : (s.updNode d n f).sn = s.sn := rfl
@[simp] theorem State.updNode_nextSerial (s : State) (d n : Nat) (f : Node → Node) : (s.updNode d n f).nextSerial = s.nextSerial := rfl
@[simp] theorem State.updNode_cur (s : State) (d n : Nat) (f : Node → Node) : (s.updNode d n f).cur = s.cur := rfl
@[simp] theorem State.updNode_agenda (s : State) (d n : Nat) (f : Node → Node) : (s.updNode d n f).agenda = s.agenda := rfl
@[simp] theorem State.updNode_turn (s : State) (d n : Nat) (f : Node → Node) : (s.updNode d n f).turn = s.turn := rfl
@[simp] theorem State.updNode_fresh (s : State) (d n : Nat) (f : Node → Node) : (s.updNode d n f).fresh = s.fresh := rfl

/-! `updCluster` changes clusters alone. -/

@[simp] theorem State.updCluster_cores (s : State) (k : Nat) (f : Cluster → Cluster) : (s.updCluster k f).cores = s.cores := rfl
@[simp] theorem State.updCluster_mem (s : State) (k : Nat) (f : Cluster → Cluster) : (s.updCluster k f).mem = s.mem := rfl
@[simp] theorem State.updCluster_poison (s : State) (k : Nat) (f : Cluster → Cluster) : (s.updCluster k f).poison = s.poison := rfl
@[simp] theorem State.updCluster_lineKey (s : State) (k : Nat) (f : Cluster → Cluster) : (s.updCluster k f).lineKey = s.lineKey := rfl
@[simp] theorem State.updCluster_keys (s : State) (k : Nat) (f : Cluster → Cluster) : (s.updCluster k f).keys = s.keys := rfl
@[simp] theorem State.updCluster_tenants (s : State) (k : Nat) (f : Cluster → Cluster) : (s.updCluster k f).tenants = s.tenants := rfl
@[simp] theorem State.updCluster_rptQueue (s : State) (k : Nat) (f : Cluster → Cluster) : (s.updCluster k f).rptQueue = s.rptQueue := rfl
@[simp] theorem State.updCluster_jobs (s : State) (k : Nat) (f : Cluster → Cluster) : (s.updCluster k f).jobs = s.jobs := rfl
@[simp] theorem State.updCluster_nodecfg (s : State) (k : Nat) (f : Cluster → Cluster) : (s.updCluster k f).nodecfg = s.nodecfg := rfl
@[simp] theorem State.updCluster_domain (s : State) (k : Nat) (f : Cluster → Cluster) : (s.updCluster k f).domain = s.domain := rfl
@[simp] theorem State.updCluster_apt (s : State) (k : Nat) (f : Cluster → Cluster) : (s.updCluster k f).apt = s.apt := rfl
@[simp] theorem State.updCluster_feat (s : State) (k : Nat) (f : Cluster → Cluster) : (s.updCluster k f).feat = s.feat := rfl
@[simp] theorem State.updCluster_races (s : State) (k : Nat) (f : Cluster → Cluster) : (s.updCluster k f).races = s.races := rfl
@[simp] theorem State.updCluster_regs (s : State) (k : Nat) (f : Cluster → Cluster) : (s.updCluster k f).regs = s.regs := rfl
@[simp] theorem State.updCluster_supRoot (s : State) (k : Nat) (f : Cluster → Cluster) : (s.updCluster k f).supRoot = s.supRoot := rfl
@[simp] theorem State.updCluster_supProg (s : State) (k : Nat) (f : Cluster → Cluster) : (s.updCluster k f).supProg = s.supProg := rfl
@[simp] theorem State.updCluster_dies (s : State) (k : Nat) (f : Cluster → Cluster) : (s.updCluster k f).dies = s.dies := rfl
@[simp] theorem State.updCluster_time (s : State) (k : Nat) (f : Cluster → Cluster) : (s.updCluster k f).time = s.time := rfl
@[simp] theorem State.updCluster_slews (s : State) (k : Nat) (f : Cluster → Cluster) : (s.updCluster k f).slews = s.slews := rfl
@[simp] theorem State.updCluster_timeRef (s : State) (k : Nat) (f : Cluster → Cluster) : (s.updCluster k f).timeRef = s.timeRef := rfl
@[simp] theorem State.updCluster_trace (s : State) (k : Nat) (f : Cluster → Cluster) : (s.updCluster k f).trace = s.trace := rfl
@[simp] theorem State.updCluster_sinks (s : State) (k : Nat) (f : Cluster → Cluster) : (s.updCluster k f).sinks = s.sinks := rfl
@[simp] theorem State.updCluster_counters (s : State) (k : Nat) (f : Cluster → Cluster) : (s.updCluster k f).counters = s.counters := rfl
@[simp] theorem State.updCluster_progs (s : State) (k : Nat) (f : Cluster → Cluster) : (s.updCluster k f).progs = s.progs := rfl
@[simp] theorem State.updCluster_hostOut (s : State) (k : Nat) (f : Cluster → Cluster) : (s.updCluster k f).hostOut = s.hostOut := rfl
@[simp] theorem State.updCluster_mchecks (s : State) (k : Nat) (f : Cluster → Cluster) : (s.updCluster k f).mchecks = s.mchecks := rfl
@[simp] theorem State.updCluster_dmaOn (s : State) (k : Nat) (f : Cluster → Cluster) : (s.updCluster k f).dmaOn = s.dmaOn := rfl
@[simp] theorem State.updCluster_linkUp (s : State) (k : Nat) (f : Cluster → Cluster) : (s.updCluster k f).linkUp = s.linkUp := rfl
@[simp] theorem State.updCluster_fab (s : State) (k : Nat) (f : Cluster → Cluster) : (s.updCluster k f).fab = s.fab := rfl
@[simp] theorem State.updCluster_sn (s : State) (k : Nat) (f : Cluster → Cluster) : (s.updCluster k f).sn = s.sn := rfl
@[simp] theorem State.updCluster_nextSerial (s : State) (k : Nat) (f : Cluster → Cluster) : (s.updCluster k f).nextSerial = s.nextSerial := rfl
@[simp] theorem State.updCluster_cur (s : State) (k : Nat) (f : Cluster → Cluster) : (s.updCluster k f).cur = s.cur := rfl
@[simp] theorem State.updCluster_agenda (s : State) (k : Nat) (f : Cluster → Cluster) : (s.updCluster k f).agenda = s.agenda := rfl
@[simp] theorem State.updCluster_turn (s : State) (k : Nat) (f : Cluster → Cluster) : (s.updCluster k f).turn = s.turn := rfl
@[simp] theorem State.updCluster_fresh (s : State) (k : Nat) (f : Cluster → Cluster) : (s.updCluster k f).fresh = s.fresh := rfl

/-! `updFab` changes fab alone. -/

@[simp] theorem State.updFab_cores (s : State) (f : Fabric → Fabric) : (s.updFab f).cores = s.cores := rfl
@[simp] theorem State.updFab_mem (s : State) (f : Fabric → Fabric) : (s.updFab f).mem = s.mem := rfl
@[simp] theorem State.updFab_poison (s : State) (f : Fabric → Fabric) : (s.updFab f).poison = s.poison := rfl
@[simp] theorem State.updFab_lineKey (s : State) (f : Fabric → Fabric) : (s.updFab f).lineKey = s.lineKey := rfl
@[simp] theorem State.updFab_keys (s : State) (f : Fabric → Fabric) : (s.updFab f).keys = s.keys := rfl
@[simp] theorem State.updFab_tenants (s : State) (f : Fabric → Fabric) : (s.updFab f).tenants = s.tenants := rfl
@[simp] theorem State.updFab_rptQueue (s : State) (f : Fabric → Fabric) : (s.updFab f).rptQueue = s.rptQueue := rfl
@[simp] theorem State.updFab_jobs (s : State) (f : Fabric → Fabric) : (s.updFab f).jobs = s.jobs := rfl
@[simp] theorem State.updFab_nodecfg (s : State) (f : Fabric → Fabric) : (s.updFab f).nodecfg = s.nodecfg := rfl
@[simp] theorem State.updFab_domain (s : State) (f : Fabric → Fabric) : (s.updFab f).domain = s.domain := rfl
@[simp] theorem State.updFab_apt (s : State) (f : Fabric → Fabric) : (s.updFab f).apt = s.apt := rfl
@[simp] theorem State.updFab_feat (s : State) (f : Fabric → Fabric) : (s.updFab f).feat = s.feat := rfl
@[simp] theorem State.updFab_races (s : State) (f : Fabric → Fabric) : (s.updFab f).races = s.races := rfl
@[simp] theorem State.updFab_regs (s : State) (f : Fabric → Fabric) : (s.updFab f).regs = s.regs := rfl
@[simp] theorem State.updFab_supRoot (s : State) (f : Fabric → Fabric) : (s.updFab f).supRoot = s.supRoot := rfl
@[simp] theorem State.updFab_supProg (s : State) (f : Fabric → Fabric) : (s.updFab f).supProg = s.supProg := rfl
@[simp] theorem State.updFab_clusters (s : State) (f : Fabric → Fabric) : (s.updFab f).clusters = s.clusters := rfl
@[simp] theorem State.updFab_dies (s : State) (f : Fabric → Fabric) : (s.updFab f).dies = s.dies := rfl
@[simp] theorem State.updFab_time (s : State) (f : Fabric → Fabric) : (s.updFab f).time = s.time := rfl
@[simp] theorem State.updFab_slews (s : State) (f : Fabric → Fabric) : (s.updFab f).slews = s.slews := rfl
@[simp] theorem State.updFab_timeRef (s : State) (f : Fabric → Fabric) : (s.updFab f).timeRef = s.timeRef := rfl
@[simp] theorem State.updFab_trace (s : State) (f : Fabric → Fabric) : (s.updFab f).trace = s.trace := rfl
@[simp] theorem State.updFab_sinks (s : State) (f : Fabric → Fabric) : (s.updFab f).sinks = s.sinks := rfl
@[simp] theorem State.updFab_counters (s : State) (f : Fabric → Fabric) : (s.updFab f).counters = s.counters := rfl
@[simp] theorem State.updFab_progs (s : State) (f : Fabric → Fabric) : (s.updFab f).progs = s.progs := rfl
@[simp] theorem State.updFab_hostOut (s : State) (f : Fabric → Fabric) : (s.updFab f).hostOut = s.hostOut := rfl
@[simp] theorem State.updFab_mchecks (s : State) (f : Fabric → Fabric) : (s.updFab f).mchecks = s.mchecks := rfl
@[simp] theorem State.updFab_dmaOn (s : State) (f : Fabric → Fabric) : (s.updFab f).dmaOn = s.dmaOn := rfl
@[simp] theorem State.updFab_linkUp (s : State) (f : Fabric → Fabric) : (s.updFab f).linkUp = s.linkUp := rfl
@[simp] theorem State.updFab_sn (s : State) (f : Fabric → Fabric) : (s.updFab f).sn = s.sn := rfl
@[simp] theorem State.updFab_nextSerial (s : State) (f : Fabric → Fabric) : (s.updFab f).nextSerial = s.nextSerial := rfl
@[simp] theorem State.updFab_cur (s : State) (f : Fabric → Fabric) : (s.updFab f).cur = s.cur := rfl
@[simp] theorem State.updFab_agenda (s : State) (f : Fabric → Fabric) : (s.updFab f).agenda = s.agenda := rfl
@[simp] theorem State.updFab_turn (s : State) (f : Fabric → Fabric) : (s.updFab f).turn = s.turn := rfl
@[simp] theorem State.updFab_fresh (s : State) (f : Fabric → Fabric) : (s.updFab f).fresh = s.fresh := rfl

/-! `setSource` changes trace alone. -/

@[simp] theorem State.setSource_cores (s : State) (src : Nat) (r : TraceSrc) : (s.setSource src r).cores = s.cores := rfl
@[simp] theorem State.setSource_mem (s : State) (src : Nat) (r : TraceSrc) : (s.setSource src r).mem = s.mem := rfl
@[simp] theorem State.setSource_poison (s : State) (src : Nat) (r : TraceSrc) : (s.setSource src r).poison = s.poison := rfl
@[simp] theorem State.setSource_lineKey (s : State) (src : Nat) (r : TraceSrc) : (s.setSource src r).lineKey = s.lineKey := rfl
@[simp] theorem State.setSource_keys (s : State) (src : Nat) (r : TraceSrc) : (s.setSource src r).keys = s.keys := rfl
@[simp] theorem State.setSource_tenants (s : State) (src : Nat) (r : TraceSrc) : (s.setSource src r).tenants = s.tenants := rfl
@[simp] theorem State.setSource_rptQueue (s : State) (src : Nat) (r : TraceSrc) : (s.setSource src r).rptQueue = s.rptQueue := rfl
@[simp] theorem State.setSource_jobs (s : State) (src : Nat) (r : TraceSrc) : (s.setSource src r).jobs = s.jobs := rfl
@[simp] theorem State.setSource_nodecfg (s : State) (src : Nat) (r : TraceSrc) : (s.setSource src r).nodecfg = s.nodecfg := rfl
@[simp] theorem State.setSource_domain (s : State) (src : Nat) (r : TraceSrc) : (s.setSource src r).domain = s.domain := rfl
@[simp] theorem State.setSource_apt (s : State) (src : Nat) (r : TraceSrc) : (s.setSource src r).apt = s.apt := rfl
@[simp] theorem State.setSource_feat (s : State) (src : Nat) (r : TraceSrc) : (s.setSource src r).feat = s.feat := rfl
@[simp] theorem State.setSource_races (s : State) (src : Nat) (r : TraceSrc) : (s.setSource src r).races = s.races := rfl
@[simp] theorem State.setSource_regs (s : State) (src : Nat) (r : TraceSrc) : (s.setSource src r).regs = s.regs := rfl
@[simp] theorem State.setSource_supRoot (s : State) (src : Nat) (r : TraceSrc) : (s.setSource src r).supRoot = s.supRoot := rfl
@[simp] theorem State.setSource_supProg (s : State) (src : Nat) (r : TraceSrc) : (s.setSource src r).supProg = s.supProg := rfl
@[simp] theorem State.setSource_clusters (s : State) (src : Nat) (r : TraceSrc) : (s.setSource src r).clusters = s.clusters := rfl
@[simp] theorem State.setSource_dies (s : State) (src : Nat) (r : TraceSrc) : (s.setSource src r).dies = s.dies := rfl
@[simp] theorem State.setSource_time (s : State) (src : Nat) (r : TraceSrc) : (s.setSource src r).time = s.time := rfl
@[simp] theorem State.setSource_slews (s : State) (src : Nat) (r : TraceSrc) : (s.setSource src r).slews = s.slews := rfl
@[simp] theorem State.setSource_timeRef (s : State) (src : Nat) (r : TraceSrc) : (s.setSource src r).timeRef = s.timeRef := rfl
@[simp] theorem State.setSource_sinks (s : State) (src : Nat) (r : TraceSrc) : (s.setSource src r).sinks = s.sinks := rfl
@[simp] theorem State.setSource_counters (s : State) (src : Nat) (r : TraceSrc) : (s.setSource src r).counters = s.counters := rfl
@[simp] theorem State.setSource_progs (s : State) (src : Nat) (r : TraceSrc) : (s.setSource src r).progs = s.progs := rfl
@[simp] theorem State.setSource_hostOut (s : State) (src : Nat) (r : TraceSrc) : (s.setSource src r).hostOut = s.hostOut := rfl
@[simp] theorem State.setSource_mchecks (s : State) (src : Nat) (r : TraceSrc) : (s.setSource src r).mchecks = s.mchecks := rfl
@[simp] theorem State.setSource_dmaOn (s : State) (src : Nat) (r : TraceSrc) : (s.setSource src r).dmaOn = s.dmaOn := rfl
@[simp] theorem State.setSource_linkUp (s : State) (src : Nat) (r : TraceSrc) : (s.setSource src r).linkUp = s.linkUp := rfl
@[simp] theorem State.setSource_fab (s : State) (src : Nat) (r : TraceSrc) : (s.setSource src r).fab = s.fab := rfl
@[simp] theorem State.setSource_sn (s : State) (src : Nat) (r : TraceSrc) : (s.setSource src r).sn = s.sn := rfl
@[simp] theorem State.setSource_nextSerial (s : State) (src : Nat) (r : TraceSrc) : (s.setSource src r).nextSerial = s.nextSerial := rfl
@[simp] theorem State.setSource_cur (s : State) (src : Nat) (r : TraceSrc) : (s.setSource src r).cur = s.cur := rfl
@[simp] theorem State.setSource_agenda (s : State) (src : Nat) (r : TraceSrc) : (s.setSource src r).agenda = s.agenda := rfl
@[simp] theorem State.setSource_turn (s : State) (src : Nat) (r : TraceSrc) : (s.setSource src r).turn = s.turn := rfl
@[simp] theorem State.setSource_fresh (s : State) (src : Nat) (r : TraceSrc) : (s.setSource src r).fresh = s.fresh := rfl

/-! `count` changes counters alone. -/

@[simp] theorem State.count_cores (s : State) (t d m n : Nat) : (s.count t d m n).cores = s.cores := rfl
@[simp] theorem State.count_mem (s : State) (t d m n : Nat) : (s.count t d m n).mem = s.mem := rfl
@[simp] theorem State.count_poison (s : State) (t d m n : Nat) : (s.count t d m n).poison = s.poison := rfl
@[simp] theorem State.count_lineKey (s : State) (t d m n : Nat) : (s.count t d m n).lineKey = s.lineKey := rfl
@[simp] theorem State.count_keys (s : State) (t d m n : Nat) : (s.count t d m n).keys = s.keys := rfl
@[simp] theorem State.count_tenants (s : State) (t d m n : Nat) : (s.count t d m n).tenants = s.tenants := rfl
@[simp] theorem State.count_rptQueue (s : State) (t d m n : Nat) : (s.count t d m n).rptQueue = s.rptQueue := rfl
@[simp] theorem State.count_jobs (s : State) (t d m n : Nat) : (s.count t d m n).jobs = s.jobs := rfl
@[simp] theorem State.count_nodecfg (s : State) (t d m n : Nat) : (s.count t d m n).nodecfg = s.nodecfg := rfl
@[simp] theorem State.count_domain (s : State) (t d m n : Nat) : (s.count t d m n).domain = s.domain := rfl
@[simp] theorem State.count_apt (s : State) (t d m n : Nat) : (s.count t d m n).apt = s.apt := rfl
@[simp] theorem State.count_feat (s : State) (t d m n : Nat) : (s.count t d m n).feat = s.feat := rfl
@[simp] theorem State.count_races (s : State) (t d m n : Nat) : (s.count t d m n).races = s.races := rfl
@[simp] theorem State.count_regs (s : State) (t d m n : Nat) : (s.count t d m n).regs = s.regs := rfl
@[simp] theorem State.count_supRoot (s : State) (t d m n : Nat) : (s.count t d m n).supRoot = s.supRoot := rfl
@[simp] theorem State.count_supProg (s : State) (t d m n : Nat) : (s.count t d m n).supProg = s.supProg := rfl
@[simp] theorem State.count_clusters (s : State) (t d m n : Nat) : (s.count t d m n).clusters = s.clusters := rfl
@[simp] theorem State.count_dies (s : State) (t d m n : Nat) : (s.count t d m n).dies = s.dies := rfl
@[simp] theorem State.count_time (s : State) (t d m n : Nat) : (s.count t d m n).time = s.time := rfl
@[simp] theorem State.count_slews (s : State) (t d m n : Nat) : (s.count t d m n).slews = s.slews := rfl
@[simp] theorem State.count_timeRef (s : State) (t d m n : Nat) : (s.count t d m n).timeRef = s.timeRef := rfl
@[simp] theorem State.count_trace (s : State) (t d m n : Nat) : (s.count t d m n).trace = s.trace := rfl
@[simp] theorem State.count_sinks (s : State) (t d m n : Nat) : (s.count t d m n).sinks = s.sinks := rfl
@[simp] theorem State.count_progs (s : State) (t d m n : Nat) : (s.count t d m n).progs = s.progs := rfl
@[simp] theorem State.count_hostOut (s : State) (t d m n : Nat) : (s.count t d m n).hostOut = s.hostOut := rfl
@[simp] theorem State.count_mchecks (s : State) (t d m n : Nat) : (s.count t d m n).mchecks = s.mchecks := rfl
@[simp] theorem State.count_dmaOn (s : State) (t d m n : Nat) : (s.count t d m n).dmaOn = s.dmaOn := rfl
@[simp] theorem State.count_linkUp (s : State) (t d m n : Nat) : (s.count t d m n).linkUp = s.linkUp := rfl
@[simp] theorem State.count_fab (s : State) (t d m n : Nat) : (s.count t d m n).fab = s.fab := rfl
@[simp] theorem State.count_sn (s : State) (t d m n : Nat) : (s.count t d m n).sn = s.sn := rfl
@[simp] theorem State.count_nextSerial (s : State) (t d m n : Nat) : (s.count t d m n).nextSerial = s.nextSerial := rfl
@[simp] theorem State.count_cur (s : State) (t d m n : Nat) : (s.count t d m n).cur = s.cur := rfl
@[simp] theorem State.count_agenda (s : State) (t d m n : Nat) : (s.count t d m n).agenda = s.agenda := rfl
@[simp] theorem State.count_turn (s : State) (t d m n : Nat) : (s.count t d m n).turn = s.turn := rfl
@[simp] theorem State.count_fresh (s : State) (t d m n : Nat) : (s.count t d m n).fresh = s.fresh := rfl

/-! What is read back. -/

@[simp] theorem State.coreAt_setCore_same (s : State) (i : Nat) (c : Core) : (s.setCore i c).coreAt i = c := by
  simp [State.coreAt, State.setCore]
theorem State.coreAt_setCore_ne (s : State) {i j : Nat} (c : Core) (h : j ≠ i) : (s.setCore i c).coreAt j = s.coreAt j := by
  simp [State.coreAt, State.setCore, tget_tset_ne _ _ _ h]
@[simp] theorem Core.ctxAt_setCtx_same (c : Core) (k : Nat) (x : Ctx) : (c.setCtx k x).ctxAt k = x := by
  simp [Core.ctxAt, Core.setCtx]
theorem Core.ctxAt_setCtx_ne (c : Core) {j k : Nat} (x : Ctx) (h : j ≠ k) : (c.setCtx k x).ctxAt j = c.ctxAt j := by
  simp [Core.ctxAt, Core.setCtx, tget_tset_ne _ _ _ h]
@[simp] theorem State.ctxAt_setCtxAt_same (s : State) (i k : Nat) (x : Ctx) : (s.setCtxAt i k x).ctxAt i k = x := by
  simp [State.ctxAt, State.setCtxAt]
theorem State.ctxAt_setCtxAt_ne (s : State) {i k j l : Nat} (x : Ctx) (h : j ≠ i ∨ l ≠ k) :
    (s.setCtxAt i k x).ctxAt j l = s.ctxAt j l := by
  by_cases hj : j = i
  · subst hj
    have hl : l ≠ k := by cases h with | inl h => exact absurd rfl h | inr h => exact h
    simp [State.ctxAt, State.setCtxAt, Core.ctxAt_setCtx_ne _ _ hl]
  · simp [State.ctxAt, State.setCtxAt, State.coreAt_setCore_ne _ _ hj]
@[simp] theorem State.ctxAt_updCtxAt_same (s : State) (i k : Nat) (f : Ctx → Ctx) :
    (s.updCtxAt i k f).ctxAt i k = f (s.ctxAt i k) := by simp [State.updCtxAt]
theorem State.ctxAt_updCtxAt_ne (s : State) {i k j l : Nat} (f : Ctx → Ctx) (h : j ≠ i ∨ l ≠ k) :
    (s.updCtxAt i k f).ctxAt j l = s.ctxAt j l := State.ctxAt_setCtxAt_ne s _ h
@[simp] theorem State.ctx_setCtx (s : State) (x : Ctx) : (s.setCtx x).ctx = x :=
  State.ctxAt_setCtxAt_same s s.cur.core s.cur.ctx x
@[simp] theorem State.ctx_updCtx (s : State) (f : Ctx → Ctx) : (s.updCtx f).ctx = f s.ctx := State.ctx_setCtx s (f s.ctx)
theorem State.ctxAt_setCtx_ne (s : State) {j l : Nat} (x : Ctx) (h : j ≠ s.cur.core ∨ l ≠ s.cur.ctx) :
    (s.setCtx x).ctxAt j l = s.ctxAt j l := State.ctxAt_setCtxAt_ne s x h
@[simp] theorem State.dieAt_updDie_same (s : State) (d : Nat) (f : Die → Die) : (s.updDie d f).dieAt d = f (s.dieAt d) := by
  simp [State.dieAt, State.updDie]
theorem State.dieAt_updDie_ne (s : State) {d e : Nat} (f : Die → Die) (h : e ≠ d) : (s.updDie d f).dieAt e = s.dieAt e := by
  simp [State.dieAt, State.updDie, tget_tset_ne _ _ _ h]
@[simp] theorem State.clusterAt_updCluster_same (s : State) (k : Nat) (f : Cluster → Cluster) :
    (s.updCluster k f).clusterAt k = f (s.clusterAt k) := by simp [State.clusterAt, State.updCluster]
theorem State.clusterAt_updCluster_ne (s : State) {k j : Nat} (f : Cluster → Cluster) (h : j ≠ k) :
    (s.updCluster k f).clusterAt j = s.clusterAt j := by simp [State.clusterAt, State.updCluster, tget_tset_ne _ _ _ h]
@[simp] theorem State.job_updJob_same (s : State) (j : Nat) (f : Job → Job) : (s.updJob j f).job j = f (s.job j) := by
  simp [State.job, State.updJob]
theorem State.job_updJob_ne (s : State) {j i : Nat} (f : Job → Job) (h : i ≠ j) : (s.updJob j f).job i = s.job i := by
  simp [State.job, State.updJob, tget_tset_ne _ _ _ h]
@[simp] theorem State.node_updNode_same (s : State) (d n : Nat) (f : Node → Node) :
    (s.updNode d n f).node d n = f (s.node d n) := by simp [State.node, State.updNode]
theorem State.node_updNode_ne (s : State) {d n e m : Nat} (f : Node → Node) (h : e ≠ d ∨ m ≠ n) :
    (s.updNode d n f).node e m = s.node e m := by
  by_cases he : e = d
  · subst he
    have hm : m ≠ n := by cases h with | inl h => exact absurd rfl h | inr h => exact h
    simp [State.node, State.updNode, tget_tset_ne _ _ _ hm]
  · simp [State.node, State.updNode, State.dieAt_updDie_ne _ _ he]

end Sys2Proof.Machine
end

