-- ==== Sys2Proof/Laws/Ops.lean ====
section
/-! SUPPORT. Laws of the shared operations: what reading sources, placing a result, taking a trap and writing a record can do. -/

namespace Sys2Proof.Machine

/-! Sources. -/

theorem Ctx.srcTrap_holds (c : Ctx) (cur : Cur) (part : Nat) (k : SKind) (x : Sel) (h : c.Holds cur k x) :
    c.srcTrap cur part k x = none := by
  cases x with
  | reg n => simp only [Ctx.Holds] at h; simp [Ctx.srcTrap, h]
  | latch slot depth =>
    simp only [Ctx.Holds] at h
    simp only [Ctx.srcTrap]
    rcases h with h | h
    · simp [h]
    · cases hl : c.latchAt slot.val depth.toNat with
      | none => simp [hl] at h
      | some v => simp
  | queue q =>
    simp only [Ctx.Holds] at h
    simp only [Ctx.srcTrap]
    split
    · next e he =>
      split
      · next t ht => exact absurd ht (h e he t)
      · rfl
    · rfl
  | const k => rfl

theorem Ctx.srcTraps_holds (c : Ctx) (cur : Cur) (part : Nat) (l : List (SKind × Sel)) (h : ∀ x ∈ l, c.Holds cur x.1 x.2) :
    c.srcTraps cur part l = none := by
  unfold Ctx.srcTraps
  induction l with
  | nil => rfl
  | cons x t ih =>
    rw [List.foldl_cons, Ctx.srcTrap_holds c cur part x.1 x.2 (h x (List.mem_cons_self ..))]
    exact ih fun y hy => h y (List.mem_cons_of_mem _ hy)

/-- Sources that can all be read hold no poison to note. -/
theorem State.notePoison_holds (s : State) (l : List (SKind × Sel)) (h : ∀ x ∈ l, s.Holds x.1 x.2) : s.notePoison l = s := by
  have e : s.ctx.lowestPoison s.cur l = none := by
    unfold Ctx.lowestPoison
    induction l with
    | nil => rfl
    | cons x t ih =>
      rw [List.foldl_cons, Ctx.srcTrap_holds s.ctx s.cur 0 x.1 x.2 (h x (List.mem_cons_self ..))]
      exact ih fun y hy => h y (List.mem_cons_of_mem _ hy)
  unfold State.notePoison
  rw [e]

/-- Sources that can all be read leave an operation to its own value check. -/
theorem State.sources_holds (s : State) (part : Nat) (l : List (SKind × Sel)) (own : Option Trap) (k : Ctx → State)
    (h : ∀ x ∈ l, s.Holds x.1 x.2) :
    s.sources part l own k = match own with | some t => .next (s.takeTrap t 0) | none => .next (k s.ctx) := by
  unfold State.sources
  dsimp only
  rw [Ctx.srcTraps_holds s.ctx s.cur part l h, s.notePoison_holds l h]
  cases own <;> simp [partTrap]

/-- All that reading sources can do: the operation goes on, or it stops with a trap, the poison that it leaves unreported noted. -/
theorem State.sources_cases (s : State) (part : Nat) (l : List (SKind × Sel)) (own : Option Trap) (k : Ctx → State) :
    s.sources part l own k = .next (k s.ctx) ∨
      ∃ t, s.sources part l own k = .next ((if t.cause = 0x0C then s else s.notePoison l).takeTrap t 0) := by
  unfold State.sources
  dsimp only
  split
  · next t _ => exact .inr ⟨t, rfl⟩
  · exact .inl rfl

theorem State.sources_one (s : State) (part : Nat) (ka : SKind) (xa : Sel) (ha : s.Holds ka xa) (k : Ctx → State) :
    s.sources part [(ka, xa)] none k = .next (k s.ctx) := by
  rw [State.sources_holds]
  intro x hx
  simp only [List.mem_singleton] at hx
  subst hx
  exact ha

theorem State.sources_two (s : State) (part : Nat) (ka kb : SKind) (xa xb : Sel) (ha : s.Holds ka xa) (hb : s.Holds kb xb)
    (k : Ctx → State) : s.sources part [(ka, xa), (kb, xb)] none k = .next (k s.ctx) := by
  rw [State.sources_holds]
  intro x hx
  simp only [List.mem_cons, List.not_mem_nil, or_false] at hx
  rcases hx with rfl | rfl <;> assumption

theorem State.sources_three (s : State) (part : Nat) (ka kb kc : SKind) (xa xb xc : Sel) (ha : s.Holds ka xa)
    (hb : s.Holds kb xb) (hc : s.Holds kc xc) (k : Ctx → State) :
    s.sources part [(ka, xa), (kb, xb), (kc, xc)] none k = .next (k s.ctx) := by
  rw [State.sources_holds]
  intro x hx
  simp only [List.mem_cons, List.not_mem_nil, or_false] at hx
  rcases hx with rfl | rfl | rfl <;> assumption

theorem State.sources_zero (s : State) (part : Nat) (k : Ctx → State) : s.sources part [] none k = .next (k s.ctx) := by
  rw [State.sources_holds]
  intro x hx
  exact absurd hx (List.not_mem_nil)

/-! Results. -/

/-- A result with a latch entry is always put in flight. -/
theorem posts_post (s : State) (part lat : Nat) (ws : List Write) (l : LatchVal) (fl : Flags) :
    Posts s (s.post (part - 1) lat ws (some l) fl false) part lat ws (some l) fl := by
  unfold Posts State.post
  simp only [List.isEmpty_cons, Option.isNone_some, Bool.and_false, Bool.false_and, Bool.false_eq_true, if_false]
  rfl

/-- So is one with a write. -/
theorem posts_post_write (s : State) (part lat : Nat) (w : Write) (ws : List Write) (l : Option LatchVal) (fl : Flags) :
    Posts s (s.post (part - 1) lat (w :: ws) l fl false) part lat (w :: ws) l fl := by
  unfold Posts State.post
  simp only [List.isEmpty_cons, Option.isNone_some, Bool.and_false, Bool.false_and, Bool.false_eq_true, if_false]
  rfl

theorem scalarOut_putS (s : State) (part lat : Nat) (hp : part ≤ 3) (g nw : Bool) (dst : BitVec 8) (x : Word) (fl : Flags) :
    ScalarOut s (s.putS part lat g nw dst.toNat x fl) part lat g nw dst x fl := by
  unfold ScalarOut State.putS
  have e : (if (g && !nw && dst.toNat != 0) = true then [Write.s dst.toNat x] else []) =
      if g = true ∧ nw = false ∧ dst ≠ 0 then [.s dst.toNat x] else [] := by
    have : (dst.toNat != 0) = decide (dst ≠ 0) := by
      rw [Bool.eq_iff_iff]
      simp [BitVec.toNat_eq]
    rw [this]
    cases g <;> cases nw <;> simp
  rw [e, if_pos hp]
  exact posts_post s part lat _ _ _

theorem vectorOut_putV (s : State) (part lat : Nat) (hp : part ≤ 3) (m : Word) (nw : Bool) (dst : BitVec 8) (x : Vec) (fl : Flags) :
    VectorOut s (s.putV part lat m nw dst.toNat x fl) part lat m nw dst x fl := by
  unfold VectorOut State.putV
  rw [if_pos hp]
  exact posts_post s part lat _ _ _

theorem predicateOut_putP (s : State) (g nw : Bool) (dst : BitVec 8) (x : Word) :
    PredicateOut s (if g = true then s.putP partS 1 allOnes nw dst.toNat x else s) g nw dst x := by
  unfold PredicateOut State.putP
  have e : (dst.toNat == 0) = decide (dst = 0) := by
    rw [Bool.eq_iff_iff]
    simp [BitVec.toNat_eq]
  rw [e]
  cases g with
  | false => rw [if_neg (by simp), if_neg (by simp)]
  | true =>
    cases nw with
    | true => rw [if_neg (by simp)]; simp [State.post]
    | false =>
      by_cases hd : dst = 0
      · rw [if_neg (by simp [hd])]; simp [hd, State.post]
      · rw [if_pos ⟨rfl, rfl, hd⟩, if_pos rfl, decide_eq_false hd]
        exact posts_post_write s partS 1 _ _ _ _


/-- All that placing a result can do: the context in focus has one result more in flight. -/
theorem State.post_cases (s : State) (slot lat : Nat) (ws : List Write) (l : Option LatchVal) (fl : Flags) (bad : Bool) :
    s.post slot lat ws l fl bad = s ∨
    s.post slot lat ws l fl bad =
      s.setCtx { s.ctx with pend := pendIns ⟨s.ctx.count + lat, slot, ws, l, fl, s.cur.addr, bad⟩ s.ctx.pend } := by
  unfold State.post
  split
  · exact .inl rfl
  · exact .inr rfl

@[simp] theorem State.post_mem (s : State) (slot lat : Nat) (ws : List Write) (l : Option LatchVal) (fl : Flags) (bad : Bool) :
    (s.post slot lat ws l fl bad).mem = s.mem := by
  rcases s.post_cases slot lat ws l fl bad with h | h <;> rw [h] <;> rfl
@[simp] theorem State.post_cur (s : State) (slot lat : Nat) (ws : List Write) (l : Option LatchVal) (fl : Flags) (bad : Bool) :
    (s.post slot lat ws l fl bad).cur = s.cur := by
  rcases s.post_cases slot lat ws l fl bad with h | h <;> rw [h] <;> rfl
@[simp] theorem State.putS_mem (s : State) (part lat : Nat) (g nw : Bool) (dst : Nat) (x : Word) (fl : Flags) :
    (s.putS part lat g nw dst x fl).mem = s.mem := State.post_mem ..
@[simp] theorem State.putV_mem (s : State) (part lat : Nat) (m : Word) (nw : Bool) (dst : Nat) (x : Vec) (fl : Flags) :
    (s.putV part lat m nw dst x fl).mem = s.mem := State.post_mem ..
@[simp] theorem State.putP_mem (s : State) (part lat : Nat) (m : Word) (nw : Bool) (dst : Nat) (x : Word) :
    (s.putP part lat m nw dst x).mem = s.mem := State.post_mem ..

/-- The registers of the context in focus stay until the result is visible (R91). -/
theorem State.post_regs (s : State) (slot lat : Nat) (ws : List Write) (l : Option LatchVal) (fl : Flags) (bad : Bool) :
    SameRegs s (s.post slot lat ws l fl bad) := by
  rcases s.post_cases slot lat ws l fl bad with h | h <;> rw [h] <;> simp [SameRegs]

/-! Traps. -/

@[simp] theorem State.takeTrap_mem (s : State) (t : Trap) (done : BitVec 9) : (s.takeTrap t done).mem = s.mem := rfl

/-- The context that traps (R213): TRAPC, TRAPV and DONE written, FROZEN, latches empty, its registers kept. -/
theorem State.takeTrap_ctx (s : State) (t : Trap) (done : BitVec 9) :
    (s.takeTrap t done).ctx = { s.ctx with
      csr := { s.ctx.csr with trapc := trapcOf t, trapv := t.val, done := done }
      copied := false
      stat := .frozen
      freeze := .trap
      frozenN := 0
      latS := []
      latA := []
      latB := []
      stallN := 0
      bankN := 0 } := by
  simp [State.ctx, State.takeTrap, State.ctxAt, State.coreAt, State.setCore, Core.ctxAt, Core.setCtx]

/-- Every other context stays. -/
theorem State.takeTrap_others (s : State) (t : Trap) (done : BitVec 9) :
    SameOthers s (s.takeTrap t done) s.cur.core s.cur.ctx := by
  intro i k h
  by_cases hi : i = s.cur.core
  · subst hi
    have hk : k ≠ s.cur.ctx := by cases h with | inl h => exact absurd rfl h | inr h => exact h
    simp [State.takeTrap, State.ctxAt, State.coreAt, State.setCore, Core.ctxAt, Core.setCtx, tget_tset_ne _ _ _ hk]
  · simp [State.takeTrap, State.ctxAt, State.coreAt, State.setCore, Core.ctxAt, tget_tset_ne _ _ _ hi]

/-! Trace records. -/

/-- All that a record can change: the source, its sink and the counters. -/
theorem State.deliver_eq (s : State) (src tenant : Nat) (body : BitVec 256) (least : Nat) :
    ∃ a b c, s.deliver src tenant body least = { s with trace := a, sinks := b, counters := c } := ⟨_, _, _, rfl⟩

theorem State.dropRecord_eq (s : State) (src tenant : Nat) :
    ∃ a b c, s.dropRecord src tenant = { s with trace := a, sinks := b, counters := c } := ⟨_, _, _, rfl⟩

theorem State.flushDrops_eq (s : State) (src tenant : Nat) :
    ∃ a b c, s.flushDrops src tenant = { s with trace := a, sinks := b, counters := c } := by
  unfold State.flushDrops
  dsimp only
  split
  · exact ⟨_, _, _, rfl⟩
  · split <;> exact ⟨_, _, _, rfl⟩

/-- A record that leaves, or is still to leave. -/
theorem State.sendRecord_eq (s : State) (src tenant : Nat) (body : BitVec 256) (least : Nat) :
    ∃ a b c, (s.sendRecord src tenant body least).1 = { s with trace := a, sinks := b, counters := c } := by
  unfold State.sendRecord
  split
  · exact ⟨_, _, _, rfl⟩
  · obtain ⟨a, b, c, h⟩ := s.flushDrops_eq src tenant
    dsimp only
    rw [h]
    split <;> exact ⟨_, _, _, rfl⟩

/-- A record changes nothing but the source that writes it, its sink and the counters. -/
theorem State.emitX_eq (s : State) (src tenant typ payload xdata flags least : Nat) :
    ∃ a b c, s.emitX src tenant typ payload xdata flags least = { s with trace := a, sinks := b, counters := c } := by
  unfold State.emitX
  dsimp only
  split
  · exact ⟨_, _, _, rfl⟩
  · split
    · have key (l : Nat) (bd : BitVec 256) : ∃ a b c, (if (s.source src).waiting.isEmpty = true then s.sendRecord src tenant bd l
          else (s, false)).1 = { s with trace := a, sinks := b, counters := c } := by
        split
        · exact s.sendRecord_eq src tenant bd l
        · exact ⟨_, _, _, rfl⟩
      split
      all_goals
        rename_i h
        obtain ⟨a, b, c, e⟩ := key _ _
        rw [h] at e
        dsimp only at e
        subst e
        exact ⟨_, _, _, rfl⟩
    · split
      all_goals
        rename_i h
        obtain ⟨a, b, c, e⟩ := s.sendRecord_eq src tenant _ _
        rw [h] at e
        dsimp only at e
        subst e
        exact ⟨_, _, _, rfl⟩

/-- A record leaves every core and every byte of memory as it was. -/
theorem State.emitX_cores (s : State) (src tenant typ payload xdata flags least : Nat) :
    (s.emitX src tenant typ payload xdata flags least).cores = s.cores := by
  obtain ⟨_, _, _, h⟩ := s.emitX_eq src tenant typ payload xdata flags least
  rw [h]

@[simp] theorem State.emitX_mem (s : State) (src tenant typ payload xdata flags least : Nat) :
    (s.emitX src tenant typ payload xdata flags least).mem = s.mem := by
  obtain ⟨_, _, _, h⟩ := s.emitX_eq src tenant typ payload xdata flags least
  rw [h]

/-- What the arrival of a message causes is what it causes, but for the focus. -/
@[simp] theorem State.caused_mem (s : State) (sent : Nat) (f : State → State) :
    (s.caused sent f).mem = (f { s with cur := { s.cur with least := sent + 32 } }).mem := rfl

end Sys2Proof.Machine
end

