-- ==== Sys2Proof/Laws/PerInstr.lean ====
section
/-! SUPPORT. What holds of every instruction, one lemma for each: the word of an instruction that has a slot is not the NOP word and
fits its slot. -/

namespace Sys2Proof.Laws

open Sys2Proof Sys2Proof.Machine

/-- The word of a slot's instruction is not zero, which would be a NOP (R63 to R69), and fits the slot (R46). -/
def Codec.Statement (i : Instr) : Prop := ∀ sl, slotOf i = some sl → 0 < encode i ∧ encode i < 2 ^ slotWidth sl

theorem bit_le (b : Bool) : bit b ≤ 1 := by cases b <;> decide

theorem encHead_bounds (o : BitVec 10) (ho : o ≠ 0) (pred : BitVec 4) (pn nw : Bool) (dst : BitVec 8) :
    0 < encHead o pred pn nw dst ∧ encHead o pred pn nw dst + 2 ^ 40 ≤ 2 ^ 64 := by
  have h0 : o.toNat ≠ 0 := fun h => ho (BitVec.eq_of_toNat_eq h)
  have h1 := o.isLt
  have h2 := pred.isLt
  have h3 := dst.isLt
  have h4 := bit_le pn
  have h5 := bit_le nw
  unfold encHead
  omega

theorem Codec.ofR {i : Instr} {sl : SlotId} {o : BitVec 10} {op : ROp} (h : instrCode i = .r sl o op) (ho : o ≠ 0)
    (hs : slotWidth sl = 64) : Codec.Statement i := by
  intro x hx
  simp only [slotOf, h, Option.some.injEq] at hx
  subst hx
  simp only [encode, h, hs, encR]
  have := encHead_bounds o ho op.pred op.pn op.nw op.dst
  have := (selBits op.xa).isLt
  have := (selBits op.xb).isLt
  have := (selBits op.xc).isLt
  have := op.md.isLt
  omega

theorem Codec.ofRI {i : Instr} {sl : SlotId} {o : BitVec 10} {op : RIOp} (h : instrCode i = .ri sl o op) (ho : o ≠ 0)
    (hs : slotWidth sl = 64) : Codec.Statement i := by
  intro x hx
  simp only [slotOf, h, Option.some.injEq] at hx
  subst hx
  simp only [encode, h, hs, encRI]
  have := encHead_bounds o ho op.pred op.pn op.nw op.dst
  have := (selBits op.xa).isLt
  have := op.imm.isLt
  have := op.md.isLt
  omega

theorem Codec.ofI32 {i : Instr} {sl : SlotId} {o : BitVec 10} {op : I32Op} (h : instrCode i = .i32 sl o op) (ho : o ≠ 0)
    (hs : slotWidth sl = 64) : Codec.Statement i := by
  intro x hx
  simp only [slotOf, h, Option.some.injEq] at hx
  subst hx
  simp only [encode, h, hs, encI32]
  have := encHead_bounds o ho op.pred op.pn op.nw op.dst
  have := op.imm.isLt
  have := op.md.isLt
  omega

theorem Codec.ofC {i : Instr} {o : BitVec 8} {op : COp} (h : instrCode i = .c o op) (ho : o ≠ 0) : Codec.Statement i := by
  intro x hx
  simp only [slotOf, h, Option.some.injEq] at hx
  subst hx
  simp only [encode, h, slotWidth, encC]
  have : o.toNat ≠ 0 := fun h => ho (BitVec.eq_of_toNat_eq h)
  have := o.isLt
  have := op.pred.isLt
  have := op.ca.isLt
  have := op.cb.isLt
  have := op.cc.isLt
  have := op.md.isLt
  have := bit_le op.pn
  omega

theorem Codec.ofY {i : Instr} {o : BitVec 6} {op : YOp} (h : instrCode i = .y o op) (ho : o ≠ 0) : Codec.Statement i := by
  intro x hx
  simp only [slotOf, h, Option.some.injEq] at hx
  subst hx
  simp only [encode, h, slotWidth, encY]
  have : o.toNat ≠ 0 := fun h => ho (BitVec.eq_of_toNat_eq h)
  have := o.isLt
  have := op.pred.isLt
  have := op.yr.isLt
  have := op.imm.isLt
  have := bit_le op.pn
  omega

/-- A packet instruction or an event has no slot. -/
theorem Codec.ofNone {i : Instr} (h : slotOf i = none) : Codec.Statement i := by
  intro x hx
  rw [h] at hx
  cases hx

theorem Codec.add (op : ROp) : Codec.Statement (.add op) := Codec.ofR rfl (by decide) rfl
theorem Codec.sub (op : ROp) : Codec.Statement (.sub op) := Codec.ofR rfl (by decide) rfl
theorem Codec.addi (op : RIOp) : Codec.Statement (.addi op) := Codec.ofRI rfl (by decide) rfl
theorem Codec.mul (op : ROp) : Codec.Statement (.mul op) := Codec.ofR rfl (by decide) rfl
theorem Codec.mulh (op : ROp) : Codec.Statement (.mulh op) := Codec.ofR rfl (by decide) rfl
theorem Codec.mulhu (op : ROp) : Codec.Statement (.mulhu op) := Codec.ofR rfl (by decide) rfl
theorem Codec.div (op : ROp) : Codec.Statement (.div op) := Codec.ofR rfl (by decide) rfl
theorem Codec.divu (op : ROp) : Codec.Statement (.divu op) := Codec.ofR rfl (by decide) rfl
theorem Codec.rem (op : ROp) : Codec.Statement (.rem op) := Codec.ofR rfl (by decide) rfl
theorem Codec.and (op : ROp) : Codec.Statement (.and op) := Codec.ofR rfl (by decide) rfl
theorem Codec.or (op : ROp) : Codec.Statement (.or op) := Codec.ofR rfl (by decide) rfl
theorem Codec.xor (op : ROp) : Codec.Statement (.xor op) := Codec.ofR rfl (by decide) rfl
theorem Codec.andn (op : ROp) : Codec.Statement (.andn op) := Codec.ofR rfl (by decide) rfl
theorem Codec.shl (op : ROp) : Codec.Statement (.shl op) := Codec.ofR rfl (by decide) rfl
theorem Codec.shr (op : ROp) : Codec.Statement (.shr op) := Codec.ofR rfl (by decide) rfl
theorem Codec.sra (op : ROp) : Codec.Statement (.sra op) := Codec.ofR rfl (by decide) rfl
theorem Codec.rot (op : ROp) : Codec.Statement (.rot op) := Codec.ofR rfl (by decide) rfl
theorem Codec.clz (op : ROp) : Codec.Statement (.clz op) := Codec.ofR rfl (by decide) rfl
theorem Codec.popc (op : ROp) : Codec.Statement (.popc op) := Codec.ofR rfl (by decide) rfl
theorem Codec.min (op : ROp) : Codec.Statement (.min op) := Codec.ofR rfl (by decide) rfl
theorem Codec.max (op : ROp) : Codec.Statement (.max op) := Codec.ofR rfl (by decide) rfl
theorem Codec.minu (op : ROp) : Codec.Statement (.minu op) := Codec.ofR rfl (by decide) rfl
theorem Codec.maxu (op : ROp) : Codec.Statement (.maxu op) := Codec.ofR rfl (by decide) rfl
theorem Codec.sel (op : ROp) : Codec.Statement (.sel op) := Codec.ofR rfl (by decide) rfl
theorem Codec.cmp (op : ROp) : Codec.Statement (.cmp op) := Codec.ofR rfl (by decide) rfl
theorem Codec.pand (op : ROp) : Codec.Statement (.pand op) := Codec.ofR rfl (by decide) rfl
theorem Codec.por (op : ROp) : Codec.Statement (.por op) := Codec.ofR rfl (by decide) rfl
theorem Codec.pxor (op : ROp) : Codec.Statement (.pxor op) := Codec.ofR rfl (by decide) rfl
theorem Codec.pnot (op : ROp) : Codec.Statement (.pnot op) := Codec.ofR rfl (by decide) rfl
theorem Codec.movi (op : I32Op) : Codec.Statement (.movi op) := Codec.ofI32 rfl (by decide) rfl
theorem Codec.movhi (op : I32Op) : Codec.Statement (.movhi op) := Codec.ofI32 rfl (by decide) rfl
theorem Codec.lea (op : RIOp) : Codec.Statement (.lea op) := Codec.ofRI rfl (by decide) rfl
theorem Codec.bfx (op : ROp) : Codec.Statement (.bfx op) := Codec.ofR rfl (by decide) rfl
theorem Codec.bfi (op : ROp) : Codec.Statement (.bfi op) := Codec.ofR rfl (by decide) rfl
theorem Codec.csrr (op : RIOp) : Codec.Statement (.csrr op) := Codec.ofRI rfl (by decide) rfl
theorem Codec.csrw (op : RIOp) : Codec.Statement (.csrw op) := Codec.ofRI rfl (by decide) rfl
theorem Codec.br (op : I32Op) : Codec.Statement (.br op) := Codec.ofI32 rfl (by decide) rfl
theorem Codec.brc (op : RIOp) : Codec.Statement (.brc op) := Codec.ofRI rfl (by decide) rfl
theorem Codec.call (op : I32Op) : Codec.Statement (.call op) := Codec.ofI32 rfl (by decide) rfl
theorem Codec.ret (op : ROp) : Codec.Statement (.ret op) := Codec.ofR rfl (by decide) rfl
theorem Codec.loopm (op : RIOp) : Codec.Statement (.loopm op) := Codec.ofRI rfl (by decide) rfl
theorem Codec.brlc (op : I32Op) : Codec.Statement (.brlc op) := Codec.ofI32 rfl (by decide) rfl
theorem Codec.trap (op : I32Op) : Codec.Statement (.trap op) := Codec.ofI32 rfl (by decide) rfl
theorem Codec.endTask (op : ROp) : Codec.Statement (.endTask op) := Codec.ofR rfl (by decide) rfl
theorem Codec.eret (op : ROp) : Codec.Statement (.eret op) := Codec.ofR rfl (by decide) rfl
theorem Codec.xrd (op : RIOp) : Codec.Statement (.xrd op) := Codec.ofRI rfl (by decide) rfl
theorem Codec.xwr (op : RIOp) : Codec.Statement (.xwr op) := Codec.ofRI rfl (by decide) rfl
theorem Codec.vadd (u : VUnit) (op : ROp) : Codec.Statement (.vadd u op) := Codec.ofR rfl (by decide) (by cases u <;> rfl)
theorem Codec.vsub (u : VUnit) (op : ROp) : Codec.Statement (.vsub u op) := Codec.ofR rfl (by decide) (by cases u <;> rfl)
theorem Codec.vmul (u : VUnit) (op : ROp) : Codec.Statement (.vmul u op) := Codec.ofR rfl (by decide) (by cases u <;> rfl)
theorem Codec.vfma (u : VUnit) (op : ROp) : Codec.Statement (.vfma u op) := Codec.ofR rfl (by decide) (by cases u <;> rfl)
theorem Codec.vfms (u : VUnit) (op : ROp) : Codec.Statement (.vfms u op) := Codec.ofR rfl (by decide) (by cases u <;> rfl)
theorem Codec.vnfma (u : VUnit) (op : ROp) : Codec.Statement (.vnfma u op) := Codec.ofR rfl (by decide) (by cases u <;> rfl)
theorem Codec.vmin (u : VUnit) (op : ROp) : Codec.Statement (.vmin u op) := Codec.ofR rfl (by decide) (by cases u <;> rfl)
theorem Codec.vmax (u : VUnit) (op : ROp) : Codec.Statement (.vmax u op) := Codec.ofR rfl (by decide) (by cases u <;> rfl)
theorem Codec.vabs (u : VUnit) (op : ROp) : Codec.Statement (.vabs u op) := Codec.ofR rfl (by decide) (by cases u <;> rfl)
theorem Codec.vneg (u : VUnit) (op : ROp) : Codec.Statement (.vneg u op) := Codec.ofR rfl (by decide) (by cases u <;> rfl)
theorem Codec.vsf (u : VUnit) (op : ROp) : Codec.Statement (.vsf u op) := Codec.ofR rfl (by decide) (by cases u <;> rfl)
theorem Codec.vcvt (u : VUnit) (op : ROp) : Codec.Statement (.vcvt u op) := Codec.ofR rfl (by decide) (by cases u <;> rfl)
theorem Codec.vqnt (u : VUnit) (op : ROp) : Codec.Statement (.vqnt u op) := Codec.ofR rfl (by decide) (by cases u <;> rfl)
theorem Codec.vdqnt (u : VUnit) (op : ROp) : Codec.Statement (.vdqnt u op) := Codec.ofR rfl (by decide) (by cases u <;> rfl)
theorem Codec.vand (u : VUnit) (op : ROp) : Codec.Statement (.vand u op) := Codec.ofR rfl (by decide) (by cases u <;> rfl)
theorem Codec.vor (u : VUnit) (op : ROp) : Codec.Statement (.vor u op) := Codec.ofR rfl (by decide) (by cases u <;> rfl)
theorem Codec.vxor (u : VUnit) (op : ROp) : Codec.Statement (.vxor u op) := Codec.ofR rfl (by decide) (by cases u <;> rfl)
theorem Codec.vnot (u : VUnit) (op : ROp) : Codec.Statement (.vnot u op) := Codec.ofR rfl (by decide) (by cases u <;> rfl)
theorem Codec.vshl (u : VUnit) (op : ROp) : Codec.Statement (.vshl u op) := Codec.ofR rfl (by decide) (by cases u <;> rfl)
theorem Codec.vshr (u : VUnit) (op : ROp) : Codec.Statement (.vshr u op) := Codec.ofR rfl (by decide) (by cases u <;> rfl)
theorem Codec.vsra (u : VUnit) (op : ROp) : Codec.Statement (.vsra u op) := Codec.ofR rfl (by decide) (by cases u <;> rfl)
theorem Codec.vcmp (u : VUnit) (op : ROp) : Codec.Statement (.vcmp u op) := Codec.ofR rfl (by decide) (by cases u <;> rfl)
theorem Codec.vsel (u : VUnit) (op : ROp) : Codec.Statement (.vsel u op) := Codec.ofR rfl (by decide) (by cases u <;> rfl)
theorem Codec.vmov (u : VUnit) (op : ROp) : Codec.Statement (.vmov u op) := Codec.ofR rfl (by decide) (by cases u <;> rfl)
theorem Codec.vbcast (u : VUnit) (op : ROp) : Codec.Statement (.vbcast u op) := Codec.ofR rfl (by decide) (by cases u <;> rfl)
theorem Codec.viota (u : VUnit) (op : ROp) : Codec.Statement (.viota u op) := Codec.ofR rfl (by decide) (by cases u <;> rfl)
theorem Codec.vshuf (u : VUnit) (op : ROp) : Codec.Statement (.vshuf u op) := Codec.ofR rfl (by decide) (by cases u <;> rfl)
theorem Codec.vrowm (u : VUnit) (op : ROp) : Codec.Statement (.vrowm u op) := Codec.ofR rfl (by decide) (by cases u <;> rfl)
theorem Codec.vcolm (u : VUnit) (op : ROp) : Codec.Statement (.vcolm u op) := Codec.ofR rfl (by decide) (by cases u <;> rfl)
theorem Codec.vtrn (u : VUnit) (op : ROp) : Codec.Statement (.vtrn u op) := Codec.ofR rfl (by decide) (by cases u <;> rfl)
theorem Codec.vred (u : VUnit) (op : ROp) : Codec.Statement (.vred u op) := Codec.ofR rfl (by decide) (by cases u <;> rfl)
theorem Codec.vscan (u : VUnit) (op : ROp) : Codec.Statement (.vscan u op) := Codec.ofR rfl (by decide) (by cases u <;> rfl)
theorem Codec.vdot2 (u : VUnit) (op : ROp) : Codec.Statement (.vdot2 u op) := Codec.ofR rfl (by decide) (by cases u <;> rfl)
theorem Codec.vext (u : VUnit) (op : ROp) : Codec.Statement (.vext u op) := Codec.ofR rfl (by decide) (by cases u <;> rfl)
theorem Codec.vins (u : VUnit) (op : ROp) : Codec.Statement (.vins u op) := Codec.ofR rfl (by decide) (by cases u <;> rfl)
theorem Codec.vlds (u : VUnit) (op : ROp) : Codec.Statement (.vlds u op) := Codec.ofR rfl (by decide) (by cases u <;> rfl)
theorem Codec.vsts (u : VUnit) (op : ROp) : Codec.Statement (.vsts u op) := Codec.ofR rfl (by decide) (by cases u <;> rfl)
theorem Codec.sadd (u : VUnit) (op : ROp) : Codec.Statement (.sadd u op) := Codec.ofR rfl (by decide) (by cases u <;> rfl)
theorem Codec.ssub (u : VUnit) (op : ROp) : Codec.Statement (.ssub u op) := Codec.ofR rfl (by decide) (by cases u <;> rfl)
theorem Codec.smul (u : VUnit) (op : ROp) : Codec.Statement (.smul u op) := Codec.ofR rfl (by decide) (by cases u <;> rfl)
theorem Codec.smin (u : VUnit) (op : ROp) : Codec.Statement (.smin u op) := Codec.ofR rfl (by decide) (by cases u <;> rfl)
theorem Codec.smax (u : VUnit) (op : ROp) : Codec.Statement (.smax u op) := Codec.ofR rfl (by decide) (by cases u <;> rfl)
theorem Codec.sand (u : VUnit) (op : ROp) : Codec.Statement (.sand u op) := Codec.ofR rfl (by decide) (by cases u <;> rfl)
theorem Codec.sor (u : VUnit) (op : ROp) : Codec.Statement (.sor u op) := Codec.ofR rfl (by decide) (by cases u <;> rfl)
theorem Codec.sxor (u : VUnit) (op : ROp) : Codec.Statement (.sxor u op) := Codec.ofR rfl (by decide) (by cases u <;> rfl)
theorem Codec.dnrm (u : VUnit) (op : ROp) : Codec.Statement (.dnrm u op) := Codec.ofR rfl (by decide) (by cases u <;> rfl)
theorem Codec.dexp (u : VUnit) (op : ROp) : Codec.Statement (.dexp u op) := Codec.ofR rfl (by decide) (by cases u <;> rfl)
theorem Codec.ddot (u : VUnit) (op : ROp) : Codec.Statement (.ddot u op) := Codec.ofR rfl (by decide) (by cases u <;> rfl)
theorem Codec.ddot8 (u : VUnit) (op : ROp) : Codec.Statement (.ddot8 u op) := Codec.ofR rfl (by decide) (by cases u <;> rfl)
theorem Codec.dscl (u : VUnit) (op : ROp) : Codec.Statement (.dscl u op) := Codec.ofR rfl (by decide) (by cases u <;> rfl)
theorem Codec.dnget (u : VUnit) (op : ROp) : Codec.Statement (.dnget u op) := Codec.ofR rfl (by decide) (by cases u <;> rfl)
theorem Codec.dnset (u : VUnit) (op : ROp) : Codec.Statement (.dnset u op) := Codec.ofR rfl (by decide) (by cases u <;> rfl)
theorem Codec.dadd (u : VUnit) (op : ROp) : Codec.Statement (.dadd u op) := Codec.ofR rfl (by decide) (by cases u <;> rfl)
theorem Codec.dsub (u : VUnit) (op : ROp) : Codec.Statement (.dsub u op) := Codec.ofR rfl (by decide) (by cases u <;> rfl)
theorem Codec.dneg (u : VUnit) (op : ROp) : Codec.Statement (.dneg u op) := Codec.ofR rfl (by decide) (by cases u <;> rfl)
theorem Codec.dmulv (u : VUnit) (op : ROp) : Codec.Statement (.dmulv u op) := Codec.ofR rfl (by decide) (by cases u <;> rfl)
theorem Codec.dlerp (u : VUnit) (op : ROp) : Codec.Statement (.dlerp u op) := Codec.ofR rfl (by decide) (by cases u <;> rfl)
theorem Codec.dmov (u : VUnit) (op : ROp) : Codec.Statement (.dmov u op) := Codec.ofR rfl (by decide) (by cases u <;> rfl)
theorem Codec.dcvt (u : VUnit) (op : ROp) : Codec.Statement (.dcvt u op) := Codec.ofR rfl (by decide) (by cases u <;> rfl)
theorem Codec.omclaim (op : ROp) : Codec.Statement (.omclaim op) := Codec.ofR rfl (by decide) rfl
theorem Codec.omrel (op : ROp) : Codec.Statement (.omrel op) := Codec.ofR rfl (by decide) rfl
theorem Codec.omld (op : ROp) : Codec.Statement (.omld op) := Codec.ofR rfl (by decide) rfl
theorem Codec.omst (op : ROp) : Codec.Statement (.omst op) := Codec.ofR rfl (by decide) rfl
theorem Codec.mma (op : ROp) : Codec.Statement (.mma op) := Codec.ofR rfl (by decide) rfl
theorem Codec.mmaq (op : ROp) : Codec.Statement (.mmaq op) := Codec.ofR rfl (by decide) rfl
theorem Codec.tzero (op : ROp) : Codec.Statement (.tzero op) := Codec.ofR rfl (by decide) rfl
theorem Codec.tcfg (op : ROp) : Codec.Statement (.tcfg op) := Codec.ofR rfl (by decide) rfl
theorem Codec.trow (op : ROp) : Codec.Statement (.trow op) := Codec.ofR rfl (by decide) rfl
theorem Codec.tcol (op : ROp) : Codec.Statement (.tcol op) := Codec.ofR rfl (by decide) rfl
theorem Codec.trowW (op : ROp) : Codec.Statement (.trowW op) := Codec.ofR rfl (by decide) rfl
theorem Codec.tcolW (op : ROp) : Codec.Statement (.tcolW op) := Codec.ofR rfl (by decide) rfl
theorem Codec.tld (op : ROp) : Codec.Statement (.tld op) := Codec.ofR rfl (by decide) rfl
theorem Codec.tst (op : ROp) : Codec.Statement (.tst op) := Codec.ofR rfl (by decide) rfl
theorem Codec.tdrain (op : ROp) : Codec.Statement (.tdrain op) := Codec.ofR rfl (by decide) rfl
theorem Codec.tsave (op : ROp) : Codec.Statement (.tsave op) := Codec.ofR rfl (by decide) rfl
theorem Codec.tstat (op : ROp) : Codec.Statement (.tstat op) := Codec.ofR rfl (by decide) rfl
theorem Codec.lda (op : RIOp) : Codec.Statement (.lda op) := Codec.ofRI rfl (by decide) rfl
theorem Codec.ldw (op : ROp) : Codec.Statement (.ldw op) := Codec.ofR rfl (by decide) rfl
theorem Codec.lds (op : ROp) : Codec.Statement (.lds op) := Codec.ofR rfl (by decide) rfl
theorem Codec.ldv (op : ROp) : Codec.Statement (.ldv op) := Codec.ofR rfl (by decide) rfl
theorem Codec.ldg (op : ROp) : Codec.Statement (.ldg op) := Codec.ofR rfl (by decide) rfl
theorem Codec.ldx (op : ROp) : Codec.Statement (.ldx op) := Codec.ofR rfl (by decide) rfl
theorem Codec.pft (op : ROp) : Codec.Statement (.pft op) := Codec.ofR rfl (by decide) rfl
theorem Codec.qdrop (op : ROp) : Codec.Statement (.qdrop op) := Codec.ofR rfl (by decide) rfl
theorem Codec.wset (op : ROp) : Codec.Statement (.wset op) := Codec.ofR rfl (by decide) rfl
theorem Codec.wadv (op : ROp) : Codec.Statement (.wadv op) := Codec.ofR rfl (by decide) rfl
theorem Codec.csel (op : ROp) : Codec.Statement (.csel op) := Codec.ofR rfl (by decide) rfl
theorem Codec.sts (op : ROp) : Codec.Statement (.sts op) := Codec.ofR rfl (by decide) rfl
theorem Codec.stv (op : ROp) : Codec.Statement (.stv op) := Codec.ofR rfl (by decide) rfl
theorem Codec.stw (op : ROp) : Codec.Statement (.stw op) := Codec.ofR rfl (by decide) rfl
theorem Codec.stg (op : ROp) : Codec.Statement (.stg op) := Codec.ofR rfl (by decide) rfl
theorem Codec.stp (op : ROp) : Codec.Statement (.stp op) := Codec.ofR rfl (by decide) rfl
theorem Codec.aadd (op : ROp) : Codec.Statement (.aadd op) := Codec.ofR rfl (by decide) rfl
theorem Codec.afadd (op : ROp) : Codec.Statement (.afadd op) := Codec.ofR rfl (by decide) rfl
theorem Codec.amin (op : ROp) : Codec.Statement (.amin op) := Codec.ofR rfl (by decide) rfl
theorem Codec.amax (op : ROp) : Codec.Statement (.amax op) := Codec.ofR rfl (by decide) rfl
theorem Codec.axch (op : ROp) : Codec.Statement (.axch op) := Codec.ofR rfl (by decide) rfl
theorem Codec.acas (op : ROp) : Codec.Statement (.acas op) := Codec.ofR rfl (by decide) rfl
theorem Codec.aand (op : ROp) : Codec.Statement (.aand op) := Codec.ofR rfl (by decide) rfl
theorem Codec.aor (op : ROp) : Codec.Statement (.aor op) := Codec.ofR rfl (by decide) rfl
theorem Codec.axor (op : ROp) : Codec.Statement (.axor op) := Codec.ofR rfl (by decide) rfl
theorem Codec.copy (op : COp) : Codec.Statement (.copy op) := Codec.ofC rfl (by decide)
theorem Codec.copym (op : COp) : Codec.Statement (.copym op) := Codec.ofC rfl (by decide)
theorem Codec.gath (op : COp) : Codec.Statement (.gath op) := Codec.ofC rfl (by decide)
theorem Codec.scad (op : COp) : Codec.Statement (.scad op) := Codec.ofC rfl (by decide)
theorem Codec.hrel (op : COp) : Codec.Statement (.hrel op) := Codec.ofC rfl (by decide)
theorem Codec.taskl (op : COp) : Codec.Statement (.taskl op) := Codec.ofC rfl (by decide)
theorem Codec.tasksSetpri (op : COp) : Codec.Statement (.tasksSetpri op) := Codec.ofC rfl (by decide)
theorem Codec.tasksSusp (op : COp) : Codec.Statement (.tasksSusp op) := Codec.ofC rfl (by decide)
theorem Codec.tasksResume (op : COp) : Codec.Statement (.tasksResume op) := Codec.ofC rfl (by decide)
theorem Codec.canc (op : COp) : Codec.Statement (.canc op) := Codec.ofC rfl (by decide)
theorem Codec.tmrk (op : COp) : Codec.Statement (.tmrk op) := Codec.ofC rfl (by decide)
theorem Codec.pkb (op : COp) : Codec.Statement (.pkb op) := Codec.ofC rfl (by decide)
theorem Codec.pksnd (op : COp) : Codec.Statement (.pksnd op) := Codec.ofC rfl (by decide)
theorem Codec.pkprkCopy (op : COp) : Codec.Statement (.pkprkCopy op) := Codec.ofC rfl (by decide)
theorem Codec.pkprkTake (op : COp) : Codec.Statement (.pkprkTake op) := Codec.ofC rfl (by decide)
theorem Codec.pkprkRetry (op : COp) : Codec.Statement (.pkprkRetry op) := Codec.ofC rfl (by decide)
theorem Codec.pkprkDrop (op : COp) : Codec.Statement (.pkprkDrop op) := Codec.ofC rfl (by decide)
theorem Codec.rld (op : COp) : Codec.Statement (.rld op) := Codec.ofC rfl (by decide)
theorem Codec.rst (op : COp) : Codec.Statement (.rst op) := Codec.ofC rfl (by decide)
theorem Codec.faa (op : COp) : Codec.Statement (.faa op) := Codec.ofC rfl (by decide)
theorem Codec.ffn (op : COp) : Codec.Statement (.ffn op) := Codec.ofC rfl (by decide)
theorem Codec.coll (op : COp) : Codec.Statement (.coll op) := Codec.ofC rfl (by decide)
theorem Codec.resh (op : COp) : Codec.Statement (.resh op) := Codec.ofC rfl (by decide)
theorem Codec.cbkt (op : COp) : Codec.Statement (.cbkt op) := Codec.ofC rfl (by decide)
theorem Codec.cwgt (op : COp) : Codec.Statement (.cwgt op) := Codec.ofC rfl (by decide)
theorem Codec.waith (op : YOp) : Codec.Statement (.waith op) := Codec.ofY rfl (by decide)
theorem Codec.waitc (op : YOp) : Codec.Statement (.waitc op) := Codec.ofY rfl (by decide)
theorem Codec.acq (op : YOp) : Codec.Statement (.acq op) := Codec.ofY rfl (by decide)
theorem Codec.rel (op : YOp) : Codec.Statement (.rel op) := Codec.ofY rfl (by decide)
theorem Codec.fence (op : YOp) : Codec.Statement (.fence op) := Codec.ofY rfl (by decide)
theorem Codec.fencex (op : YOp) : Codec.Statement (.fencex op) := Codec.ofY rfl (by decide)
theorem Codec.chk (op : YOp) : Codec.Statement (.chk op) := Codec.ofY rfl (by decide)
theorem Codec.yld (op : YOp) : Codec.Statement (.yld op) := Codec.ofY rfl (by decide)
theorem Codec.brk (op : YOp) : Codec.Statement (.brk op) := Codec.ofY rfl (by decide)
theorem Codec.trig (op : YOp) : Codec.Statement (.trig op) := Codec.ofY rfl (by decide)
theorem Codec.fpclr (op : YOp) : Codec.Statement (.fpclr op) := Codec.ofY rfl (by decide)
theorem Codec.fpsnap (op : YOp) : Codec.Statement (.fpsnap op) := Codec.ofY rfl (by decide)
theorem Codec.bara (op : YOp) : Codec.Statement (.bara op) := Codec.ofY rfl (by decide)
theorem Codec.barw (op : YOp) : Codec.Statement (.barw op) := Codec.ofY rfl (by decide)
theorem Codec.rdv (op : YOp) : Codec.Statement (.rdv op) := Codec.ofY rfl (by decide)
theorem Codec.pktPshr (n : BitVec 2) : Codec.Statement (.pktPshr n) := Codec.ofNone rfl
theorem Codec.pktPopr (n : BitVec 2) : Codec.Statement (.pktPopr n) := Codec.ofNone rfl
theorem Codec.pktPshi (im : BitVec 10) : Codec.Statement (.pktPshi im) := Codec.ofNone rfl
theorem Codec.pktDup : Codec.Statement (.pktDup) := Codec.ofNone rfl
theorem Codec.pktSwp : Codec.Statement (.pktSwp) := Codec.ofNone rfl
theorem Codec.pktDrp : Codec.Statement (.pktDrp) := Codec.ofNone rfl
theorem Codec.pktAdd : Codec.Statement (.pktAdd) := Codec.ofNone rfl
theorem Codec.pktSub : Codec.Statement (.pktSub) := Codec.ofNone rfl
theorem Codec.pktMin : Codec.Statement (.pktMin) := Codec.ofNone rfl
theorem Codec.pktMax : Codec.Statement (.pktMax) := Codec.ofNone rfl
theorem Codec.pktAnd : Codec.Statement (.pktAnd) := Codec.ofNone rfl
theorem Codec.pktOr : Codec.Statement (.pktOr) := Codec.ofNone rfl
theorem Codec.pktXor : Codec.Statement (.pktXor) := Codec.ofNone rfl
theorem Codec.pktShl : Codec.Statement (.pktShl) := Codec.ofNone rfl
theorem Codec.pktShr : Codec.Statement (.pktShr) := Codec.ofNone rfl
theorem Codec.pktCeq : Codec.Statement (.pktCeq) := Codec.ofNone rfl
theorem Codec.pktClt : Codec.Statement (.pktClt) := Codec.ofNone rfl
theorem Codec.pktLdw : Codec.Statement (.pktLdw) := Codec.ofNone rfl
theorem Codec.pktAdw : Codec.Statement (.pktAdw) := Codec.ofNone rfl
theorem Codec.pktXcw : Codec.Statement (.pktXcw) := Codec.ofNone rfl
theorem Codec.pktTsc : Codec.Statement (.pktTsc) := Codec.ofNone rfl
theorem Codec.pktInc (n : BitVec 2) : Codec.Statement (.pktInc n) := Codec.ofNone rfl
theorem Codec.pktNode : Codec.Statement (.pktNode) := Codec.ofNone rfl
theorem Codec.pktHops : Codec.Statement (.pktHops) := Codec.ofNone rfl
theorem Codec.pktPld (w : BitVec 7) : Codec.Statement (.pktPld w) := Codec.ofNone rfl
theorem Codec.pktPaccI32 (w : BitVec 7) : Codec.Statement (.pktPaccI32 w) := Codec.ofNone rfl
theorem Codec.pktPaccF32 (w : BitVec 7) : Codec.Statement (.pktPaccF32 w) := Codec.ofNone rfl
theorem Codec.pktPaccMax (w : BitVec 7) : Codec.Statement (.pktPaccMax w) := Codec.ofNone rfl
theorem Codec.pktJz (t : BitVec 4) : Codec.Statement (.pktJz t) := Codec.ofNone rfl
theorem Codec.pktJnz (t : BitVec 4) : Codec.Statement (.pktJnz t) := Codec.ofNone rfl
theorem Codec.pktJmp (t : BitVec 4) : Codec.Statement (.pktJmp t) := Codec.ofNone rfl
theorem Codec.pktRoutePort (n : BitVec 4) (d : BitVec 3) : Codec.Statement (.pktRoutePort n d) := Codec.ofNone rfl
theorem Codec.pktRouteAuto (n : BitVec 4) : Codec.Statement (.pktRouteAuto n) := Codec.ofNone rfl
theorem Codec.pktRoutePop (n : BitVec 4) : Codec.Statement (.pktRoutePop n) := Codec.ofNone rfl
theorem Codec.pktClone (n : BitVec 4) (m : BitVec 6) : Codec.Statement (.pktClone n m) := Codec.ofNone rfl
theorem Codec.pktDlvrCtr : Codec.Statement (.pktDlvrCtr) := Codec.ofNone rfl
theorem Codec.pktDlvrHnd : Codec.Statement (.pktDlvrHnd) := Codec.ofNone rfl
theorem Codec.pktDlvrNode : Codec.Statement (.pktDlvrNode) := Codec.ofNone rfl
theorem Codec.pktDlvrGraph : Codec.Statement (.pktDlvrGraph) := Codec.ofNone rfl
theorem Codec.pktPark (n : BitVec 7) : Codec.Statement (.pktPark n) := Codec.ofNone rfl
theorem Codec.pktDrop : Codec.Statement (.pktDrop) := Codec.ofNone rfl
theorem Codec.resultVisible : Codec.Statement (.resultVisible) := Codec.ofNone rfl
theorem Codec.normScoreboardClear : Codec.Statement (.normScoreboardClear) := Codec.ofNone rfl
theorem Codec.segmentClose : Codec.Statement (.segmentClose) := Codec.ofNone rfl
theorem Codec.segmentLimitClose : Codec.Statement (.segmentLimitClose) := Codec.ofNone rfl
theorem Codec.waitSatisfied : Codec.Statement (.waitSatisfied) := Codec.ofNone rfl
theorem Codec.loadDataArrival : Codec.Statement (.loadDataArrival) := Codec.ofNone rfl
theorem Codec.queueSwitch : Codec.Statement (.queueSwitch) := Codec.ofNone rfl
theorem Codec.timeSliceSwitch : Codec.Statement (.timeSliceSwitch) := Codec.ofNone rfl
theorem Codec.forcedDeparture : Codec.Statement (.forcedDeparture) := Codec.ofNone rfl
theorem Codec.transientError : Codec.Statement (.transientError) := Codec.ofNone rfl
theorem Codec.handlerEntry : Codec.Statement (.handlerEntry) := Codec.ofNone rfl
theorem Codec.urgentPreemption : Codec.Statement (.urgentPreemption) := Codec.ofNone rfl
theorem Codec.ordinaryPreemption : Codec.Statement (.ordinaryPreemption) := Codec.ofNone rfl
theorem Codec.bankDrowsy : Codec.Statement (.bankDrowsy) := Codec.ofNone rfl
theorem Codec.fetchBlockArrive : Codec.Statement (.fetchBlockArrive) := Codec.ofNone rfl
theorem Codec.matrixCmdStart : Codec.Statement (.matrixCmdStart) := Codec.ofNone rfl
theorem Codec.matrixCmdComplete : Codec.Statement (.matrixCmdComplete) := Codec.ofNone rfl
theorem Codec.tileClaimEvict : Codec.Statement (.tileClaimEvict) := Codec.ofNone rfl
theorem Codec.lazySaveDone : Codec.Statement (.lazySaveDone) := Codec.ofNone rfl
theorem Codec.lazyRestoreDone : Codec.Statement (.lazyRestoreDone) := Codec.ofNone rfl
theorem Codec.matrixEngineFailure : Codec.Statement (.matrixEngineFailure) := Codec.ofNone rfl
theorem Codec.machineCheck : Codec.Statement (.machineCheck) := Codec.ofNone rfl
theorem Codec.baraAccept : Codec.Statement (.baraAccept) := Codec.ofNone rfl
theorem Codec.graphAdmit : Codec.Statement (.graphAdmit) := Codec.ofNone rfl
theorem Codec.nodeDecrement : Codec.Statement (.nodeDecrement) := Codec.ofNone rfl
theorem Codec.phaseOpen : Codec.Statement (.phaseOpen) := Codec.ofNone rfl
theorem Codec.launchReady : Codec.Statement (.launchReady) := Codec.ofNone rfl
theorem Codec.launchExpand : Codec.Statement (.launchExpand) := Codec.ofNone rfl
theorem Codec.launchAge : Codec.Statement (.launchAge) := Codec.ofNone rfl
theorem Codec.taskDispatch : Codec.Statement (.taskDispatch) := Codec.ofNone rfl
theorem Codec.taskSteal : Codec.Statement (.taskSteal) := Codec.ofNone rfl
theorem Codec.urgentDispatch : Codec.Statement (.urgentDispatch) := Codec.ofNone rfl
theorem Codec.coreUnbind : Codec.Statement (.coreUnbind) := Codec.ofNone rfl
theorem Codec.nodeComplete : Codec.Statement (.nodeComplete) := Codec.ofNone rfl
theorem Codec.copyAccept : Codec.Statement (.copyAccept) := Codec.ofNone rfl
theorem Codec.copyNodeStart : Codec.Statement (.copyNodeStart) := Codec.ofNone rfl
theorem Codec.copyComplete : Codec.Statement (.copyComplete) := Codec.ofNone rfl
theorem Codec.copymMmaEnqueue : Codec.Statement (.copymMmaEnqueue) := Codec.ofNone rfl
theorem Codec.handleFree : Codec.Statement (.handleFree) := Codec.ofNone rfl
theorem Codec.pageWalk : Codec.Statement (.pageWalk) := Codec.ofNone rfl
theorem Codec.tlbinvPage : Codec.Statement (.tlbinvPage) := Codec.ofNone rfl
theorem Codec.tlbinvAsid : Codec.Statement (.tlbinvAsid) := Codec.ofNone rfl
theorem Codec.tlbinvAll : Codec.Statement (.tlbinvAll) := Codec.ofNone rfl
theorem Codec.resolveRetry : Codec.Statement (.resolveRetry) := Codec.ofNone rfl
theorem Codec.resolveFail : Codec.Statement (.resolveFail) := Codec.ofNone rfl
theorem Codec.registerWrite : Codec.Statement (.registerWrite) := Codec.ofNone rfl
theorem Codec.traceSinkWrite : Codec.Statement (.traceSinkWrite) := Codec.ofNone rfl
theorem Codec.traceStall : Codec.Statement (.traceStall) := Codec.ofNone rfl
theorem Codec.mxsum : Codec.Statement (.mxsum) := Codec.ofNone rfl
theorem Codec.timeStep : Codec.Statement (.timeStep) := Codec.ofNone rfl
theorem Codec.debugBreakpoint : Codec.Statement (.debugBreakpoint) := Codec.ofNone rfl
theorem Codec.patrolScrub : Codec.Statement (.patrolScrub) := Codec.ofNone rfl
theorem Codec.admitJob : Codec.Statement (.admitJob) := Codec.ofNone rfl
theorem Codec.closejob : Codec.Statement (.closejob) := Codec.ofNone rfl
theorem Codec.killjob : Codec.Statement (.killjob) := Codec.ofNone rfl
theorem Codec.jobstat : Codec.Statement (.jobstat) := Codec.ofNone rfl
theorem Codec.tenantCreate : Codec.Statement (.tenantCreate) := Codec.ofNone rfl
theorem Codec.tenantDestroy : Codec.Statement (.tenantDestroy) := Codec.ofNone rfl
theorem Codec.keygen : Codec.Statement (.keygen) := Codec.ofNone rfl
theorem Codec.keyzero : Codec.Statement (.keyzero) := Codec.ofNone rfl
theorem Codec.counter : Codec.Statement (.counter) := Codec.ofNone rfl
theorem Codec.fwconfirm : Codec.Statement (.fwconfirm) := Codec.ofNone rfl
theorem Codec.migquiesce : Codec.Statement (.migquiesce) := Codec.ofNone rfl
theorem Codec.migsend : Codec.Statement (.migsend) := Codec.ofNone rfl
theorem Codec.migrecv : Codec.Statement (.migrecv) := Codec.ofNone rfl
theorem Codec.migresume : Codec.Statement (.migresume) := Codec.ofNone rfl
theorem Codec.sqSubmitGraph : Codec.Statement (.sqSubmitGraph) := Codec.ofNone rfl
theorem Codec.sqClosePhase : Codec.Statement (.sqClosePhase) := Codec.ofNone rfl
theorem Codec.sqCloseJob : Codec.Statement (.sqCloseJob) := Codec.ofNone rfl
theorem Codec.featctlCommit : Codec.Statement (.featctlCommit) := Codec.ofNone rfl
theorem Codec.bar2Access : Codec.Statement (.bar2Access) := Codec.ofNone rfl
theorem Codec.keySet : Codec.Statement (.keySet) := Codec.ofNone rfl
theorem Codec.keyZero : Codec.Statement (.keyZero) := Codec.ofNone rfl
theorem Codec.lockInterface : Codec.Statement (.lockInterface) := Codec.ofNone rfl
theorem Codec.getMeasurements : Codec.Statement (.getMeasurements) := Codec.ofNone rfl
theorem Codec.tdiLeaveRun : Codec.Statement (.tdiLeaveRun) := Codec.ofNone rfl
theorem Codec.linkDown : Codec.Statement (.linkDown) := Codec.ofNone rfl
theorem Codec.linkdownStopConfJobs : Codec.Statement (.linkdownStopConfJobs) := Codec.ofNone rfl
theorem Codec.linkdownZeroise : Codec.Statement (.linkdownZeroise) := Codec.ofNone rfl
theorem Codec.busMasterEnable : Codec.Statement (.busMasterEnable) := Codec.ofNone rfl
theorem Codec.firmwareUpdate : Codec.Statement (.firmwareUpdate) := Codec.ofNone rfl
theorem Codec.firmwareCommit : Codec.Statement (.firmwareCommit) := Codec.ofNone rfl
theorem Codec.packageReset : Codec.Statement (.packageReset) := Codec.ofNone rfl
theorem Codec.firmwareHealthy : Codec.Statement (.firmwareHealthy) := Codec.ofNone rfl
theorem Codec.watchdogExpire : Codec.Statement (.watchdogExpire) := Codec.ofNone rfl
theorem Codec.powerLimitSet : Codec.Statement (.powerLimitSet) := Codec.ofNone rfl
theorem Codec.clockStep : Codec.Statement (.clockStep) := Codec.ofNone rfl
theorem Codec.thermalTrip : Codec.Statement (.thermalTrip) := Codec.ofNone rfl
theorem Codec.fatalDump : Codec.Statement (.fatalDump) := Codec.ofNone rfl
theorem Codec.dumpMarkerArrive : Codec.Statement (.dumpMarkerArrive) := Codec.ofNone rfl
theorem Codec.packetArrival : Codec.Statement (.packetArrival) := Codec.ofNone rfl
theorem Codec.packetInject : Codec.Statement (.packetInject) := Codec.ofNone rfl
theorem Codec.packetTimeout : Codec.Statement (.packetTimeout) := Codec.ofNone rfl
theorem Codec.remoteRequestArrive : Codec.Statement (.remoteRequestArrive) := Codec.ofNone rfl
theorem Codec.remoteResponseArrive : Codec.Statement (.remoteResponseArrive) := Codec.ofNone rfl
theorem Codec.remoteDiscard : Codec.Statement (.remoteDiscard) := Codec.ofNone rfl
theorem Codec.linkFlitRetry : Codec.Statement (.linkFlitRetry) := Codec.ofNone rfl
theorem Codec.collAccept : Codec.Statement (.collAccept) := Codec.ofNone rfl
theorem Codec.bucketComplete : Codec.Statement (.bucketComplete) := Codec.ofNone rfl
theorem Codec.collAbortArrive : Codec.Statement (.collAbortArrive) := Codec.ofNone rfl
theorem Codec.cwgtApply : Codec.Statement (.cwgtApply) := Codec.ofNone rfl
theorem Codec.coreStorePerformed : Codec.Statement (.coreStorePerformed) := Codec.ofNone rfl
theorem Codec.sealedHeaderVerified : Codec.Statement (.sealedHeaderVerified) := Codec.ofNone rfl
theorem Codec.torusLinkTrained : Codec.Statement (.torusLinkTrained) := Codec.ofNone rfl
theorem Codec.torusLinkDown : Codec.Statement (.torusLinkDown) := Codec.ofNone rfl
theorem Codec.hostLinkUp : Codec.Statement (.hostLinkUp) := Codec.ofNone rfl
theorem Codec.spdmSecuredSession : Codec.Statement (.spdmSecuredSession) := Codec.ofNone rfl
theorem Codec.ideStreamProgram : Codec.Statement (.ideStreamProgram) := Codec.ofNone rfl
theorem Codec.tdiEnterRun : Codec.Statement (.tdiEnterRun) := Codec.ofNone rfl
theorem Codec.packetUnitDone : Codec.Statement (.packetUnitDone) := Codec.ofNone rfl
theorem Codec.collChunkArrive : Codec.Statement (.collChunkArrive) := Codec.ofNone rfl

end Sys2Proof.Laws
end

