-- ==== Sys2Proof/Laws/Vector.lean ====
section
/-! SUPPORT. Laws of vectors: what an element of a built vector reads, and what the element loop leaves in each element. -/

namespace Sys2Proof.Machine

theorem packElems_lt (w : Nat) (f : Nat → Nat) (n : Nat) : packElems w f n < 2 ^ (w * n) := by
  induction n with
  | zero => simp [packElems]
  | succ n ih =>
    have h : f n % 2 ^ w < 2 ^ w := Nat.mod_lt _ (Nat.two_pow_pos w)
    have e : 2 ^ (w * (n + 1)) = 2 ^ w * 2 ^ (w * n) := by rw [Nat.mul_succ, Nat.pow_add, Nat.mul_comm]
    have l : (f n % 2 ^ w + 1) * 2 ^ (w * n) ≤ 2 ^ w * 2 ^ (w * n) := Nat.mul_le_mul_right _ h
    rw [Nat.add_mul, Nat.one_mul] at l
    simp only [packElems]
    omega

/-- Element i of a packed number. -/
theorem packElems_elem (w : Nat) (f : Nat → Nat) (n i : Nat) (h : i < n) :
    packElems w f n / 2 ^ (w * i) % 2 ^ w = f i % 2 ^ w := by
  induction n with
  | zero => omega
  | succ n ih =>
    have hp : 0 < 2 ^ (w * i) := Nat.two_pow_pos _
    by_cases e : i = n
    · subst e
      simp only [packElems]
      rw [Nat.add_mul_div_right _ _ hp, Nat.div_eq_of_lt (packElems_lt w f i), Nat.zero_add, Nat.mod_mod]
    · have hi : i < n := by omega
      simp only [packElems]
      obtain ⟨d, hd⟩ : ∃ d, n = i + 1 + d := ⟨n - (i + 1), by omega⟩
      have e2 : f n % 2 ^ w * 2 ^ (w * n) = 2 ^ w * (f n % 2 ^ w * 2 ^ (w * d)) * 2 ^ (w * i) := by
        have : w * n = w + w * d + w * i := by rw [hd]; simp [Nat.mul_add, Nat.add_comm, Nat.add_left_comm]
        rw [this, Nat.pow_add, Nat.pow_add]
        simp [Nat.mul_comm, Nat.mul_left_comm]
      rw [e2, Nat.add_mul_div_right _ _ hp, Nat.add_mul_mod_self_left, ih hi]

/-- Element i of a built vector (R11). -/
theorem velem_vbuild (w : Nat) (f : Nat → Nat) (i : Nat) (h : i < 2048 / w) : velem w (vbuild w f) i = f i % 2 ^ w := by
  unfold velem vbuild
  have hw : w * (2048 / w) ≤ 2048 := Nat.mul_div_le 2048 w
  have lt : packElems w f (2048 / w) < 2 ^ 2048 :=
    Nat.lt_of_lt_of_le (packElems_lt w f _) (Nat.pow_le_pow_right (by decide) hw)
  rw [BitVec.toNat_ofNat, Nat.mod_eq_of_lt lt]
  exact packElems_elem w f _ i h

theorem foldl_congr_mem {α β : Type} (f g : β → α → β) (l : List α) (b : β) (h : ∀ b, ∀ a ∈ l, f b a = g b a) :
    l.foldl f b = l.foldl g b := by
  induction l generalizing b with
  | nil => rfl
  | cons a t ih =>
    rw [List.foldl_cons, List.foldl_cons, h b a (List.mem_cons_self ..)]
    exact ih _ fun c x hx => h c x (List.mem_cons_of_mem _ hx)

/-- The element loop packs what `f` gives in the active elements and zero in the others; each active element has a draw of its own,
and raises its flags. -/
theorem elemLoop_eq (w : Nat) (stoc : Bool) (m : Word) (f : Nat → Nat → Nat × Flags) :
    ∀ fuel i gen acc fl, ∃ rs : Nat → Nat, (stoc = false → ∀ k, rs k = lfsrDraw gen) ∧
      (elemLoop w stoc m f fuel i gen acc fl).1 =
        acc + packElems w (fun k => if m.getLsbD ((i + k) * w / 32) then (f (i + k) (rs (i + k))).1 else 0) fuel * 2 ^ (w * i) ∧
      (elemLoop w stoc m f fuel i gen acc fl).2.1 =
        (List.range' i fuel).foldl (fun e k => if m.getLsbD (k * w / 32) then e ||| (f k (rs k)).2 else e) fl ∧
      (stoc = false → (elemLoop w stoc m f fuel i gen acc fl).2.2 = gen) := by
  intro fuel
  induction fuel with
  | zero =>
    intro i gen acc fl
    exact ⟨fun _ => lfsrDraw gen, by simp, by simp [elemLoop, packElems], by simp [elemLoop], by simp [elemLoop]⟩
  | succ n ih =>
    intro i gen acc fl
    have shift : ∀ g : Nat → Nat, packElems w g (n + 1) = g 0 % 2 ^ w + packElems w (fun k => g (k + 1)) n * 2 ^ w := by
      intro g
      clear ih
      induction n with
      | zero => simp [packElems]
      | succ n ih2 =>
        rw [packElems, ih2]
        simp only [packElems]
        rw [Nat.add_mul, Nat.add_assoc, Nat.mul_assoc, ← Nat.pow_add, Nat.mul_succ]
    by_cases hm : m.getLsbD (i * w / 32) = true
    · obtain ⟨rs, h1, h2, h4, h3⟩ := ih (i + 1) (if stoc then lfsrStep gen else gen)
        (acc + (f i (lfsrDraw (if stoc then lfsrStep gen else gen))).1 % 2 ^ w * 2 ^ (w * i))
        (fl ||| (f i (lfsrDraw (if stoc then lfsrStep gen else gen))).2)
      refine ⟨fun k => if k = i then lfsrDraw (if stoc then lfsrStep gen else gen) else rs k, ?_, ?_, ?_, ?_⟩
      · intro hs k
        have := h1 hs k
        simp only [hs, Bool.false_eq_true, if_false] at this ⊢
        split
        · rfl
        · exact this
      · simp only [elemLoop, hm, if_true]
        rw [h2, shift]
        simp only [Nat.add_zero, hm, if_true]
        rw [Nat.add_mul, ← Nat.add_assoc]
        congr 1
        rw [Nat.mul_assoc, ← Nat.pow_add, show w + w * i = w * (i + 1) by rw [Nat.mul_succ, Nat.add_comm]]
        congr 2
        funext k
        have : i + 1 + k = i + (k + 1) := by omega
        rw [this, if_neg (by omega : ¬ i + (k + 1) = i)]
      · simp only [elemLoop, hm, if_true]
        rw [h4, List.range'_succ, List.foldl_cons]
        simp only [hm, if_true]
        apply foldl_congr_mem
        intro e k hk
        have : ¬ k = i := by simp only [List.mem_range'_1] at hk; omega
        rw [if_neg this]
      · intro hs
        have := h3 hs
        simp only [elemLoop, hm, if_true]
        simp only [hs, Bool.false_eq_true, if_false] at this ⊢
        exact this
    · obtain ⟨rs, h1, h2, h4, h3⟩ := ih (i + 1) gen acc fl
      refine ⟨rs, h1, ?_, ?_, ?_⟩
      · simp only [elemLoop, hm]
        rw [if_neg (by simp), h2, shift]
        simp only [Nat.add_zero, hm]
        rw [if_neg (by simp), Nat.zero_mod, Nat.zero_add]
        rw [Nat.mul_assoc, ← Nat.pow_add, show w + w * i = w * (i + 1) by rw [Nat.mul_succ, Nat.add_comm]]
        congr 3
        funext k
        have : i + 1 + k = i + (k + 1) := by omega
        rw [this]
      · simp only [elemLoop, hm]
        rw [if_neg (by simp), h4, List.range'_succ, List.foldl_cons]
        simp only [hm]
        rw [if_neg (by simp)]
      · intro hs
        simp only [elemLoop, hm]
        rw [if_neg (by simp)]
        exact h3 hs

/-- Every element that the element loop leaves: an active one holds what `f` gives with its draw, any other zero. -/
theorem velem_elems (w : Nat) (stoc : Bool) (m gen : Word) (f : Nat → Nat → Nat × Flags) :
    ∃ rs : Nat → Nat, (stoc = false → ∀ k, rs k = lfsrDraw gen) ∧
      (∀ i, i < 2048 / w → velem w (elems w stoc m gen f).1 i =
        if m.getLsbD (i * w / 32) then (f i (rs i)).1 % 2 ^ w else 0) ∧
      (elems w stoc m gen f).2.1 = flagsOf w m (fun i => (f i (rs i)).2) ∧
      (stoc = false → (elems w stoc m gen f).2.2 = gen) := by
  obtain ⟨rs, h1, h2, h4, h3⟩ := elemLoop_eq w stoc m f (2048 / w) 0 gen 0 0
  refine ⟨rs, h1, ?_, ?_, h3⟩
  · intro i hi
    have e : (elems w stoc m gen f).1 = vbuild w fun k => if m.getLsbD (k * w / 32) then (f k (rs k)).1 else 0 := by
      unfold elems vbuild
      simp only [h2, Nat.zero_add, Nat.mul_zero, Nat.pow_zero, Nat.mul_one]
    rw [e, velem_vbuild w _ i hi]
    split <;> simp
  · unfold flagsOf
    rw [List.range_eq_range']
    exact h4

end Sys2Proof.Machine
end

