-- ==== Sys2Proof/Tests/Slice0.lean ====
section
/-! SUPPORT. Tests of the model, and witnesses that the hypotheses of the statements can be met together.  Words and values are those of
the spec's encodings, tables and worked examples, or calculated by hand from its rules. -/

namespace Sys2Proof.Tests

open Sys2Proof Sys2Proof.Machine

set_option Elab.async false

/-! Builders. -/

def z : State := State.reset
def ro (xa xb xc : Sel) (md : BitVec 10) : ROp := ⟨0, false, false, 1, xa, xb, xc, md⟩
def off (op : ROp) : ROp := { op with pn := true }
def ri (xa : Sel) (imm : BitVec 20) (md : BitVec 10) : RIOp := ⟨0, false, false, 1, xa, imm, md⟩
def i32 (imm : BitVec 32) (md : BitVec 8) : I32Op := ⟨0, false, false, 1, imm, md⟩
def co (ca cb cc : BitVec 8) (md : BitVec 11) : COp := ⟨0, false, ca, cb, cc, md⟩
def yo (yr : BitVec 8) (imm : BitVec 13) : YOp := ⟨0, false, yr, imm⟩
/-- Register n as a source. -/
def r (n : BitVec 8) : Sel := .reg n
/-- The state with a context in place of context 0 of core 0. -/
def withC (c : Ctx) : State := z.setCtxAt 0 0 c
/-- s registers with values. -/
def sregs (l : List (Nat × Word)) : Ctx := { Ctx.reset with sRegs := l }
/-- The arguments of an event. -/
def args (s : State) (l : List Nat) : State := { s with cur := { s.cur with arg := l } }
/-- A task of job 1 and tenant 2 in context 0. -/
def task : Task := { Task.zero with job := 1, tenant := 2, serial := 7 }
/-- A task that issues, its scratchpad window open from 0 to 0x3FFF, its debug stop passed. -/
def spc : Ctx := { Ctx.reset with
  stat := .issuing, dbgSkip := some 0, task := some { task with clSize := 4096 }, csr := { Csr.reset with bndlo := 0, bndhi := 0x3FFF } }
def sp : State := withC spc
/-- The same with s1 = x. -/
def sp1 (x : Word) : State := withC { spc with sRegs := [(1, x)] }

/-- The bounds of R206 and R172, checked. -/
theorem spIn {s : State} {a : Word} {n : Nat} (h : s.ctx.csr.bndlo.toNat ≤ a.toNat ∧ a.toNat + n - 1 ≤ s.ctx.csr.bndhi.toNat ∧
    a.toNat + n - 1 ≤ 0x5FFFF ∧ a.toNat < 2 ^ 19) : s.SpIn a n := h

/-- A sealed header: magic, version 1, one code block, the entry at its start; a window of 400H bytes (R352). -/
def hdr : BitVec 3072 := BitVec.ofNat 3072 (0x4C594E5A + 2 ^ 32 + 0x3FF * 2 ^ 96 + 2 ^ 192)
/-- A launch record of gx tasks at a level: the program at 10000H, its entry there, any core, one handle (R261). -/
def launch (gx prio : Nat) : BitVec 1024 :=
  BitVec.ofNat 1024 (0x10200 * 2 ^ 512 + 0x10000 * 2 ^ 448 + gx * 2 ^ 432 + 2 ^ 416 + 2 ^ 400 + 0xFF * 2 ^ 392 + prio * 2 ^ 390 + 2 ^ 347)
/-- Job 1 runs for tenant 2, its program verified. -/
def job1 : Job := { Job.zero with st := .running, tenant := 2 }
def jobs : State := { z with jobs := [(1, job1)], progs := [⟨0x10000, 0, 1, hdr⟩] }
/-- Node 0 of die 0, a launch of job 1 in graph 0 of phase 0. -/
def node1 : Node := { Node.zero with job := 1, kind := .launch, st := .ready }
def graph1 : Graph := ⟨0, 1, 0, 1, 2, .ok⟩
def nodes (n : Node) : State := jobs.updDie 0 fun d => { d with nodes := [(0, n)], graphs := [graph1] }
/-- Little-endian 8-byte words at addresses, as memory. -/
def words (l : List (Nat × Nat)) : Mem := l.foldl (fun m w => memWrite m w.1 8 w.2) []
/-- A user page of 2 MiB at virtual 0 and at 200000H, both in die 0's scratchpad, in tables at 1000H; leaf bits LEAF, D, X, U, W and V of
R323, and key 0. -/
def paged (s : State) : State := { s with
  mem := words [(0x1000, 0x801), (0x2000, 0xC01), (0x3000, 0xF8040009F), (0x3008, 0xF8040009F)]
  keys := [(0, ⟨0, 0⟩)], tenants := [(2, ⟨false, 0⟩)], jobs := [(1, { job1 with root := 0x1000 })] }

/-! Witnesses: S slot (O1 to O7). -/

theorem witness_scalar : (∃ (op : ROp) (s : State), s.Holds .s op.xa ∧ s.Holds .s op.xb ∧ s.valS op.xb ≠ 0) ∧
    ∃ (op : ROp) (s : State), s.Holds .s op.xa ∧ s.Holds .s op.xb ∧ s.valS op.xb = 0 :=
  ⟨⟨ro (r 1) (.const 255) (r 0) 0, z, rfl, trivial, by decide⟩, ⟨ro (r 1) (r 2) (r 0) 0, z, rfl, rfl, rfl⟩⟩

theorem witness_constant_field : (∃ (op : RIOp) (s : State), s.Holds .s op.xa ∧ op.md.getLsbD 3 = true) ∧
    (∃ (op : I32Op) (s : State), s.Holds .s (.reg op.dst)) ∧
    (∃ (op : ROp) (s : State), s.Holds .s op.xa ∧ s.Holds .s op.xb ∧ s.Holds .s op.xc ∧ s.Holds .p op.xc ∧
      (op.md.setWidth 7).toNat = 64) ∧ ∃ (op : ROp) (s : State), s.Holds .s op.xa ∧ (op.md.setWidth 7).toNat = 1 :=
  ⟨⟨ri (r 1) 4 8, z, rfl, by decide⟩, ⟨i32 5 0, z, rfl⟩, ⟨ro (r 1) (r 2) (r 3) 64, z, rfl, rfl, rfl, rfl, by decide⟩,
    ⟨ro (r 1) (r 2) (r 3) 1, z, rfl, by decide⟩⟩

theorem witness_predicate : (∀ cc : Fin 6, ∃ (op : ROp) (s : State), s.Holds .s op.xa ∧ s.Holds .s op.xb ∧
      (op.md.setWidth 3).toNat = cc.val) ∧ ∃ (op : ROp) (s : State), s.Holds .p op.xa ∧ s.Holds .p op.xb :=
  ⟨fun cc => ⟨ro (r 1) (r 2) (r 0) (BitVec.ofNat 10 cc.val), z, rfl, rfl, by revert cc; decide⟩, ro (r 1) (r 9) (r 0) 0, z, rfl, rfl⟩

/-- RMODE 4 is legal and 5 is not (R85); p0 with PN is a false guard. -/
theorem witness_control_register : (∃ (op : RIOp) (s : State), s.Holds .s op.xa ∧ s.ctx.guard op.pred op.pn = true ∧
      csrValueOk op.imm.toNat (s.valS op.xa) = true) ∧
    (∃ (op : RIOp) (s : State), s.Holds .s op.xa ∧ s.ctx.guard op.pred op.pn = true ∧ csrValueOk op.imm.toNat (s.valS op.xa) = false) ∧
    ∃ (op : RIOp) (s : State), s.Holds .s op.xa ∧ s.ctx.guard op.pred op.pn = false :=
  ⟨⟨ri (.const 4) 0x22 0, z, trivial, by decide, by decide⟩, ⟨ri (.const 5) 0x22 0, z, trivial, by decide, by decide⟩,
    ⟨{ ri (.const 4) 0x22 0 with pn := true }, z, trivial, by decide⟩⟩

/-- s1 of partition 1 (imm bits 19:17), and s1 of the context itself, awake; a gated one, a value that RMODE may not hold, a false guard;
a read of a word with a double-bit error, of a gated one, and of a control register. -/
theorem witness_supervisor :
    (∃ (op : RIOp) (s : State) (x : XReg), xregOf (op.imm.setWidth 17).toNat = some x ∧ s.Holds .s op.xa ∧
      s.ctx.guard op.pred op.pn = true ∧ x.valueOk (s.valS op.xa) = true ∧
      x.gated (s.ctxAt s.cur.core (op.imm.extractLsb' 17 3).toNat) = false ∧ (op.imm.extractLsb' 17 3).toNat ≠ s.cur.ctx) ∧
    (∃ (op : RIOp) (s : State) (x : XReg), xregOf (op.imm.setWidth 17).toNat = some x ∧ s.Holds .s op.xa ∧
      s.ctx.guard op.pred op.pn = true ∧ x.valueOk (s.valS op.xa) = true ∧ x.gated s.ctx = false ∧ x.Awake s.ctx ∧
      (op.imm.extractLsb' 17 3).toNat = s.cur.ctx) ∧
    (∃ (op : RIOp) (s : State) (x : XReg), xregOf (op.imm.setWidth 17).toNat = some x ∧ s.Holds .s op.xa ∧
      s.ctx.guard op.pred op.pn = true ∧ x.valueOk (s.valS op.xa) = false) ∧
    (∃ (op : RIOp) (s : State) (x : XReg), xregOf (op.imm.setWidth 17).toNat = some x ∧ s.Holds .s op.xa ∧
      s.ctx.guard op.pred op.pn = true ∧ x.valueOk (s.valS op.xa) = true ∧
      x.gated (s.ctxAt s.cur.core (op.imm.extractLsb' 17 3).toNat) = true) ∧
    (∃ (op : RIOp) (s : State) (x : XReg), xregOf (op.imm.setWidth 17).toNat = some x ∧ s.ctx.stat ≠ .free ∧
      x.word s.ctx = some (0, 1, 0) ∧ (0, 1, 0, true) ∈ s.ctx.ecc ∧ x.Awake s.ctx) ∧
    ∃ (op : RIOp) (s : State) (x : XReg), xregOf (op.imm.setWidth 17).toNat = some x ∧ x.bank s.ctx = none :=
  ⟨⟨ri (.const 4) 0x21001 0, z.setCtxAt 0 1 { Ctx.reset with stat := .ready }, .sreg 1, by decide, trivial, by decide, by decide,
      by decide, by decide⟩,
    ⟨ri (.const 4) 0x01001 0, withC { Ctx.reset with stat := .issuing }, .sreg 1, by decide, trivial, by decide, by decide, by decide,
      fun b h => by cases h; decide, by decide⟩,
    ⟨ri (.const 5) 0x00022 0, z, .ctl 0x22, by decide, trivial, by decide, by decide⟩,
    ⟨ri (.const 4) 0x21001 0, z, .sreg 1, by decide, trivial, by decide, by decide, by decide⟩,
    ⟨ri (.const 0) 0x01001 0, withC { Ctx.reset with stat := .issuing, ecc := [(0, 1, 0, true)] }, .sreg 1, by decide, by decide, by decide,
      by decide, fun b h => by cases h; decide⟩,
    ri (.const 0) 0x00022 0, z, .ctl 0x22, by decide, by decide⟩

theorem witness_branch : (∀ cc : Fin 6, ∃ (op : RIOp) (s : State), s.Holds .s op.xa ∧ (op.md.setWidth 3).toNat = cc.val) ∧
    (∃ (op : ROp) (s : State), s.Holds .s op.xa) ∧
    (∃ (op : RIOp) (s : State), s.Holds .s op.xa ∧ s.ctx.guard op.pred op.pn = true ∧ 1 ≤ (s.valS op.xa).toNat) ∧
    (∃ (op : RIOp) (s : State), s.Holds .s op.xa ∧ s.ctx.guard op.pred op.pn = true ∧ (s.valS op.xa).toNat = 0) ∧
    (∃ (op : I32Op) (s : State), s.ctx.guard op.pred op.pn = true ∧ s.ctx.csr.lc - 1 = 0) ∧
    (∃ (op : I32Op) (s : State), s.ctx.guard op.pred op.pn = true ∧ s.ctx.csr.lc - 1 ≠ 0) ∧
    ∃ (op : I32Op) (s : State), s.ctx.guard op.pred op.pn = false :=
  ⟨fun cc => ⟨ri (r 1) 3 (BitVec.ofNat 10 cc.val), z, rfl, by revert cc; decide⟩, ⟨ro (r 1) (r 0) (r 0) 0, z, rfl⟩,
    ⟨ri (.const 1) 3 1, z, trivial, by decide, by decide⟩, ⟨ri (.const 0) 3 1, z, trivial, by decide, by decide⟩,
    ⟨i32 0 0, withC { Ctx.reset with csr := { Csr.reset with lc := 1 } }, by decide, by decide⟩,
    ⟨i32 0 0, z, by decide, by decide⟩, ⟨{ i32 0 0 with pn := true }, z, by decide⟩⟩

/-! Witnesses: vector operations (O8 to O15). -/

theorem witness_vector_integer : ∀ ty : Fin 2, ∃ (op : ROp) (s : State),
    s.ctx.typ (op.md.setWidth 4).toNat = 7 + ty.val ∧ op.md.getLsbD 8 = false ∧ s.Holds .v op.xa ∧ s.Holds .v op.xb ∧ s.Holds .v op.xc :=
  fun ty => ⟨ro (r 1) (r 2) (r 3) (BitVec.ofNat 10 (7 + ty.val)), z, by revert ty; decide, by revert ty; decide, rfl, rfl, rfl⟩

theorem witness_vector_float : ∀ ty : Fin 3, ∃ (op : ROp) (s : State),
    s.ctx.typ (op.md.setWidth 4).toNat = 1 + ty.val ∧ op.md.getLsbD 9 = false ∧ s.Holds .v op.xa ∧ s.Holds .v op.xb ∧ s.Holds .v op.xc :=
  fun ty => ⟨ro (r 1) (r 2) (r 3) (BitVec.ofNat 10 (1 + ty.val)), z, by revert ty; decide, by revert ty; decide, rfl, rfl, rfl⟩

theorem witness_vector_bit : (∃ (op : ROp) (s : State), s.Holds .v op.xa ∧ s.Holds .v op.xb ∧ s.Holds .p op.xc ∧ s.Holds .s op.xa ∧
      s.ctx.typ (op.md.setWidth 4).toNat = 7) ∧
    (∃ (op : ROp) (s : State), s.Holds .v op.xa ∧ s.Holds .v op.xb ∧ s.ctx.typ (op.md.extractLsb' 6 4).toNat = 8 ∧
      (op.md.extractLsb' 4 2).toNat = 3) ∧
    ∃ (op : ROp) (s : State), s.Holds .v op.xa ∧ s.Holds .v op.xb ∧ s.ctx.typ (op.md.extractLsb' 6 4).toNat = 1 ∧
      XVal.cmp (s.valE .f32 op.xa 0) (s.valE .f32 op.xb 0) = none :=
  ⟨⟨ro (r 1) (r 2) (r 3) 7, z, rfl, rfl, rfl, rfl, by decide⟩, ⟨ro (r 1) (r 2) (r 0) 0x230, z, rfl, rfl, by decide, by decide⟩,
    ⟨ro (r 1) (r 2) (r 0) 0x040, withC { Ctx.reset with vRegs := [(1, 0x7FC00000#2048)] }, rfl, rfl, by decide, by decide +kernel⟩⟩

theorem witness_special : (∀ ty : Fin 3, ∃ (op : ROp) (s : State) (fn : SpecFn), s.ctx.typ (bitsOf op.md.toNat 7 4) = 1 + ty.val ∧
      specFnOf (bitsOf op.md.toNat 3 0) = some fn ∧ s.Holds .v op.xa) ∧
    ∃ (op : ROp) (s : State), s.Holds .v op.xa ∧ s.Holds .v op.xb ∧ s.Holds .v op.xc :=
  ⟨fun ty => ⟨ro (r 1) (r 0) (r 0) (BitVec.ofNat 10 (16 * (1 + ty.val))), z, .exp2, by revert ty; decide,
      by revert ty; decide, rfl⟩, ro (r 1) (r 2) (r 3) 0, z, rfl, rfl, rfl⟩

/-- FP32 to BF16 into the second half, with a bound; INT32 to a nibble format at the end of its run; blocks 40 to 47 of 48. -/
theorem witness_convert : (∃ (op : ROp) (s : State), bitsOf op.md.toNat 9 3 = 9 * (1 - 1) + (3 - 1) ∧ bitsOf op.md.toNat 1 0 = 1 ∧
      op.md.getLsbD 2 = true ∧ s.Holds .v op.xa ∧ s.Holds .v op.xb) ∧
    (∃ (op : ROp) (s : State), bitsOf op.md.toNat 9 3 = 84 ∧ bitsOf op.md.toNat 1 0 + 4 = 7 ∧ s.Holds .v op.xa) ∧
    (∃ (op : ROp) (s : State), s.ctx.typ (bitsOf op.md.toNat 3 0) = 1 ∧ (bitsOf op.md.toNat 6 4 + 1) * 8 = 48 ∧ s.Holds .v op.xa ∧
      s.Holds .v op.xb ∧ s.ctx.guard op.pred op.pn = true) ∧
    ∃ (op : ROp) (s : State), s.ctx.typ (bitsOf op.md.toNat 3 0) = 3 ∧ (bitsOf op.md.toNat 6 4 + 1) * 16 = 48 ∧ s.Holds .v op.xa ∧
      s.Holds .v op.xb ∧ s.ctx.guard op.pred op.pn = false :=
  ⟨⟨ro (r 1) (r 2) (r 0) 0x015, z, by decide, by decide, by decide, rfl, rfl⟩, ⟨ro (r 1) (r 0) (r 0) 0x2A3, z, by decide, by decide, rfl⟩,
    ⟨ro (r 1) (r 2) (r 0) 0x051, z, by decide, by decide, rfl, rfl, by decide⟩,
    ⟨off (ro (r 1) (r 2) (r 0) 0x023), z, by decide, by decide, rfl, rfl, by decide⟩⟩

theorem witness_permute : (∃ (op : ROp) (s : State), s.Holds .v op.xa ∧ s.Holds .v op.xb ∧ bitsOf op.md.toNat 1 0 < 3) ∧
    ∃ (op : ROp) (s : State), s.Holds .v op.xa ∧ s.ctx.csr.shape = 0x04C7 :=
  ⟨⟨ro (r 1) (r 2) (r 0) 2, z, rfl, rfl, by decide⟩, ro (r 1) (r 0) (r 0) 0, withC { Ctx.reset with csr := { Csr.reset with shape := 0x04C7 } },
    rfl, rfl⟩

theorem witness_reduce : (∃ (op : ROp) (s : State), s.Holds .v op.xa ∧ s.ctx.typ (bitsOf op.md.toNat 9 6) = 7 ∧ ¬(op.pred = 0 ∧ op.pn = true) ∧
      op.md.getLsbD 4 = true ∧ op.md.getLsbD 3 = true) ∧
    (∃ (op : ROp) (s : State), s.Holds .v op.xa ∧ s.ctx.typ (bitsOf op.md.toNat 9 6) = 8 ∧ ¬(op.pred = 0 ∧ op.pn = true) ∧
      op.md.getLsbD 4 = false) ∧
    ∃ (op : ROp) (s : State), s.Holds .v op.xa ∧ s.ctx.typ (bitsOf op.md.toNat 9 6) = 1 ∧
      (bitsOf s.ctx.csr.shape.toNat 9 6 + 1) * (bitsOf s.ctx.csr.shape.toNat 5 0 + 1) = 64 :=
  ⟨⟨ro (r 1) (r 0) (r 0) 0x1D8, z, rfl, by decide, by decide, by decide, by decide⟩,
    ⟨ro (r 1) (r 0) (r 0) 0x200, z, rfl, by decide, by decide, by decide⟩, ro (r 1) (r 0) (r 0) 0x040, z, rfl, by decide, by decide⟩

/-- The reserved INT4 code in element 0; the last halfword of a slice is in bounds; a word at 0x3FF is misaligned and out of bounds. -/
theorem witness_element_slice : (∃ (op : ROp) (s : State), s.Holds .s op.xb ∧ s.Holds .v op.xa ∧ s.Holds .s op.xc ∧ s.Holds .s op.xa) ∧
    (∃ (op : ROp) (s : State), s.Holds .s op.xb ∧ s.Holds .v op.xa ∧ s.ctx.typ (op.md.setWidth 4).toNat = 9 ∧ s.bitsE .i4 op.xa 0 = 8) ∧
    (∃ (op : ROp) (s : State), bitsOf op.md.toNat 1 0 = 1 ∧ s.Holds .v op.xa ∧ s.Holds .v op.xb ∧ s.Holds .v op.xc ∧
      vlane (s.valV op.xa) 0 + vlane (s.valV op.xb) 0 + 2 = 0x400 ∧ s.isPoisoned (lsBase s.cur.core 0 + 0x3FE) 2 = false) ∧
    ∃ (op : ROp) (s : State), bitsOf op.md.toNat 1 0 = 2 ∧ s.Holds .v op.xa ∧ s.Holds .v op.xb ∧
      (s.ctx.lanes op.pred op.pn).getLsbD 0 = true ∧ 0x400 < vlane (s.valV op.xa) 0 + vlane (s.valV op.xb) 0 + 4 :=
  ⟨⟨ro (r 1) (r 2) (r 3) 0, z, rfl, rfl, rfl, rfl⟩,
    ⟨ro (r 1) (r 0) (r 0) 9, withC { Ctx.reset with vRegs := [(1, 8)] }, rfl, rfl, by decide, by decide +kernel⟩,
    ⟨ro (r 1) (.const 0) (r 3) 1, withC { Ctx.reset with vRegs := [(1, vbuild 32 fun _ => 0x3FE)] }, by decide, rfl, trivial, rfl,
      by decide +kernel, by decide +kernel⟩,
    ro (r 1) (.const 1) (r 3) 2, withC { Ctx.reset with vRegs := [(1, vbuild 32 fun _ => 0x3FE)] }, by decide, rfl, trivial,
      by decide +kernel, by decide +kernel⟩

/-- Pairs: d1 ordinary with norm 1, d2 zero, d3 NaD. -/
def pairs : State := withC { Ctx.reset with nRegs := [(1, 1), (2, 0x80000000#32), (3, 0x7FFFFFFF#32)] }

theorem witness_norm : (∀ k : Fin 3, ∃ (op : ROp), pairs.Holds .d op.xa ∧ pairs.Holds .s op.xb ∧
      pairs.ctx.nGet (selNum op.xa) = [1#32, 0x80000000#32, 0x7FFFFFFF#32].getD k.val 0) ∧
    (∃ (op : ROp) (s : State), s.Holds .d op.xa ∧ (s.ctx.nGet (selNum op.xa)).toInt + (s.valS op.xb).toInt = -(2 ^ 31)) ∧
    (∃ (op : ROp) (s : State), s.Holds .d op.xa ∧ (s.ctx.nGet (selNum op.xa)).toInt + (s.valS op.xb).toInt = 2 ^ 31 - 1) ∧
    ∃ (op : ROp) (s : State), s.Holds .s op.xa ∧ s.Holds .d (.reg op.dst) ∧ (s.valS op.xa).setWidth 32 = 0x80000000#32 :=
  ⟨fun k => ⟨ro (r (BitVec.ofNat 8 (k.val + 1))) (r 0) (r 0) 0, rfl, rfl, by revert k; decide⟩,
    ⟨ro (r 1) (.const 255) (r 0) 0, withC { Ctx.reset with nRegs := [(1, 0x80000001#32)] }, rfl, by decide⟩,
    ⟨ro (r 1) (.const 1) (r 0) 0, withC { Ctx.reset with nRegs := [(1, 0x7FFFFFFE#32)] }, rfl, by decide⟩,
    ro (r 1) (r 0) (r 0) 0, withC (sregs [(1, 0x80000000#64)]), rfl, rfl, by decide⟩

theorem witness_renormalised : (∀ md : Fin 3, ∃ (op : ROp) (s : State), s.Holds .d op.xa ∧ s.Holds .d op.xb ∧ bitsOf op.md.toNat 1 0 = md.val ∧
      ∀ j, j < 8 → s.Holds .d (.reg (BitVec.ofNat 8 (selNum op.xb + j)))) ∧
    (∀ f : Bool, ∃ (op : ROp) (s : State), op.md.getLsbD 0 = f ∧ s.Holds (if f then .v2 else .v) op.xa ∧ s.Holds .d op.xb ∧ s.Holds .s op.xc) ∧
    (∃ (op : ROp) (s : State), s.Holds .v2 op.xa ∧ (decodeFmt .f32 (vlane (s.ctx.vGet (selNum op.xa)) 0)).1.isFin = false) ∧
    ∃ (op : ROp), pairs.Holds .d op.xa ∧ pairs.ctx.nGet (selNum op.xa) = 0x7FFFFFFF#32 :=
  ⟨fun md => ⟨ro (r 1) (r 8) (r 0) (BitVec.ofNat 10 md.val), z, rfl, rfl, by revert md; decide, fun _ _ => rfl⟩,
    fun f => ⟨ro (r 2) (r 4) (r 6) (if f then 1 else 0), z, by cases f <;> decide, by cases f <;> rfl, rfl, rfl⟩,
    ⟨ro (r 2) (r 0) (r 0) 1, withC { Ctx.reset with vRegs := [(2, 0x7FC00000#2048)] }, rfl, by decide +kernel⟩,
    ro (r 3) (r 0) (r 0) 0, rfl, by decide⟩

/-! Witnesses: loads, stores and atomics (O18 to O22). -/

/-- The last word of the window, the first beyond it, and a misaligned one; a false guard. -/
theorem witness_direct_load :
    (∃ (op : ROp) (s : State), s.Holds .s op.xa ∧ s.Holds .s op.xb ∧ s.cur.before = none ∧ mdSpace op.md = .sp ∧
      s.ctx.guard op.pred op.pn = true ∧ s.Unwatched .sp true false [(0, s.valS op.xa + s.valS op.xb, 2 ^ bitsOf op.md.toNat 7 6)] ∧
      (s.valS op.xa + s.valS op.xb).toNat % 2 ^ bitsOf op.md.toNat 7 6 = 0 ∧ s.SpIn (s.valS op.xa + s.valS op.xb) (2 ^ bitsOf op.md.toNat 7 6) ∧
      s.isPoisoned (s.spPlace (s.valS op.xa + s.valS op.xb)) 8 = false) ∧
    (∃ (op : ROp) (s : State), s.Holds .s op.xa ∧ s.Holds .s op.xb ∧ mdSpace op.md = .sp ∧ s.ctx.guard op.pred op.pn = true ∧
      (s.valS op.xa + s.valS op.xb).toNat % 8 = 0 ∧ bitsOf op.md.toNat 7 6 = 3 ∧ ¬s.SpIn (s.valS op.xa + s.valS op.xb) 8) ∧
    (∃ (op : ROp) (s : State), s.Holds .s op.xa ∧ mdSpace op.md = .sp ∧ bitsOf op.md.toNat 7 6 = 3 ∧
      (s.valS op.xa + s.valS op.xb).toNat % 8 = 1) ∧
    (∃ (op : ROp) (s : State), s.Holds .s op.xa ∧ s.ctx.guard op.pred op.pn = false) ∧
    ∃ (op : ROp) (s : State), s.Holds .s op.xa ∧ bitsOf op.md.toNat 3 0 = 9 ∧ s.ctx.typ (bitsOf op.md.toNat 7 4) = 9 ∧
      s.ctx.lanes op.pred op.pn = allOnes ∧ s.valS op.xa = 0x3F00 ∧ s.SpIn (s.valS op.xa) 256 :=
  ⟨⟨ro (r 1) (.const 0) (r 0) 0x0C0, sp1 0x3FF8, rfl, trivial, rfl, by decide, by decide, Or.inl rfl, by decide,
      ⟨by decide, by decide, by decide, by decide⟩, by decide⟩,
    ⟨ro (r 1) (.const 0) (r 0) 0x0C0, sp1 0x4000, rfl, trivial, by decide, by decide, by decide, by decide, fun h => absurd h.2.1 (by decide)⟩,
    ⟨ro (r 1) (.const 1) (r 0) 0x0C0, sp1 0x3FF8, rfl, by decide, by decide, by decide⟩, ⟨off (ro (r 1) (r 0) (r 0) 0), sp, rfl, by decide⟩,
    ro (r 1) (.const 0) (r 0) 0x099, sp1 0x3F00, rfl, by decide, by decide, by decide, by decide, ⟨by decide, by decide, by decide, by decide⟩⟩

/-- A request of the cluster-shared memory is translated at once and its entry waits for its data. -/
theorem witness_channel_load :
    (∃ (op : RIOp) (u : State) (q : MemReq), sp.Holds .s op.xa ∧ (sp.ctx.chan false).ents.length < 32 ∧
      sp.loadAccess partL (scalarReq op.md (sp.valS op.xa + op.imm.signExtend 64) (sp.ctx.guard op.pred op.pn) sp.cur.scope) =
        (u, .ok q) ∧ q.space ≠ .sp) ∧
    (∃ (op : RIOp) (u : State) (t : Trap), sp.Holds .s op.xa ∧
      sp.loadAccess partL (scalarReq op.md (sp.valS op.xa + op.imm.signExtend 64) (sp.ctx.guard op.pred op.pn) sp.cur.scope) =
        (u, .trap t)) ∧
    (∃ (op : ROp) (s : State), s.Holds .s op.xa ∧ s.Holds .s op.xb ∧ s.Holds .v op.xb ∧
      (laneReq op.md (s.valS op.xa) (s.ctx.lanes op.pred op.pn) s.cur.scope fun _ => 0).active = false) ∧
    (∃ (op : RIOp) (s : State), s.Holds .s op.xa ∧ 32 ≤ (s.ctx.chan (op.dst.getLsbD 0)).ents.length ∧
      (s.ctx.chan (op.dst.getLsbD 0)).popped = (s.ctx.chan (op.dst.getLsbD 0)).ents.length) ∧
    (∃ (op : RIOp) (s : State), s.Holds .s op.xa ∧ s.cur.before = none ∧ mdSpace op.md = .sp ∧ op.dst.getLsbD 1 = false ∧
      s.ctx.guard op.pred op.pn = true ∧ (s.ctx.chan (op.dst.getLsbD 0)).ents.length < 32 ∧
      (s.valS op.xa + op.imm.signExtend 64).toNat = 0x3FF8 ∧ s.SpIn (s.valS op.xa + op.imm.signExtend 64) 8) ∧
    (∃ (op : ROp) (s : State), s.ctx.guard op.pred op.pn = true ∧ (s.cur.head (op.dst.getLsbD 0)).isSome = true ∧
      s.ctx.csr.done.getLsbD 8 = false ∧
      (s.ctx.chan (op.dst.getLsbD 0)).ents.length < (s.ctx.chan (op.dst.getLsbD 0)).popped + 1 + bitsOf op.md.toNat 5 0) ∧
    ∃ (op : ROp) (s : State), s.ctx.guard op.pred op.pn = true ∧ s.cur.head (op.dst.getLsbD 0) = none ∧
      (s.ctx.chan (op.dst.getLsbD 0)).popped + bitsOf op.md.toNat 5 0 = (s.ctx.chan (op.dst.getLsbD 0)).ents.length ∧
      bitsOf op.md.toNat 5 0 = 2 :=
  let e : QEntry := ⟨false, 0, .ready, none, 0, 0⟩
  ⟨⟨{ ri (.const 8) 0 0x1C0 with dst := 0 }, _, _, trivial, by decide, rfl, by decide⟩,
    ⟨{ ri (.const 1) 0 0x1C0 with dst := 0 }, _, _, trivial, rfl⟩,
    ⟨off (ro (.const 0) (.const 4) (r 0) 0), z, trivial, trivial, trivial, by decide⟩,
    ⟨{ ri (.const 0) 0 0 with dst := 0 }, withC { Ctx.reset with q0 := ⟨List.replicate 32 e, 32, 0, []⟩ }, trivial, by decide, by decide⟩,
    ⟨{ ri (r 1) 0x8 0x0C0 with dst := 0 }, sp1 0x3FF0, rfl, rfl, by decide, by decide, by decide, by decide, by decide,
      ⟨by decide, by decide, by decide, by decide⟩⟩,
    ⟨{ ro (r 0) (r 0) (r 0) 1 with dst := 0 }, let s := withC { Ctx.reset with q0 := ⟨[e], 0, 0, []⟩ }; { s with cur := { s.cur with head0 := some e } },
      by decide, by decide, by decide, by decide⟩,
    { ro (r 0) (r 0) (r 0) 2 with dst := 1 }, withC { Ctx.reset with q1 := ⟨[e, e, e], 1, 0, []⟩ }, by decide, by decide, by decide, by decide⟩

/-- Walker 1 stands at its first element, a byte at 0 of `sp`; 2 is exhausted; 3 is malformed. -/
def walks : State := withC { spc with
  walkers := [(1, ⟨0, [0, 0, 0, 0, 0, 0], false, false⟩), (2, ⟨0, [0, 0, 0, 0, 0, 0], true, false⟩),
    (3, ⟨0, [0, 0, 0, 0, 0, 0], false, true⟩)] }

theorem witness_walker :
    (∃ (op : ROp), walks.Holds .s op.xa ∧ walks.Holds .s op.xb ∧ walks.ctx.guard op.pred op.pn = true ∧
      walks.Unwatched .sp true false [(0, walks.valS op.xa + walks.valS op.xb, 64)] ∧ (walks.valS op.xa + walks.valS op.xb).toNat % 64 = 0 ∧
      walks.SpIn (walks.valS op.xa + walks.valS op.xb) 64 ∧ walks.isPoisoned (walks.spPlace (walks.valS op.xa + walks.valS op.xb)) 64 = false) ∧
    (∃ (op : ROp), (walks.valS op.xa + walks.valS op.xb).toNat % 64 ≠ 0) ∧
    (∃ (op : ROp), (walks.ctx.walker (selNum op.xa)).bad = true ∧ walks.Holds .s op.xb ∧ walks.Holds .s op.xc) ∧
    (∃ (op : ROp), (walks.ctx.walker (selNum op.xa)).bad = false ∧ (walks.ctx.walker (selNum op.xa)).exh = true ∧
      (walks.ctx.walkReq (walks.ctx.walker (selNum op.xa)) op.pred op.pn 0).active = true ∧ (walks.ctx.chan true).ents.length < 32) ∧
    (∃ (op : ROp), (walks.ctx.walker (selNum op.xa)).bad = false ∧
      (walks.ctx.walkReq (walks.ctx.walker (selNum op.xa)) op.pred op.pn 0).active = false) ∧
    ∃ (op : ROp), let w := walks.ctx.walker (selNum op.xa)
      w.bad = false ∧ w.exh = false ∧ w.vec = false ∧ mdSpace w.lmod = .sp ∧ walks.ctx.guard op.pred op.pn = true ∧
      w.addr.toNat % 2 ^ bitsOf w.lmod.toNat 7 6 = 0 ∧ walks.SpIn w.addr (2 ^ bitsOf w.lmod.toNat 7 6) ∧ walks.Holds .s op.xc :=
  ⟨⟨ro (r 0) (.const 64) (r 0) 0, rfl, trivial, by decide +kernel, Or.inl rfl, by decide +kernel, ⟨by decide +kernel, by decide +kernel, by decide +kernel, by decide +kernel⟩, by decide +kernel⟩,
    ⟨ro (r 0) (.const 32) (r 0) 0, by decide +kernel⟩, ⟨ro (r 3) (r 0) (r 0) 0, by decide +kernel, rfl, rfl⟩,
    ⟨ro (r 2) (r 0) (r 0) 0, by decide +kernel, by decide +kernel, by decide +kernel, by decide +kernel⟩, ⟨off (ro (r 1) (r 0) (r 0) 0), by decide +kernel, by decide +kernel⟩,
    ro (r 1) (r 0) (.const 7) 0, by decide +kernel, by decide +kernel, by decide +kernel, by decide +kernel, by decide +kernel, by decide +kernel,
      ⟨by decide +kernel, by decide +kernel, by decide +kernel, by decide +kernel⟩, trivial⟩

theorem witness_store :
    (∃ (op : ROp) (s : State), s.Holds .s op.xc ∧ s.Holds .p op.xc ∧ bitsOf op.md.toNat 7 6 = 3 ∧ s.Holds .s op.xa ∧ s.Holds .s op.xb ∧
      mdSpace op.md = .sp ∧ s.ctx.guard op.pred op.pn = true ∧ s.Unwatched .sp false true [(0, s.valS op.xa + s.valS op.xb, 8)] ∧
      (s.valS op.xa + s.valS op.xb).toNat = 0x3FF8 ∧ s.SpIn (s.valS op.xa + s.valS op.xb) 8) ∧
    (∃ (op : ROp) (u : State) (q : MemReq), mdSpace op.md ≠ .sp ∧
      sp.access partT (scalarReq op.md (sp.valS op.xa + sp.valS op.xb) (sp.ctx.guard op.pred op.pn) sp.cur.scope) false true = (u, .ok q)) ∧
    (∃ (op : ROp) (u : State) (t : Trap),
      sp.access partT (scalarReq op.md (sp.valS op.xa + sp.valS op.xb) (sp.ctx.guard op.pred op.pn) sp.cur.scope) false true = (u, .trap t)) ∧
    (∃ (op : ROp) (s : State), s.Holds .s op.xa ∧ s.Holds .v op.xc ∧ mdSpace op.md = .sp ∧ s.ctx.lanes op.pred op.pn = 0) ∧
    (∃ (op : ROp) (s : State), s.Holds .v op.xc ∧ bitsOf op.md.toNat 3 0 = 8 ∧ s.ctx.lanes op.pred op.pn ≠ 0 ∧
      s.SpIn (s.valS op.xa + s.valS op.xb) 64 ∧ (s.valS op.xa + s.valS op.xb).toNat % 64 = 0 ∧
      s.Unwatched .sp false true ((vecSpans (s.ctx.lanes op.pred op.pn) 8).map fun x => (x.1, 0#64, x.2))) ∧
    ∃ (op : ROp) (s : State), s.Holds .s op.xa ∧ s.Holds .v op.xb ∧ s.Holds .v op.xc ∧ mdSpace op.md = .sp ∧ bitsOf op.md.toNat 7 6 = 2 ∧
      ∀ k, k < 64 → (s.valS op.xa + BitVec.ofInt 64 (sextN 32 (vlane (s.valV op.xb) k))).toNat % 4 = 0 ∧
        s.SpIn (s.valS op.xa + BitVec.ofInt 64 (sextN 32 (vlane (s.valV op.xb) k))) 4 :=
  ⟨⟨ro (r 1) (.const 0) (r 0) 0x0C0, sp1 0x3FF8, rfl, rfl, by decide, rfl, trivial, by decide, by decide, Or.inl rfl, by decide,
      ⟨by decide, by decide, by decide, by decide⟩⟩,
    ⟨ro (.const 8) (.const 0) (r 0) 0x1C0, _, _, by decide, rfl⟩, ⟨ro (.const 1) (.const 0) (r 0) 0x1C0, _, _, rfl⟩,
    ⟨off (ro (r 0) (r 0) (r 0) 0), sp, rfl, rfl, by decide, by decide⟩,
    ⟨ro (r 0) (.const 64) (r 0) 0x078, sp, rfl, by decide, by decide, ⟨by decide, by decide, by decide, by decide⟩, by decide, Or.inl rfl⟩,
    ro (r 1) (r 0) (r 0) 0x080, sp1 0x3FFC, rfl, rfl, rfl, by decide, by decide, fun k _ => by
      have h : vlane (State.valV (sp1 0x3FFC) (r 0)) k = 0 := by
        have e : State.valV (sp1 0x3FFC) (r 0) = 0 := rfl
        unfold vlane velem
        rw [e]
        simp
      rw [show (ro (r 1) (r 0) (r 0) 0x080).xb = r 0 from rfl, h]
      exact ⟨by decide, by decide, by decide, by decide, by decide⟩⟩

theorem witness_atomic :
    (∃ (op : ROp) (s : State), s.Holds .s op.xa ∧ s.Holds .s op.xb ∧ s.Holds .s op.xc ∧ s.ctx.q1.ents.length = 31 ∧ mdSpace op.md = .sp ∧
      s.ctx.guard op.pred op.pn = true ∧ (s.valS op.xa).toNat = 0x3FF8 ∧ s.SpIn (s.valS op.xa) 8) ∧
    (∃ (op : ROp) (u : State) (q : MemReq),
      sp.access partT ⟨mdSpace op.md, .scalar 8 false, sp.valS op.xa, 1, [], sp.cur.scope, [], 0, false⟩ true true = (u, .ok q)) ∧
    (∃ (op : ROp) (u : State) (t : Trap),
      sp.access partT ⟨mdSpace op.md, .scalar 8 false, sp.valS op.xa, 1, [], sp.cur.scope, [], 0, false⟩ true true = (u, .trap t)) ∧
    (∃ (op : ROp) (s : State), s.ctx.guard op.pred op.pn = false ∧ s.ctx.q1.ents.length < 32) ∧
    ∃ (s : State) (a : ACmd), (a.n = 4 ∨ a.n = 8) ∧ 2 ^ 48 ≤ a.place ∧ s.isPoisoned a.place a.n = false ∧ a.mlog = false ∧
      ∀ p ∈ (s.coreAt 0).stq, p.ctx ≠ 0 :=
  let e : QEntry := ⟨false, 0, .ready, none, 0, 0⟩
  ⟨⟨ro (r 1) (r 0) (.const 1) 0x0C0, withC { spc with sRegs := [(1, 0x3FF8)], q1 := ⟨List.replicate 31 e, 0, 0, []⟩ }, rfl, rfl, trivial,
      by decide, by decide, by decide, by decide, ⟨by decide, by decide, by decide, by decide⟩⟩,
    ⟨ro (.const 8) (r 0) (r 0) 0x1C0, _, _, rfl⟩, ⟨ro (.const 4) (r 0) (r 0) 0x1C0, _, _, rfl⟩,
    ⟨off (ro (r 0) (r 0) (r 0) 0), z, by decide, by decide⟩,
    z, ⟨.aadd, .cl, 0, 2 ^ 48, 0, false, 8, 1, 0, false, 0, 0⟩, Or.inr rfl, Nat.le_refl _, by decide, rfl, fun _ h => absurd h (List.not_mem_nil)⟩

/-! Witnesses: commands (O23 to O25). -/

/-- A task with slots o0 and o1, an FP32 shape of tile 1 and an integer one of tile 2, each of one row and column, tile 1 claimed and in
physical tile 0; s1, s2 and s9 hold 400H, C00H and 128. -/
def mxc : Ctx := { spc with csr := { spc.csr with tshp := [(1, 0x400), (2, 0x800)] }, omap := [(0, 3), (1, 4)], sRegs := [(1, 0x400), (2, 0xC00), (9, 128)] }
def tile1 : Tile := ⟨0, 7, 1, .dirty, some 0, none, none, false, false, 0, 1, ⟨0, false, 0, 0⟩, false, 0⟩
def mx : State := (withC mxc).updCore 0 fun k => { k with tiles := [tile1] }

theorem witness_matrix_held :
    ((∀ o ∈ [0, 1], (mx.ctx.slotPhys o).isSome = true) ∧ mx.ctx.guard 0 false = true ∧ mx.ctx.guard 0 true = false ∧
      ([0, 1, 2].find? fun o => (mx.ctx.slotPhys o).isNone) = some 2 ∧ mx.ctx.tshp 1 ≠ 0 ∧ mx.ctx.tshp 3 = 0 ∧
      mx.restorePoison true 1 = none ∧ mx.restorePoison true 2 = none) ∧
    (∃ op : ROp, mx.Holds .s op.xa ∧ mx.Holds .s op.xb ∧ mdSpace op.md = .cl ∧
      (mx.heldAccess (mdSpace op.md) (mx.valS op.xa + mx.valS op.xb) 4096 false true).2 = .inr (clBase 0)) ∧
    (∃ op : ROp, mx.Holds .s op.xa ∧ mx.Holds .s op.xb ∧ mx.SpIn (mx.valS op.xa + mx.valS op.xb) 4096 ∧ mdSpace op.md = .sp ∧
      (mx.valS op.xa + mx.valS op.xb).toNat % 64 = 0 ∧ (mx.ctx.slotPhys op.dst.toNat).isSome = true ∧
      (mx.ctx.slotPhys (selNum op.xc)).isSome = true ∧ mx.ctx.guard op.pred op.pn = true) ∧
    (∃ op : ROp, mx.Holds .s op.xa ∧ mx.Holds .s op.xb ∧ mx.SpIn (mx.valS op.xa + mx.valS op.xb) (shpBytes (mx.ctx.tshp op.dst.toNat)) ∧
      mdSpace op.md = .sp ∧ mx.ctx.tshp op.dst.toNat ≠ 0 ∧ mx.ctx.tshp (selNum op.xc) ≠ 0) ∧
    (∃ op : ROp, mx.Holds .s op.xb ∧ mx.Holds .s op.xc ∧ mx.Holds .v op.xa ∧ mx.SpIn (mx.valS op.xb) 64 ∧
      (mx.drainRace (selNum op.xa) (mx.valS op.xb) 0 0).2 = none ∧
      mx.ctx.tshp (selNum op.xa) ≠ 0 ∧ mx.ctx.lanes op.pred op.pn ≠ 0 ∧ mx.ctx.tshp op.dst.toNat ≠ 0) ∧
    (∃ op : ROp, mx.Holds .s op.xc ∧ (mx.valS op.xc).toNat = (mmaShape 8).1 ∧ bitsOf op.md.toNat 3 0 = 8 ∧
      shpInt (mx.ctx.tshp op.dst.toNat) = true ∧ (mx.ctx.slotPhys (selNum op.xa)).isSome = true ∧
      (mx.ctx.slotPhys (selNum op.xb)).isSome = true) ∧
    ∃ op : ROp, mx.Holds .s op.xc ∧ (mx.valS op.xc).toNat = 64 ∧ mx.ctx.tshp op.dst.toNat ≠ 0 ∧
      shpInt (mx.ctx.tshp op.dst.toNat) = false ∧ (mx.ctx.slotPhys (selNum op.xa)).isSome = true :=
  ⟨by decide +kernel, ⟨{ ro (r 0) (r 0) (r 0) 0x100 with dst := 0 }, rfl, rfl, by decide, by decide +kernel⟩,
    ⟨{ ro (r 0) (.const 64) (r 0) 0 with dst := 1 }, rfl, trivial, spIn (by decide), by decide +kernel⟩,
    ⟨{ ro (r 0) (.const 64) (r 1) 0 with dst := 2 }, rfl, trivial, spIn (by decide), by decide +kernel⟩,
    ⟨ro (r 1) (.const 64) (r 0) 0, trivial, rfl, rfl, spIn (by decide), by decide +kernel⟩,
    ⟨{ ro (r 0) (r 1) (r 9) 8 with dst := 2 }, rfl, by decide +kernel⟩, ro (r 0) (r 1) (.const 64) 0, trivial, by decide +kernel⟩

/-- OMCLAIM of o0 to o2 with a free slot and of o0 to o63 without enough; TCFG of a new, of a claimed and of a released tile, with all eight
physical tiles taken, and with a bad value; TROW of the tile's only row. -/
theorem witness_matrix_now :
    (∃ op : ROp, mx.ctx.guard op.pred op.pn = true ∧
      (∀ o ∈ [0, 1, 2], ∀ p ∈ mx.ctx.slotPhys o, mx.isPoisoned (omBase 0 p) 4096 = false) ∧
      (∀ o ∈ [0, 1, 2], mx.ctx.heldRel.contains o = false) ∧ bitsOf op.md.toNat 6 0 = 3 ∧ 1 ≤ mx.core.omFree.length) ∧
    (∃ (op : ROp) (s : State), s.ctx.guard op.pred op.pn = true ∧ bitsOf op.md.toNat 6 0 = 64 ∧ s.core.omFree.length < 62 ∧
      s.ctx.heldRel = []) ∧
    (∃ op : ROp, mx.Holds .s op.xa ∧ (mx.valS op.xa).toNat = 0x400 ∧ mx.tileWaits 3 false = false ∧ mx.myTile 3 = none ∧
      mx.core.freePhys = some 1 ∧ mx.myTile 1 = some tile1 ∧ mx.tileWaits 1 false = false) ∧
    (∃ (op : ROp) (s : State), s.Holds .s op.xa ∧ (s.valS op.xa).toNat = 0x400 ∧ s.tileWaits 3 false = false ∧ s.myTile 3 = none ∧
      s.core.freePhys = none) ∧
    (∃ op : ROp, mx.Holds .s op.xa ∧ (mx.valS op.xa).toNat = 0) ∧
    (∃ op : ROp, mx.Holds .s op.xa ∧ bitsOf (mx.valS op.xa).toNat 11 10 = 3) ∧
    mx.tilePoison true 1 = none ∧ mx.tilePoison false 1 = none ∧ mx.isPoisoned (tileBase 0 0) 4096 = false ∧
    ∃ op : ROp, mx.Holds .s op.xb ∧ mx.ctx.lanes op.pred op.pn ≠ 0 ∧ mx.tileWaits (selNum op.xa) true = false ∧
      (mx.valS op.xb).toNat + 1 = shpRows (mx.ctx.tshp (selNum op.xa)) :=
  ⟨⟨ro (r 0) (r 0) (r 0) 3, by decide +kernel⟩,
    ⟨ro (r 0) (r 0) (r 0) 64, mx.updCore 0 fun k => { k with omFree := List.range 61 }, by decide +kernel⟩,
    ⟨ro (r 1) (r 0) (r 0) 0, rfl, by decide +kernel⟩,
    ⟨ro (r 1) (r 0) (r 0) 0, mx.updCore 0 fun k => { k with tiles := (List.range 8).map fun p => { tile1 with ctx := 1, t := p, phys := some p } },
      rfl, by decide +kernel⟩,
    ⟨ro (r 0) (r 0) (r 0) 0, rfl, by decide +kernel⟩, ⟨ro (r 2) (r 0) (r 0) 0, rfl, by decide +kernel⟩, by decide +kernel, by decide +kernel,
    by decide +kernel, ro (r 1) (r 0) (r 0) 0, rfl, by decide +kernel⟩

/-- The commands of the die: aligned and misaligned records, s4 = 80H and s5 = 40H, an owned handle and one beyond, permissions given and not. -/
def dc : State := { withC { spc with
  sRegs := [(4, 0x80), (5, 0x40), (6, 0x41020000000#64)], csr := { mxc.csr with bndhi := 0x3FFF }, omap := [(0, 3), (1, 4)],
  task := some { task with clSize := 4096, hCnt := 2, bars := [5] } } with
  jobs := [(1, { Job.zero with perm := 0x2E0 })] }

theorem witness_die_commands :
    (∃ op : COp, dc.Holds .s (.reg op.ca) ∧ dc.Holds .s (.reg op.cb) ∧ dc.Holds .s (.reg op.cc) ∧
      (dc.ctx.sGet op.ca.toNat).toNat % 128 = 0 ∧ spaceOf (op.md.toNat % 4) = .sp ∧
      dc.inBounds 0 dc.ctx .sp (dc.ctx.sGet op.ca.toNat).toNat 128 = true ∧ dc.ctx.guard op.pred op.pn = true) ∧
    (∃ op : COp, (dc.ctx.sGet op.ca.toNat).toNat % 128 ≠ 0 ∧ (dc.ctx.sGet op.ca.toNat).toNat % 64 = 0 ∧
      dc.inBounds 0 dc.ctx .sp (dc.ctx.sGet op.ca.toNat).toNat 64 = true) ∧
    (∃ d : Word, dc.descTrap d = none) ∧
    dc.ctx.ownsHandle 1 = true ∧ dc.ctx.ownsHandle 2 = false ∧ (∀ i ∈ [5, 6, 7, 9], dc.permBit dc.ctx i = true) ∧
    (∀ i ∈ [5, 6, 7, 9], sp.permBit sp.ctx i = false) ∧ dc.ctx.tk.bars.length = 1 ∧
    ∃ op : YOp, dc.Holds .s (.reg op.yr) ∧ dc.ctx.guard op.pred false = true :=
  ⟨⟨co 4 5 0 0, rfl, rfl, rfl, by decide +kernel⟩, ⟨co 5 4 0 0, by decide +kernel⟩,
    ⟨BitVec.ofNat 64 (64 + 2 ^ 16 + 32 * 2 ^ 19 + 2 ^ 27 + 2 ^ 31), by decide +kernel⟩, by decide, by decide, by decide, by decide, by decide, yo 4 1, rfl, by decide⟩

/-- The fabric and collectives accepted, permissions 0 to 4, a domain of the whole 1x1x1 torus, and a handle; s4 = 80H, s5 = 40H, s6 a FAA
word for handle 1 and a result at 8, s7 weights. -/
def fb : State := { withC { spc with
    sRegs := [(4, 0x80), (5, 0x40), (6, 0x100000008#64), (7, 0x421)]
    task := some { task with hCnt := 2 } } with feat := 0x38, domain := 0x8000000#64, jobs := [(1, { Job.zero with perm := 0x1F })] }

theorem witness_fabric_commands :
    (∃ op : COp, fb.Holds .s (.reg op.ca) ∧ fb.Holds .s (.reg op.cb) ∧ fb.Holds .s (.reg op.cc) ∧ fb.ctx.guard op.pred op.pn = true ∧
      (fb.ctx.sGet op.ca.toNat).toNat % 64 = 0 ∧ (fb.ctx.sGet op.cb.toNat).toNat % 16 = 0 ∧ spaceOf (bitsOf op.md.toNat 4 3) = .sp ∧
      fb.inBounds 0 fb.ctx .sp (fb.ctx.sGet op.ca.toNat).toNat 640 = true ∧
      fb.pkbWatch .sp (fb.ctx.sGet op.ca.toNat) (fb.ctx.sGet op.cb.toNat) = none ∧ fb.ctx.ownsHandle op.cc.toNat = true ∧
      inDomain fb.nodecfg fb.domain (bitsOf (fb.ctx.sGet op.ca.toNat).toNat 62 48) = true) ∧
    (∃ op : COp, let x := fb.ctx.sGet op.cc.toNat
      bitsOf x.toNat 31 19 = 0 ∧ bitsOf x.toNat 63 39 = 0 ∧ bitsOf x.toNat 18 0 = 8 ∧ fb.ctx.ownsHandle (bitsOf x.toNat 38 32) = true ∧
      fb.inBounds 0 fb.ctx .sp 8 8 = true ∧ (fb.ctx.sGet op.ca.toNat).toNat % 8 = 0) ∧
    (∃ op : COp, (fb.ctx.sGet op.cb.toNat).toNat ≤ 15) ∧
    (∃ op : COp, let a := (fb.ctx.sGet op.ca.toNat).toNat
      a < 2 ^ 12 ∧ bitsOf a 3 0 ≠ 0 ∧ bitsOf a 7 4 ≠ 0 ∧ bitsOf a 11 8 ≠ 0) ∧
    (∀ n ∈ [3, 4, 5], fb.feat.getLsbD n = true ∧ z.feat.getLsbD n = false) ∧
    (∀ n ∈ [0, 1, 2, 3, 4], fb.permBit fb.ctx n = true ∧ sp.permBit sp.ctx n = false) :=
  ⟨⟨co 4 5 1 0, rfl, rfl, rfl, by decide +kernel⟩, ⟨co 4 5 6 0, by decide +kernel⟩, ⟨co 4 0 0 0, by decide⟩, ⟨co 7 0 0 0, by decide⟩,
    by decide, by decide⟩

/-! Witnesses: the Y slot, and a core's events (O26 to O30). -/

/-- The last handle and the first beyond, the last counter of job 1 and one beyond, the last barrier and one beyond. -/
theorem witness_wait : dc.ctx.ownsHandle 1 = true ∧ dc.ctx.ownsHandle 2 = false ∧ dc.ctx.ownsCounter 127 = true ∧
    dc.ctx.ownsCounter 128 = false ∧ dc.Holds .s (.reg 4) ∧ 0 < dc.ctx.tk.bars.length ∧ dc.ctx.tk.bars.length ≤ 1 :=
  ⟨by decide, by decide, by decide, by decide, rfl, by decide, by decide⟩

/-- A pending load holds ACQ, a store not yet performed REL and FENCEX, at fabric scope one not yet acknowledged too; nothing holds them in an idle context, whose reads a record names. -/
theorem witness_ordering :
    (∃ s : State, s.ctx.q0.ents.any (fun e => e.stat == .pending) = true) ∧
    (∃ (s : State) (op : YOp), bitsOf op.imm.toNat 2 0 = 0 ∧
      s.core.stq.any (fun p => p.ctx == s.cur.ctx && p.serial == s.ctx.tk.serial) = true) ∧
    (∃ s : State, s.core.stq = [] ∧ s.cur.scope = 4 ∧ s.core.acks.any (fun a => a.ctx == s.cur.ctx && a.serial == s.ctx.tk.serial && a.writes) = true) ∧
    ∃ (s : State) (sl l : Nat), s.ctx.guard 0 false = true ∧ s.ctx.q0.ents = [] ∧ s.core.stq = [] ∧ s.cur.scope ≠ 0 ∧
      s.raceSlot s.cur.core s.cur.ctx = some sl ∧ clBase 0 / 2 ^ 22 = l * 64 / 2 ^ 22 ∧
      (tget RaceRec.zero s.races l).rd.contains sl = true :=
  let e : QEntry := ⟨false, 0, .pending, none, 0, 0⟩
  ⟨⟨withC { spc with q0 := ⟨[e], 0, 0, []⟩ }, rfl⟩, ⟨sp.updCore 0 fun k => { k with stq := [⟨0, 7, 1, [], 0, 0, 0, false⟩] }, yo 0 0, by decide, by decide⟩,
    ⟨let s := sp.updCore 0 fun k => { k with acks := [⟨0, 7, 1, 2 ^ 60, .store⟩] }; { s with cur := { s.cur with scope := 4 } }, by decide⟩,
    { sp with races := [(2 ^ 46, ⟨[0], .none⟩)], cur := { sp.cur with scope := 1 } }, 0, 2 ^ 46, by decide +kernel⟩

theorem witness_check : (∀ cc : Fin 6, ∃ (op : YOp) (s : State) (ya xb : Sel), bitsOf op.imm.toNat 2 0 = cc.val ∧
      chkFirst op.yr = some ya ∧ selOfBits (BitVec.ofNat 10 (bitsOf op.imm.toNat 12 3)) = some xb ∧ s.Holds .s ya ∧ s.Holds .s xb ∧
      s.ctx.guard op.pred op.pn = true ∧ (s.valS ya).toNat = 5 ∧ (s.valS xb).toNat = 5) ∧
    ∃ (op : YOp) (s : State) (ya : Sel) (x : Vec), chkFirst op.yr = some ya ∧ s.ctx.srcVal s.cur ya = .vector x ∧ s.Holds .s ya :=
  ⟨fun cc => ⟨yo 5 (BitVec.ofNat 13 (0x305 * 8 + cc.val)), withC (sregs [(5, 5)]), .reg 5, .const 5, by revert cc; decide, rfl,
      by revert cc; decide, rfl, trivial, by revert cc; decide, by decide, by decide⟩,
    yo 0x50 0, withC { Ctx.reset with latA := [.vector 0] }, .latch 1 0, 0, rfl, rfl, Or.inr rfl⟩

/-- A task in context 0 whose next bundle adds the head of queue 0 into s1, the queue empty, behind another that is READY. -/
def popper : State :=
  ((z.withFetchWord 512 (encodeBundle ⟨0, false, false, 0, some (.add (ro (.queue false) (r 0) (r 0) 0)), none, none, none, none, none, none,
    none⟩).toNat).updCtxAt 0 0 fun c => { c with stallN := 64, task := some task, q0 := ⟨[⟨false, 0, .pending, none, 0, 0⟩], 0, 1, []⟩ }).setCtxAt 0 1
    { Ctx.reset with stat := .ready, age := 1024 }

theorem witness_core :
    (∃ p : Pend, (withC { spc with pend := [p], count := 9 }).ctx.pend = [p] ∧ p.due ≤ 9 ∧ p.writes = [.s 63 5]) ∧
    (∃ s : State, s.ctx.stat = .issuing ∧ s.ctx.normBusy 3 = true) ∧
    (∃ s : State, s.ctx.stat = .issuing ∧ s.ctx.held = [] ∧ s.ctx.irrev = [] ∧ s.ctx.waitOp = none ∧ s.ctx.endReq = none ∧
      s.ctx.closing = true) ∧
    (∃ s : State, s.ctx.stat = .issuing ∧ s.ctx.held = [] ∧ s.ctx.irrev = [] ∧ s.ctx.waitOp = none ∧ s.ctx.endReq = none ∧
      s.ctx.closing = false ∧ s.ctx.segOpen = true ∧ s.ctx.segN = 256) ∧
    (∀ w ∈ [Wait.handle 3 .free 1, .counter 5 0 1, .barrier 15 1], ∃ s : State, s.ctx.waitOp = some w ∧ s.ctx.stat = .waiting ∧
      s.ctx.endReq = none ∧ s.waitHolds 0 0 w = true) ∧
    (∀ sh ∈ [Shape.scalar 8 true, .vector 2 1, .vector 0 0, .lanes 8 false], ∃ (s : State) (e : QEntry) (q : MemReq),
      (s.ctx.chan false).ents = [e] ∧ e.stat = .pending ∧ e.req = some q ∧ q.shape = sh ∧ q.scope ≠ 0 ∧
      (∀ r ∈ q.runs, onAperture r.pa = false ∧ r.off = 0) ∧ q.runs.length = 1 ∧
      (q.runs.any fun r => s.isPoisoned r.pa r.n || s.keyDead r.key r.pa) = false) ∧
    (∃ (s : State) (a : ApWait), s.arg 1 = 1 ∧ s.core.acks = [a] ∧ a.ctx = 0 ∧ a.kind = .store) ∧
    (∃ (s : State) (p : PStore) (u : SUnit), s.arg 1 = 0 ∧ s.core.acks = [] ∧ s.core.stq = [p] ∧ p.ctx = 0 ∧ p.units = [u] ∧ u.pa = 2 ^ 46 ∧ u.mlog = false ∧
      u.bytes = [(5, 0xFF)]) ∧
    (popper.ctx.stat = .issuing ∧ popper.ctx.csr.ldqsw.toNat = 64 ∧ popper.ctx.stallN = 64 ∧ (popper.ctxWaits 0 0).pop = true ∧
      popper.core.othersReady 0 = true ∧ popper.ctx.segOpen = false ∧ popper.ctx.closing = false ∧ popper.core.sliceUp = true) ∧
    ∃ s : State, s.ctx.stat = .issuing ∧ s.core.gap = 0 ∧ s.ctx.sliceN = 1024 ∧ s.ctx.closing = false :=
  let q (sh : Shape) : MemReq := ⟨.cl, sh, 64, 1, [], 1, [⟨0, 64, 2 ^ 46, 8, 0, false⟩], if sh = .vector 2 1 then 1 else 0, false⟩
  let e (sh : Shape) : QEntry := ⟨false, 0, .pending, some (q sh), 0, 0⟩
  let u : SUnit := ⟨2 ^ 46, [(5, 0xFF)], 0, false⟩
  ⟨⟨⟨9, 0, [.s 63 5], none, 0, 0, false⟩, rfl, by decide, rfl⟩,
    ⟨withC { spc with pend := [⟨9, 1, [.norm 3 0], none, 0, 0, false⟩] }, by decide +kernel⟩,
    ⟨withC { spc with closing := true }, by decide +kernel⟩, ⟨withC { spc with segOpen := true, segN := 256 }, by decide +kernel⟩,
    fun w hw => ⟨withC { spc with waitOp := some w, stat := .waiting }, rfl, rfl, rfl, by revert w; decide +kernel⟩,
    fun sh hs => ⟨withC { spc with q0 := ⟨[e sh], 0, 1, []⟩ }, e sh, q sh, by revert sh; decide +kernel⟩,
    ⟨args (sp.updCore 0 fun k => { k with acks := [⟨0, 7, 1, 2 ^ 60, .store⟩] }) [0, 1], ⟨0, 7, 1, 2 ^ 60, .store⟩, by decide⟩,
    ⟨sp.updCore 0 fun k => { k with stq := [⟨0, 7, 1, [u], 1, 0, 0, false⟩] }, ⟨0, 7, 1, [u], 1, 0, 0, false⟩, u, by decide +kernel⟩, by decide +kernel,
    withC { spc with sliceN := 1024 }, by decide +kernel⟩

theorem witness_partition :
    (∀ n ∈ [8, 10, 12], ∃ s : State, s.arg 0 = n ∧ s.arg 2 ≠ 1 ∧ s.ctx.drowsy = 0 ∧ s.ctx.stat ≠ .free ∧ s.ctx.segOpen = true ∧
      s.ctx.feeding = false ∧ s.ctx.errN = 0) ∧
    (∀ n ∈ [4, 7, 9], ∀ e ∈ [1, 2], ∃ s : State, s.arg 0 = n ∧ s.arg 2 = e) ∧
    (∃ s : State, s.core.xrole = .none ∧ s.core.xqueue = [.trap 0] ∧ (s.ctxAt 0 0).stat = .frozen ∧ s.ctx.task = some task) ∧
    (∃ s : State, s.core.xrole = .none ∧ s.core.xqueue = [.super 3] ∧ (s.ctxAt 0 3).stat = .frozen ∧ s.supEntry = some 0x20200) ∧
    (∃ (s : State) (d n sp : Nat) (nd : Node) (r : BitVec 1024) (h : BitVec 3072), s.core.xrole = .none ∧ s.core.xqueue = [.urgent 0] ∧
      s.urgentInfo 0 0 = some (d, n, nd, r, h, sp) ∧ shConstBlk h = 0 ∧ lrNosl r = 0 ∧ s.core.port = some 3 ∧
      s.core.zeroing = false ∧ s.closeFirst 0 = false) ∧
    (∃ s : State, s.ctx.preempt = true ∧ s.ctx.pend = [] ∧ s.ctx.stat = .waiting) ∧
    (∃ s : State, s.ctx.preempt = true ∧ s.ctx.pend = [] ∧ s.ctx.stat = .issuing ∧ s.ctx.segOpen = false ∧ s.ctx.closing = false) ∧
    (∃ s : State, s.ctx.stat = .frozen ∧ s.ctx.frozenN = 256 ∧ XReq.trap s.cur.ctx ∉ s.core.xqueue) ∧
    (∃ (s : State) (cs sub : Nat), s.ctx.stat = .issuing ∧ s.bundleAt 0 0 s.ctx.pc = none ∧
      (s.fetchBlock 0 0 s.ctx.pc).2 = .trap cs sub ∧ cs ≠ 3) ∧
    ∃ s : State, s.ctx.stat = .issuing ∧ s.ctx.skips = false ∧ s.breakHit 0 0 = true :=
    ⟨fun n hn => ⟨args (withC { spc with segOpen := true }) [n, 0, 2], by revert n; decide⟩, fun n _ e _ => ⟨args z [n, 0, e], rfl, rfl⟩,
    ⟨(withC { spc with stat := .frozen, task := some task }).updCore 0 fun k => { k with xqueue := [.trap 0] }, by decide⟩,
    ⟨({ jobs with supProg := 0x20000, progs := [⟨0x20000, 0, 0, hdr⟩] }.setCtxAt 0 3 { spc with stat := .frozen }).updCore 0 fun k =>
      { k with xqueue := [.super 3] }, by decide +kernel⟩,
    ⟨((nodes { node1 with lrec := some (launch 1 0) }).setCtxAt 0 3 spc).updCore 0 fun k => { k with xqueue := [.urgent 0], port := some 3 },
      0, 0, 0, { node1 with lrec := some (launch 1 0) }, launch 1 0, hdr, by decide +kernel⟩,
    ⟨withC { spc with preempt := true, stat := .waiting }, by decide⟩, ⟨withC { spc with preempt := true }, by decide⟩,
    ⟨withC { spc with stat := .frozen, frozenN := 256 }, by decide⟩,
    ⟨jobs.setCtxAt 0 0 { spc with pc := 0x10000, task := some { task with prog := 0x10000 } }, 0x08, 0x01, by decide +kernel⟩,
    { withC { spc with dbgSkip := none, pc := 0x40 } with regs := [(dbgBase 0 + 8, 0x61)] }, by decide +kernel⟩

/-! Witnesses: the matrix engine, the Hearth and tasks (O31 to O34). -/

def cmd (k : MKind) (t : Option Nat) : MCmd := ⟨k, 0, 7, 1, t, 0x400, 2 ^ 48, ⟨0, false, 2, 0x1000⟩, 0, none⟩
/-- A command at the queue's head, not started, or started at cycle 1 with its last step in cycle 8. -/
def ent (k : MKind) (t : Option Nat) (st : Option Nat) : MQEntry := ⟨cmd k t, 0, st, 8, false, 0, false, 0, [], 0⟩
def eng (e : MQEntry) : State := mx.updCore 0 fun k => { k with cycle := 20, mq := [e] }
/-- The same with the pages of `paged` below it, and a save area for the tile. -/
def engp (e : MQEntry) : State := (paged (eng e)).updCore 0 fun k => { k with tiles := [{ tile1 with save := 0x1000, x := ⟨0, false, 2, 0x1000⟩ }] }
/-- A record of one dimension of one element at virtual 0 (R26), and one whose RANK is 0. -/
def rec1 (rank : Nat) : BitVec 512 := BitVec.ofNat 512 (rank * 2 ^ 443 + 2 ^ 64)
def drain1 (rank : Nat) : MQEntry := { ent (.tdrain false 0 0) (some 1) (some 1) with recd := rec1 rank }
/-- The eight physical tiles of context 1, with the state of each. -/
def eight (st : TileStat) (sv : Option Nat) : State := (paged (withC { spc with claim := true })).updCore 0 fun k => { k with
  cycle := 20, tiles := (List.range 8).map fun p => { tile1 with
    ctx := 1, t := p, phys := some p, stat := st, save := 0x1000, saving := if p = 0 then sv else none, x := ⟨0, false, 2, 0x1000⟩ } }

/-- A write to a page whose D bit is set changes nothing. -/
theorem page_same {s : State} {x : XCtx} {va : Word} {e a l : Nat} (h0 : va.toNat < 2 ^ 48) (h : s.walkFrom x.tenant va.toNat 3 x.root = .leaf e a l)
    (hd : pteD (s.pteAt a) = true) (hc : pteCont (s.pteAt a) = false) : (s.engPage 0 x .write va).1 = s := by
  simp only [State.engPage, State.walk, Nat.not_le.mpr h0, h, State.setD, hd, hc, if_false, if_true, Bool.false_eq_true]
  cases accessFault x .write e with
  | none => dsimp only; repeat' split
            all_goals rfl
  | some f => rfl

theorem witness_engine :
    (∃ e : MQEntry, (eng e).stalled (srcCore 0) = false ∧ (eng e).core.mmaWait = [] ∧ (eng e).core.mq = [e] ∧ e.start = none ∧ e.arrive < (eng e).core.cycle ∧ (eng e).tileHere 0 e.cmd = true) ∧
    (∀ k ∈ [MKind.omst 3, .omld 3, .omrel [0] [3], .tzero, .mma 0 1 128 8 8 false, .mma 0 1 64 2 3 true, .mmaq 0 1 64 false, .rowW 0 0 allOnes,
        .colW 0 0 allOnes, .tld, .tst, .tsave], ∃ e : MQEntry, (eng e).core.mq = [e] ∧ e.cmd.kind = k ∧
      e.start.isSome = true ∧ e.last + 12 = (eng e).core.cycle ∧ e.stuck = false ∧ (eng e).cmdTile 0 e.cmd = some (tile1, 0)) ∧
    (∀ st ∈ [TileStat.clean, .dirty], ∃ s : State, s.core.claims 0 = true ∧ s.core.freePhys = none ∧
      (∀ x ∈ s.core.tiles, x.saving = none ∧ x.restoring = none) ∧ (s.core.victim 0).map Tile.stat = some st) ∧
    (∃ (s : State) (r : Tile), s.cmdTile 0 (cmd .tsave (some 1)) = some (r, 0) ∧ r.save ≠ 0 ∧
      (s.engWrite 0 r.x r.save (memBytes s.mem (tileBase 0 0) 4096) fun o n => s.isPoisoned (tileBase 0 0 + o) n).2 = none) ∧
    (tnBad (drain1 0).recd = true ∧ (drain1 0).pos = 0) ∧
    (∃ (e : MQEntry) (s : State) (pg : Page), e.cmd.kind = .tdrain false 0 0 ∧ e.pos = 0 ∧ tnBad e.recd = false ∧ s.core.mq = [e] ∧
      s.engPage 0 e.cmd.x .write (BitVec.ofNat 64 (tnBase e.recd)) = (s, .inl pg) ∧ pg.geo ≠ 1 ∧ pg.fmt ≠ 6 ∧ pg.mlog = false ∧
      drainCells e.recd e.cmd.shape 0 0 = [(0, 0)] ∧ drainPlace e.recd 0 0 pg.fmt false 0 0 = (⟨0, 0, none⟩, 32) ∧
      (s.engPage 0 e.cmd.x .read 0).2 = .inl pg ∧ s.keyDead pg.key pg.pa = false ∧ pg.pa = dscrBase 0 + 2 ^ 24 ∧ pg.pa % 64 = 0) ∧
    (∃ (a : XVal) (l : List (XVal × XVal)), (∀ x ∈ l, x = (.fin false 1 0, .fin false 3 0)) ∧ a = .fin false 0 0 ∧
      (l.foldl (fun (u : XVal) x => (u.add false (x.1.mul x.2).1).1) XVal.zero).isZero = false) ∧
    (∃ s : State, ((s.core.dueMove Tile.saving).map fun v => (s.engWrite 0 v.x v.save (memBytes s.mem (tileBase 0 (v.phys.getD 0)) 4096)
      fun o n => s.isPoisoned (tileBase 0 (v.phys.getD 0) + o) n).2) = some none) ∧
    (∃ s : State, ((s.core.dueMove Tile.restoring).map fun v => (s.engRead 0 v.x v.save 4096).2.isLeft) = some true) ∧
    ∃ s : State, s.core.mq = [] ∧ s.core.mmaWait = [] ∧
      ∀ i < 5, ∀ k < 5, ∀ t ∈ ((s.coreAt i).ctxAt k).task, ((s.coreAt i).ctxAt k).stat = .free ∨ t.nomx = true :=
  ⟨⟨ent .tzero (some 1) none, by decide +kernel⟩, fun k hk => ⟨ent k (some 1) (some 1), rfl, rfl, by revert k; decide +kernel⟩,
    fun st hs => ⟨eight st none, by revert st; decide +kernel⟩,
    ⟨engp (ent .tsave (some 1) (some 1)), { tile1 with save := 0x1000, x := ⟨0, false, 2, 0x1000⟩ }, by decide +kernel⟩, by decide +kernel,
    ⟨drain1 1, engp (drain1 1), ⟨dscrBase 0 + 2 ^ 24, 0, 0, 0, false, false⟩, rfl, rfl, by decide +kernel, rfl,
      Prod.ext (page_same (e := 0xF8040009F) (a := 0x3000) (l := 1) (by decide) (by decide +kernel) (by decide +kernel) (by decide +kernel)) (by decide +kernel), by decide +kernel⟩,
    ⟨.fin false 0 0, [(.fin false 1 0, .fin false 3 0)], by decide, rfl, by decide⟩, ⟨eight .dirty (some 20), by decide +kernel⟩,
    ⟨(eight .saved none).updCore 0 fun k => { k with tiles := k.tiles.map fun x => { x with restoring := some 20 } }, by decide +kernel⟩,
    withC { spc with task := some { task with nomx := true } }, by decide +kernel⟩

/-- A task of job 1, the job of the machine check, in context 3. -/
theorem witness_machine_check : ∃ (s : State) (x : Task), s.arg 0 = 1 ∧ s.arg 3 = 0x40 ∧ (s.ctxAt 0 3).task = some x ∧ x.job = 1 :=
  ⟨args (z.setCtxAt 0 3 spc) [1, 0, 0, 0x40], { task with clSize := 4096 }, by decide⟩

/-- The Hearth: name 15 of sixteen barriers, a graph of one node with a count, a TRIG at a node's last count and below it, a phase that is
complete with a node of the next, a launch record in memory, one expanding, one old enough to rise, and a gate. -/
def launchAt (n : Node) (bind : Bool) : State := (nodes n).updCluster 0 fun c => { c with
  binds := if bind then [⟨0, 1, [], none, [], 0⟩] else [] }
def graph3 : Graph := { graph1 with left := 3 }
def copyNode (succ : List Nat) : Node := { node1 with kind := .copy, st := .active, dying := true, succ := succ }
def spent (succ : List Nat) (bad dying : Bool) : Node :=
  { node1 with st := .active, lrec := some (launch 3 2), next := 3, bad := bad, dying := dying, succ := succ }
/-- A node of three left, and another that waits on one count. -/
def threeLeft (n : Node) : State := jobs.updDie 0 fun d => { d with
  nodes := [(0, n), (1, { node1 with st := .waiting, count := 1 })], graphs := [graph3] }
theorem witness_hearth :
    (∃ s : State, s.arg 0 = 15 ∧ s.baraHolds 0 0 (s.arg 2) = true ∧ s.ctx.tk.bars[15]? = some 20 ∧
      tget Barrier.zero (s.clusterAt 0).bars 20 = Barrier.zero) ∧
    (∀ want ∈ [2, 3], ∃ s : State, s.arg 0 = 15 ∧ s.baraHolds 0 0 (s.arg 2) = true ∧ s.ctx.tk.bars[15]? = some 20 ∧
      tget Barrier.zero (s.clusterAt 0).bars 20 = ⟨want, 1, [4]⟩) ∧
    (∃ (s : State) (g : GraphReq), (s.dieAt 0).admissible = some (g, 2) ∧ g.res = 0 ∧ g.nodes = [5]) ∧
    (∀ m ∈ [1, 2, 3], ∃ s : State, (s.dieAt 0).intake = [⟨.trig 0 m, 0, 1, 0, 0⟩] ∧
      ((tfind (s.dieAt 0).nodes 0).map fun y => (y.job, y.st, y.count, y.susp)) = some (1, .waiting, 2, false)) ∧
    (∃ s : State, let j := s.job (s.arg 0)
      j.st = .running ∧ j.phaseDone = true ∧ j.closed = false ∧ tget CStatus.ok j.phSt j.phase ≠ .failed ∧
      (s.node 0 0).st = .deferred ∧ (s.node 0 0).job = s.arg 0 ∧ s.nodePhase 0 0 = j.phase + 1) ∧
    (∃ s : State, let x := s.node 0 0
      x.kind = .launch ∧ x.st = .ready ∧ x.lrec = none ∧ x.canc = [] ∧ x.recAddr = 0x100 ∧
      (s.engRead 0 (s.jobX x.job) x.recAddr 128).2 = .inl (toBytes (launch 3 2).toNat 128, false) ∧ lrBad (launch 3 2) = false ∧
      s.progOf 0 (lrProg (launch 3 2)) = none) ∧
    (∃ s : State, (s.node 0 0).lrec = some (launch 3 2) ∧ (s.node 0 0).st = .ready ∧ s.headerStands (s.node 0 0) = false ∧
      s.progs.length < 256 ∧ (s.tenantKey (s.job 1).tenant).isSome = true) ∧
    (∃ s : State, s.nextLaunch 0 = some (0, 0) ∧ (s.node 0 0).lrec = some (launch 3 2) ∧ (s.node 0 0).skip = [] ∧
      ((s.clusterAt 0).bindFor (lnchOf (s.node 0 0).graph 0) 1 (launch 3 2) 0).isSome = true) ∧
    (∃ s : State, let x := s.node 0 0
      x.lrec = some (launch 3 2) ∧ x.st = .ready ∧ x.susp = false ∧ x.next < 3 ∧ x.level = 2 ∧ x.aged + ageLimit = s.now) ∧
    ∀ succ ∈ [[], [1]],
      (∃ s : State, ((tfind (s.dieAt 0).nodes 0).map fun y => (y.kind, y.st, y.succ, y.lrec, y.graph)) = some (.gate, .ready, succ, none, 0) ∧
        (s.dieAt 0).graphs = [graph3] ∧ graph3.id = 0 ∧ 3 ≤ graph3.left ∧ ((tfind (s.dieAt 0).nodes (graphBase 0 + 1)).map fun y =>
          (y.st, y.next, y.lrec, y.succ)) = some (.waiting, 0, none, [])) ∧
      (∃ s : State, (tfind (s.dieAt 0).nodes 0) = some (copyNode succ) ∧ (s.dieAt 0).graphs = [graph3] ∧ s.nodeCopies 0 0 = false) ∧
      ∀ bad ∈ [true, false], ∀ dying ∈ [true, false], ∃ s : State, tfind (s.dieAt 0).nodes 0 = some (spent succ bad dying) ∧
        (s.dieAt 0).graphs = [graph3] ∧ lrTasks (launch 3 2) ≤ 3 ∧ lrRptl (launch 3 2) = false ∧ (s.dieAt 0).ended = [] ∧
        s.engineBusy [] = false :=
  ⟨⟨args (withC { spc with task := some { task with bars := List.range' 5 16 } }) [15, 1], by decide +kernel⟩,
    fun w hw => ⟨args ((withC { spc with task := some { task with bars := List.range' 5 16 } }).updCluster 0 fun c => { c with
      bars := [(20, ⟨w, 1, [4]⟩)] }) [15, 1], by revert w; decide +kernel⟩,
    ⟨(nodes node1).updDie 0 fun d => { d with nodes := [(0, node1), (1, node1)], waiting := [⟨1, 0, [5], false, 0, 0⟩] }, ⟨1, 0, [5], false, 0, 0⟩,
      by decide +kernel⟩,
    fun m _ => ⟨(nodes { node1 with count := 2, st := .waiting }).updDie 0 fun d => { d with intake := [⟨.trig 0 m, 0, 1, 0, 0⟩] }, rfl, rfl⟩,
    ⟨args ({ nodes { node1 with st := .deferred } with jobs := [(1, { job1 with phaseDone := true })] }.updDie 0 fun d => { d with
      graphs := [{ graph1 with phase := 1 }] }) [1], by decide +kernel⟩,
    ⟨{ paged (nodes { node1 with recAddr := 0x100 }) with
      progs := [], mem := memPut (paged z).mem 0x3E01000100 (toBytes (launch 3 2).toNat 128) }, by decide +kernel⟩,
    ⟨{ nodes { node1 with lrec := some (launch 3 2) } with
      progs := [], tenants := [(2, ⟨true, keyDigest 9⟩)], cur := { z.cur with inp := toBytes 9 64 } }, by decide +kernel⟩,
    ⟨launchAt { node1 with lrec := some (launch 3 2), level := 2, left := 3 } true, by decide +kernel⟩,
    ⟨{ nodes { node1 with lrec := some (launch 3 2), level := 2, left := 3 } with time := ageLimit }, by decide +kernel⟩,
    fun l _ => ⟨⟨threeLeft { node1 with kind := .gate, succ := l }, rfl, rfl, rfl, by decide, rfl⟩,
      ⟨threeLeft (copyNode l), rfl, rfl, rfl⟩,
      fun b _ y _ => ⟨threeLeft (spent l b y), rfl, rfl, by decide +kernel, by decide +kernel, rfl, rfl⟩⟩⟩

/-- A task ready in cluster 0, in its tail behind another for cluster 1 to steal, an urgent launch for core 0, a core that can
unbind and one that can be zeroed. -/
def ready1 : ReadyTask := ⟨0, 0, 1, 2, 2, 0⟩
def queued (q : List ReadyTask) : State := (launchAt { node1 with lrec := some (launch 3 2), level := 2, left := 3, st := .active, next := 3 }
  true).updCluster 0 fun c => { c with ready := q }

theorem witness_tasks :
    (∃ s : State, s.arg 0 = 0 ∧ (s.clusterAt 0).ready = [ready1] ∧ s.dispatchHeld 1 = false ∧
      ((s.readyInfo 0 ready1).bind fun y => (s.placeFor 0 ready1 y.2.1 y.2.2)) = some (0, 0, 0) ∧ shConstBlk hdr = 0 ∧
      lrNosl (launch 3 2) = 0) ∧
    (∃ s : State, s.arg 0 = 1 ∧ ((s.stealFrom 1).map fun y => (y.1, y.2.1, y.2.2.2.2.2)) = some (0, ready1, 8, 0, 0) ∧
      (((s.clusterAt 1).bindFor 0 1 (launch 3 2) 0).map Bind.clSize) = some 0) ∧
    (∃ s : State, let x := s.node 0 0
      x.lrec = some (launch 1 0) ∧ x.st = .ready ∧ x.susp = false ∧ x.dying = false ∧ x.level = 0 ∧ lrPrio (launch 1 0) = 0 ∧ x.next = 0 ∧
      s.headerStands x = true ∧ s.stalled (srcHearth 0) = false ∧ s.dispatchHeld x.job = false ∧ (s.coreAt 0).zeroing = false ∧
      (s.clusterAt (clusterOf 0)).nomx = false ∧ (s.coreAt 0).bound = none ∧ ((s.clusterAt 0).bindFor (lnchOf x.graph 0) 1 (launch 1 0) 0).isSome = true) ∧
    (∃ s : State, let y := s.core
      y.zeroing = false ∧ y.bound.isSome = true ∧ (∀ l ∈ y.xqueue, l = XReq.trap 0) ∧ (∀ c ∈ y.ctxs, c.1 < 4 → c.2.stat = .free) ∧
      (∀ h ∈ y.handles, h.2.st = .free ∨ h.2.st = .full)) ∧
    ∃ s : State, let y := s.core
      y.zeroing = true ∧ y.xrole = .none ∧ y.xqueue = [] ∧ y.mq = [] ∧ y.mmaWait = [] ∧ s.sentLeft 0 = false :=
  ⟨⟨args (queued [ready1]) [0], by decide +kernel⟩,
    ⟨args ((queued [{ ready1 with tidx := 1 }, ready1]).updCluster 1 fun c => { c with binds := [⟨0, 1, [], none, [], 0⟩] }) [1],
      by decide +kernel⟩,
    ⟨launchAt { node1 with lrec := some (launch 1 0), left := 1 } true, by decide +kernel⟩,
    ⟨z.updCore 0 fun k => { k with bound := some 1, ctxs := [(0, Ctx.reset)], handles := [(3, ⟨.full, none⟩)] }, by decide +kernel⟩,
    z.updCore 0 fun k => { k with zeroing := true }, by decide +kernel⟩

/-! Witnesses: copies, translation and the trace (O35 to O37). -/

/-- A raw copy of 64 bytes of `sp` from 40H to 100H under handle 3 (R276): six counts of one. -/
def copyRec : Nat := 3 * 2 ^ 852 + 63 * 2 ^ 828 + 0x40 * 2 ^ 604 + 0x100 * 2 ^ 540 +
  ((List.range 6).map fun l => 2 ^ (90 * l + 74)).sum
/-- A copy command of context 0 of core 0, whose window is the core's scratchpad to 3FFFH and whose handles are h0 to h7. -/
def copyIn : CopyIn := ⟨⟨.copy, 0x80, 0, 0, 0, 0, 0⟩, 0, 0, 7, 1, ⟨0, 0x3FFF, spBase 0, (0, 0), (0, 0), [], ⟨0, false, 2, 0x1000⟩, 0, 0, 8⟩, 0,
  none, 0, 0⟩
def copying : Copying := ⟨copyIn, BitVec.ofNat 1024 copyRec, some 3, 0, none, none, [], 1, 0, none, 0, 0, none, false, false⟩
def copies (l : List Copying) (h : HState) (rel : Option Nat) : State := args (({ sp with
  mem := memPut [] (spBase 0 + 0x80) (toBytes copyRec 128) }.updCluster 0 fun c => { c with intake := [copyIn], copies := l }).updCore 0
  fun k => { k with handles := [(3, ⟨h, rel⟩)] }) [0, 0]

/-- The same copy under another command kind, with bits of its record and of its descriptor set, and operand slot 0 in physical slot 7. -/
def copyAs (k : CKind) (bits : Nat) (b : Word) : Copying := { copying with
  rec0 := BitVec.ofNat 1024 (copyRec + bits)
  inp := { copyIn with cmd := { copyIn.cmd with kind := k, b := b }, view := { copyIn.view with omap := [(0, 7)] } } }
/-- A gather of one row of four elements of format 1 from a table of two rows at 200H to 100H, its index at 40H (R285). -/
def gathRec : Nat := 2 ^ 496 + 3 * 2 ^ 489 + 4 * 2 ^ 467 + 2 ^ 443 + 2 * 2 ^ 411 + 16 * 2 ^ 339 + 16 * 2 ^ 299 + 0x100 * 2 ^ 171 +
  0x200 * 2 ^ 107 + 0x40 * 2 ^ 43
def gathAs (k : CKind) : Copying := { copying with
  rec0 := BitVec.ofNat 1024 gathRec, inp := { copyIn with cmd := { copyIn.cmd with kind := k } } }
def gathering (k : CKind) (x : Nat) : State := { copies [gathAs k] .filling none with mem := memPut [] (spBase 0 + 0x40) (toBytes x 4) }
/-- What holds of every copy that ends here: it may go on, and its source is within bounds. -/
def Ready (s : State) (c : Copying) : Prop :=
  s.copyAt 0 (s.arg 1) = some c ∧ s.stalled (srcCopy 0) = false ∧ s.heldBack 0 0 7 = false ∧ c.hnd = some 3 ∧ c.cwa = 0 ∧ c.fin = none ∧
  c.pos = 0 ∧ c.idx = none ∧ c.tens = none ∧ c.inp.node = none ∧ c.inp.view.sp = spBase 0 ∧ 2 ^ 46 ≤ spBase 0 ∧ spBase 0 < 2 ^ 51

theorem witness_copym : ∃ (s : State) (c : Copying), let r := c.rec0.toNat; let v := c.inp.view; let da := (cpDstAt c 0).toNat
    Ready s c ∧ c.inp.cmd.kind = .copym ∧ cpPieces r = 1 ∧ cpTrec r = 0 ∧ cpTmode r = false ∧ cpSsp r = 0 ∧ cpConv r = false ∧ cpDsp r = 4 ∧
    spInBounds v.bndlo v.bndhi (cpSrcAt c 0).toNat (cpElen r) = true ∧ da % 4096 + cpElen r ≤ 4096 ∧ tfind v.omap (da / 4096) = some 7 ∧
    s.core.mmaWait = [] ∧ s.core.mq.length < 16 ∧ s.tileShape 0 0 7 (mdTile c.inp.cmd.b.toNat) ≠ 0 :=
  ⟨(copies [copyAs .copym (4 * 2 ^ 847) 0x10000] .filling none).setCtxAt 0 0 { spc with csr := { spc.csr with tshp := [(1, 0x400)] } },
    copyAs .copym (4 * 2 ^ 847) 0x10000, by unfold Ready; decide +kernel⟩

theorem witness_converting_copy : ∃ (s : State) (c : Copying), let r := c.rec0.toNat; let v := c.inp.view
    Ready s c ∧ c.inp.cmd.kind = .copy ∧ cpPieces r = 1 ∧ cpTrec r = 0 ∧ cpTmode r = false ∧ cpSsp r = 0 ∧ cpConv r = true ∧ cpDsp r = 0 ∧
    cpSfmt r = 1 ∧ cpDfmt r = 4 ∧ 8 ≤ (fmtN 1).width ∧ 8 ≤ (fmtN 4).width ∧
    spInBounds v.bndlo v.bndhi (cpSrcAt c 0).toNat (cpElen r * ((fmtN 1).width / 8)) = true ∧
    spInBounds v.bndlo v.bndhi (cpDstAt c 0).toNat (cpElen r * ((fmtN 4).width / 8)) = true :=
  ⟨copies [copyAs .copy (2 ^ 850 + 2 ^ 837 + 4 * 2 ^ 841) 0] .filling none, copyAs .copy (2 ^ 850 + 2 ^ 837 + 4 * 2 ^ 841) 0,
    by unfold Ready; decide +kernel⟩

/-- The two special indices and the last row, for a gather and a scatter-add. -/
theorem witness_gather : ∀ k ∈ [CKind.gath, .scad], ∀ x ∈ [0xFFFFFFFF, 2, 1], ∃ (s : State) (c : Copying), let r := c.rec0.toNat
    let v := c.inp.view
    Ready s c ∧ c.inp.cmd.kind = k ∧ k.gathers = true ∧ gaBad r (k == .scad) = false ∧ gaNidx r = 1 ∧ gaIsp r = 0 ∧ gaTsp r = 0 ∧
    gaRsp r = 0 ∧ memRead s.mem (v.sp + gaIdxa r) 4 = x ∧ gaNrows r = 2 ∧ gaRow r = 16 ∧
    spInBounds v.bndlo v.bndhi (gaIdxa r) 4 = true ∧ spInBounds v.bndlo v.bndhi (gaRowAt r 0).toNat 16 = true ∧
    spInBounds v.bndlo v.bndhi (gaTabAt r 1).toNat 16 = true :=
  fun k hk x hx => ⟨gathering k x, gathAs k, by unfold Ready; revert k x; decide +kernel⟩

theorem witness_copy :
    (∀ h ∈ [HState.free, .full], ∃ s : State, (s.clusterAt (s.arg 0)).intake = [copyIn] ∧ (s.clusterAt 0).freeSlot = some 0 ∧
      spInBounds 0 0x3FFF copyIn.cmd.a.toNat 128 = true ∧ s.isPoisoned (spBase 0 + 0x80) 128 = false ∧
      ofBytes (s.placeBytes 0 (spBase 0 + 0x80) 128) = copyRec ∧ cpHnd copyRec = 3 ∧ cpBad copyRec false false = false ∧ cpTrec copyRec = 0 ∧
      ((s.coreAt 0).handle 3).st = h) ∧
    (∀ rel ∈ [none, some 5], ∃ s : State, s.copyAt 0 (s.arg 1) = some copying ∧ s.stalled (srcCopy 0) = false ∧ s.heldBack 0 0 7 = false ∧ cpPieces copyRec = 1 ∧
      cpConv copyRec = false ∧ cpTmode copyRec = false ∧ cpTrec copyRec = 0 ∧ cpCwa copyRec = 0 ∧ cpSsp copyRec = 0 ∧
      cpDsp copyRec = 0 ∧ cpElen copyRec = 64 ∧ (cpSrcAt copying 0).toNat = 0x40 ∧ (cpDstAt copying 0).toNat = 0x100 ∧
      ((s.coreAt 0).handle 3).rel = rel ∧ 2 ^ 46 ≤ spBase 0 ∧ spBase 0 < 2 ^ 51) ∧
    (∃ s : State, s.core.handle (s.arg 0) = ⟨.draining, some 5⟩ ∧ ∀ b ∈ s.core.cmdBusy, 5 ≤ b) ∧
    (∃ s : State, (s.node (s.arg 0) (s.arg 1)).kind = .copy ∧ (s.node (s.arg 0) (s.arg 1)).st = .ready) ∧
    ∃ (s : State) (c : MCmd), s.core.mmaWait = [c] ∧ s.core.mq.length = 15 ∧ s.tileShape 0 c.ctx c.serial (c.tile.getD 0) ≠ 0 :=
  let m : MCmd := ⟨.mma 0 1 8 1 1 false, 0, 7, 1, some 1, 0x400, 0, ⟨0, false, 2, 0x1000⟩, 0, some 3⟩
  ⟨fun h hh => ⟨copies [] h none, by revert h; decide +kernel⟩, fun r hr => ⟨copies [copying] .filling r, by revert r; decide +kernel⟩,
    ⟨args ((copies [] .draining (some 5)).updCore 0 fun k => { k with cmdBusy := [5, 9] }) [3], by decide +kernel⟩,
    ⟨nodes { node1 with kind := .copy }, by decide +kernel⟩,
    (withC { spc with csr := { spc.csr with tshp := [(1, 0x400)] } }).updCore 0 fun k => { k with
      mmaWait := [m], mq := List.replicate 15 ⟨m, 0, none, 0, false, 0, false, 0, [], 0⟩ }, m, by decide +kernel⟩

/-- A mapped page read and written with D set, an unmapped one, a suspended copy, and registers at their boundary. -/
theorem witness_translation :
    (∀ acc ∈ [0, 1], ∃ s : State, let x := s.xctxOf s.ctx
      s.arg 0 = 0x1FFFFF ∧ s.arg 1 = acc ∧ s.walksOf 0 = [] ∧ tlbFind s.core.tlb x.asid (xaccOf acc) 0x1FFFFF = none ∧
      s.walkFrom x.tenant 0x1FFFFF 3 x.root = .leaf 0xF8040009F 0x3000 1 ∧ accessFault x (xaccOf acc) 0xF8040009F = none ∧
      pteD (s.pteAt 0x3000) = true) ∧
    (∃ s : State, let x := s.xctxOf s.ctx
      s.arg 0 = 2 ^ 48 - 1 ∧ s.walkFrom x.tenant (2 ^ 48 - 1) 3 x.root = .fault 1) ∧
    (∃ (s : State) (c : Copying), tfind (s.dieAt (s.arg 0)).faults (s.arg 1) = some (.copy 0 0, 0x40) ∧ s.copyAt 0 0 = some c ∧
      c.stuck = true ∧ c.fin = none ∧ c.inp.node = none ∧ s.heldBack c.inp.core c.inp.ctx c.inp.serial = false ∧
      cpTrec c.rec0.toNat = 0 ∧ c.inp.cmd.kind = .copy) ∧
    (∃ s : State, s.arg 0 = ctlBase 3 + 0x1000 + 0x100 * 63 ∧ s.arg 2 = 0) ∧
    ∃ s : State, s.arg 0 = pkgBase + 0x2400 ∧ s.arg 2 = fnSniras :=
  let t : State := (paged z).setCtxAt 0 0 { spc with task := some task }
  ⟨fun a ha => ⟨args t [0x1FFFFF, a], by revert a; decide +kernel⟩, ⟨args t [2 ^ 48 - 1, 0], by decide +kernel⟩,
    ⟨(copies [{ copying with stuck := true }] .filling none).updDie 0 fun d => { d with faults := [(0, .copy 0 0, 0x40)] },
      { copying with stuck := true }, by decide +kernel⟩,
    ⟨args z [ctlBase 3 + 0x1000 + 0x100 * 63, 5, 0], by decide⟩, args z [pkgBase + 0x2400, 5, fnSniras], by decide⟩

/-! Witnesses: trace, administration, submission, migration (O37 to O41). -/

/-- One record of type 5 of tenant 0 at die 0's sink; the stream descriptor at 0 with a mode, type 5, a ring of 128 records and WPTR. -/
def sinkRec : SinkRec := ⟨1, 0, BitVec.ofNat 256 (5 * 2 ^ 192)⟩
def sinks (mode wptr : Nat) : State := { z with
  sinks := [(0, [sinkRec])], mem := memWrite [] 0 128 (mode * 2 ^ 350 + wptr * 2 ^ 384 + 2 ^ 416 + 32 * 2 ^ 512) }
theorem witness_trace :
    (∀ p ∈ [(0, 0, false, false), (1, 5, true, false), (1, 128, true, true)], ∃ s : State, tget [] s.sinks (s.arg 0) = [sinkRec] ∧
      s.keptBack 0 sinkRec = false ∧ (s.source 1).waiting = [] ∧ sinkRec.src ≠ srcSink 0 ∧ recordPasses (s.stream 0 0) 5 = p.2.2.1 ∧
      ringFull (s.stream 0 0) = p.2.2.2 ∧ tfind (s.source (srcSink 0)).drops 0 = none) ∧
    (∀ n ∈ [7, 0x50], ∃ s : State, s.arg 0 = n ∧ isCoreSrc n = decide (n = 7) ∧ (s.source (s.arg 0)).waiting = [(2, 0, 0)]) ∧
    (∀ n ∈ [16000, 16001], ∀ b ∈ [0, 1], ∀ f ∈ [0, 1], ∃ s : State, s.arg 0 = n ∧ s.arg 1 = f ∧ s.timeRef = 0 ∧ s.arg 2 = b) ∧
    ∀ n ∈ [0, 1, 2], ∃ s : State, plocOf (s.arg 0) = .dram 1 ∧ s.arg 1 = n :=
  ⟨fun p hp => ⟨sinks p.1 p.2.1, by revert p; decide +kernel⟩,
    fun n hn => ⟨args { z with trace := [(n, { TraceSrc.zero with waiting := [(2, 0, 0)] })] } [n], by revert n; decide +kernel⟩,
    fun n _ b _ f _ => ⟨args z [n, f, b], rfl, rfl, rfl, rfl⟩,
    fun n hn => ⟨args z [0x10_0000_0000, n], by revert n; decide +kernel⟩⟩

/-- The administrative queue enabled and showing a command: its arguments, with tenants 2 (plain) and 3 (confidential), jobs and keys. -/
def aq (l : List Nat) : State := args { z with
  regs := [(pkgBase + 0x88, 0x100), (pkgBase + 0x90, 1)], tenants := [(2, ⟨false, 0⟩), (3, ⟨true, 0⟩), (4, ⟨false, 0⟩)]
  jobs := [(1, job1), (5, { Job.zero with st := .done })], keys := [(7, ⟨0, 2⟩), (8, ⟨0, 3⟩)], feat := 0x7F
  sn := { Sniras.reset with featCtl := 1, negotiated := true, healthy := true } } (0 :: 0x55 :: l)
/-- An admission record: tenant 2, ASID 9, queues of 2^6 entries. -/
def admission : Nat := 2 + 9 * 2 ^ 16 + 6 * 2 ^ 66 + 6 * 2 ^ 70

theorem witness_admin :
    (∀ l ∈ [[admission], [1], [5], [63], [64], [0], [255, 1, 7], [8191, 2], [255, 3, 15]], (aq l).adminOpen = true ∧
      (aq l).sn.recovery = false ∧ (aq l).arg 0 = 0) ∧
    ((aq []).sn.negotiated = true ∧ z.sn.negotiated = false ∧ (aq []).admitBad admission = false ∧ (aq []).admitBad (admission + 2 ^ 1023) = true ∧
      (aq []).freeJob = some 0) ∧
    (∃ s : State, s.adminOpen = true ∧ s.freeJob = none) ∧
    (((aq []).job 0).st = .free ∧ ((aq []).job 1).st = .running ∧ ((aq []).job 5).st = .done) ∧
    (tfind (aq []).tenants 255 = none ∧ (tfind (aq []).tenants 2).isSome = true ∧ (aq []).feat.getLsbD 0 = true ∧ z.feat.getLsbD 0 = false ∧
      (aq []).tenantBusy 2 = true ∧ (aq []).tenantBusy 4 = false ∧ (aq []).confidential 3 = true ∧ (aq []).confidential 2 = false) ∧
    (tfind (aq []).keys 8191 = none ∧ (tfind (aq []).keys 7).isSome = true) ∧
    (streamAllow ((sinks 1 0).stream 0 0) 15 = false ∧ ∃ s : State, streamAllow (s.stream 3 255) 15 = true) ∧
    ((aq []).sn.update = none ∧ (aq []).sn.healthy = true ∧ (aq []).sn.fb = false ∧ z.sn.healthy = false ∧
      ∃ s : State, s.adminOpen = true ∧ s.sn.recovery = false ∧ s.sn.update = some true) :=
  ⟨by decide +kernel, by decide +kernel,
    ⟨{ aq [] with jobs := (List.range 64).map fun j => (j, job1) }, by decide +kernel⟩, by decide +kernel, by decide +kernel,
    by decide +kernel, ⟨by decide +kernel, { z with mem := memWrite [] (128 * 255) 128 (2 ^ (768 + 15)) }, by decide +kernel⟩,
    ⟨rfl, rfl, rfl, rfl, { aq [] with sn := { (aq []).sn with update := some true } }, by decide +kernel⟩⟩

/-- A graph descriptor of one launch node, count 0, phase 0, in job 1's space at 100H; a commit of features 0 and 1, and of one not offered. -/
theorem witness_submission :
    (∃ s : State, (s.job (s.arg 0)).st = .running ∧ s.dmaOn = true ∧ s.sn.dumped = none ∧
      (s.reg (pkgBase + 0x1000 + 0x10 * s.arg 0)).toNat ≠ (s.job (s.arg 0)).sqHead ∧ s.arg 3 = 1 ∧
      ((s.readGraph 0 1 (BitVec.ofNat 64 (s.arg 1))).2.map fun y => (bitsOf y.1 40 9, y.2)) = some (0, [BitVec.ofNat 256 (0x200 * 2 ^ 192)]) ∧
      (s.job 1).phaseClosed = false ∧ (s.job 1).closed = false ∧ (s.job 1).status ≠ .failed ∧ (s.job 1).cancFrom = none) ∧
    (∃ s : State, s.arg 1 = 0 ∧ (BitVec.ofNat 64 (s.arg 0)).getLsbD 0 = true ∧ s.featAcc &&& ~~~ s.sn.offered = 0 ∧ s.sn.negotiated = false) ∧
    ∃ s : State, s.arg 1 = 0 ∧ (BitVec.ofNat 64 (s.arg 0)).getLsbD 0 = true ∧ s.featAcc &&& ~~~ s.sn.offered ≠ 0 :=
  ⟨⟨args { paged z with
      regs := [(pkgBase + 0x1010, 1)]
      mem := memWrite (memWrite (paged z).mem 0x3E01000100 64 1) 0x3E01000140 32 (0x200 * 2 ^ 192) } [1, 0x100, 0, 1], by decide +kernel⟩,
    ⟨args { z with regs := [(pkgBase + 0x20, 3)] } [1, 0], by decide +kernel⟩,
    args { z with regs := [(pkgBase + 0x38, 1)] } [1, 0], by decide +kernel⟩

/-- A running job with a launch, still; its key with a PASS used and one not. -/
theorem witness_migration :
    (∀ l ∈ [[1], [1, 2, 9, 7], [1, 0, 10, 7], [1, 9, 7], [1, 10, 7]], ∃ s : State, s.adminOpen = true ∧ s.sn.recovery = false ∧ s.arg 0 = 0 ∧
      s.feat.getLsbD 1 = true ∧ (s.job (s.arg 2)).st = .running ∧ s.jobLaunches 1 = [] ∧ s.jobStill 1 = true ∧
      s.streamKey 1 7 = some 0 ∧ (s.job 1).quiesced = true ∧ s.cur.arg = 0 :: 0x55 :: l ∧
      passUsed s.sn.sendPass 7 9 = true ∧ passUsed s.sn.sendPass 7 10 = false ∧ passUsed s.sn.recvPass 7 9 = true ∧
      passUsed s.sn.recvPass 7 10 = false) ∧
    (∃ s : State, s.adminOpen = true ∧ s.jobLaunches 1 = [] ∧ s.jobStill 1 = false) ∧ (∃ s : State, s.jobLaunches 1 = [(0, 0)]) ∧
    (∃ s : State, s.adminOpen = true ∧ s.jobLaunches 1 = [] ∧ (s.ctxsWhere fun _ _ x => x.job == 1) = [(0, 3)] ∧
      (s.ctxAt 0 3).stat = .frozen) ∧
    ∃ tag body, gcmOpen 0 (BitVec.ofNat 96 (10 * 2 ^ 64)) [] [] tag = some body :=
  ⟨fun l hl => ⟨let s := aq l
      { s with jobs := [(1, { job1 with quiesced := true })], sn := { s.sn with sendPass := [(7, 9)], recvPass := [(7, 9)] } },
      by revert l; decide +kernel⟩,
    ⟨(aq [1]).setCtxAt 0 0 { Ctx.reset with stat := .waiting, task := some task }, by decide +kernel⟩, ⟨nodes node1, by decide +kernel⟩,
    ⟨(aq [1]).setCtxAt 0 3 { Ctx.reset with stat := .frozen, task := some task }, by decide +kernel⟩,
    (gcmSeal 0 (BitVec.ofNat 96 (10 * 2 ^ 64)) [] []).2, [], by simp [gcmOpen, gcmSeal, gcmCtr, xorBytes]⟩

/-! Witnesses: the host, link-down and boot (O42 to O44). -/

/-- A public key, and its signature over its own 64 bytes: they verify (R352; SEC 1 section 4.1.4). -/
def ecKey : BitVec 512 := 0x73eb1dbde03318366d069f83a6f5900053c73633cb041b21c55e1a86c1f400b48e533b6fa0bf7b4625bb30667c01fb607ef9f8b8a80fef5b300628703187b2a3
def ecSig : BitVec 512 := 0xbaea403ca9b6c5054bf9140f3aeff73cecd613f0fe51103c69b584917b4a66b2b01a172a76a4602c92d3242cb897dde3024c740debb215b4c6b0aae93c2291a9
def ecMsg : List Byte := toBytes ecKey.toNat 64
set_option maxRecDepth 100000 in
theorem ec_verifies : ecdsaOk ecKey (sha256 ecMsg) ecSig = true := by decide +kernel

/-- BAR2 by PF0 under key 7 of tenant 2; a session that has proved tenant 3; an interface locked for tenant 3. -/
def host (l : List Nat) : State := args { aq [] with
  regs := [(pkgBase + 0x100, 7)]
  sn := { Sniras.reset with sessions := [(1, ⟨false, [3]⟩)], tdis := [(4, ⟨.locked, 3, 0⟩), (5, ⟨.run, 3, 8⟩)], watchdog := true } } l
def crucible0 : Nat := 0x3E_1000_0000

theorem witness_host :
    ((host [0, 0, crucible0, 8]).linkUp = true ∧ (host [0, 0, crucible0, 8]).barAborts 0 crucible0 8 = false ∧
      (host [5, 1, crucible0, 8]).barAborts 5 crucible0 8 = false ∧ (host [4, 0, crucible0, 8]).barAborts 4 crucible0 8 = true) ∧
    plocOf crucible0 = .crucible 0 ∧
    (∀ f ∈ [0, 4], ∃ s : State, s.arg 0 = 512 + f ∧ s.linkUp = true ∧ s.arg 1 = 0 ∧ s.arg 2 = 0x100 ∧ s.arg 3 = 8) ∧
    (∃ s : State, s.arg 0 = 256 ∧ s.arg 1 = 0 ∧ s.sn.dumped = some 2 ∧ inDump (s.arg 2) (s.arg 3) = true) ∧
    (∃ s : State, s.sn.recovery = false ∧ s.arg 1 = 1 ∧ (tfind s.tenants (s.arg 2)).isSome = true ∧ s.tenantKey (s.arg 2) = some ecKey ∧
      ecdsaOk ecKey (sha256 (s.cur.inp.take (s.cur.inp.length - 64)))
        (BitVec.ofNat 512 (ofBytes (s.cur.inp.drop (s.cur.inp.length - 64)))) = true) ∧
    ((tfind (host []).sn.sessions 1).map fun x => (x.tenants.contains 3, x.tenants.contains 2)) = some (true, false) ∧
    ((host []).confidential 3 = true ∧ tfind (host []).keys 8191 = none ∧ ((tfind (host []).keys 8).map KeyRec.owner) = some 3) ∧
    ((host []).feat.getLsbD 0 = true ∧ ((host []).tdi 255).st = .unlocked ∧ (tfind (host []).tenants 3).isSome = true ∧
      ((host []).tdi 4).st = .locked ∧ ((host []).tdi 5).st = .run ∧ (host []).confidential ((host []).tdi 5).tenant = true) ∧
    ((host []).sn.recovery = false ∧ tfind (host []).sn.sessions 9 = none ∧ tfind (host []).tenants 200 = none) :=
  ⟨by decide +kernel, by decide +kernel, fun f hf => ⟨args z [512 + f, 0, 0x100, 8], by revert f; decide +kernel⟩,
    ⟨args { z with sn := { Sniras.reset with dumped := some 2 } } [256, 0, dumpBase 3 + dumpSize - 8, 8], by decide +kernel⟩,
    ⟨{ args { z with tenants := [(2, ⟨true, keyDigest ecKey⟩)] } [9, 1, 2] with
      cur := { z.cur with arg := [9, 1, 2], inp := ecMsg ++ toBytes ecSig.toNat 64 } }, by decide +kernel, rfl, rfl, by decide +kernel,
      by
        have h : sha256 ((ecMsg ++ toBytes ecSig.toNat 64).take 64) = sha256 ecMsg := by decide +kernel
        have g : BitVec.ofNat 512 (ofBytes ((ecMsg ++ toBytes ecSig.toNat 64).drop 64)) = ecSig := by decide +kernel
        have l : (ecMsg ++ toBytes ecSig.toNat 64).length - 64 = 64 := by decide +kernel
        simp only [l, h, g]; exact ec_verifies⟩,
    by decide +kernel, by decide +kernel, by decide +kernel, by decide +kernel⟩

/-- Running and stopped confidential jobs of tenant 3, a key of it, a task and a bound core. -/
theorem witness_link_down :
    (∃ (s : State) (x : Task), s.arg 0 = 0 ∧ ((tfind s.jobs 1).map fun b => (b.st, s.downTenant 0 b.tenant)) = some (.running, true) ∧
      (s.ctxAt 0 3).task = some x ∧ x.job = 1) ∧
    (∃ s : State, s.arg 0 = 3 ∧ ((tfind s.jobs 1).map fun b => (b.st, s.downTenant 3 b.tenant)) = some (.linkKilled, true) ∧
      (s.coreAt 0).bound = none ∧ (s.coreAt 0).unbindJob = some 1) ∧
    ∃ s : State, s.arg 0 = 3 ∧ ((tfind s.jobs 1).map fun b => (b.st, s.downTenant 3 b.tenant)) = some (.linkKilled, true) ∧
      (s.coreAt 0).bound = some 1 ∧ ((tfind s.keys 8).map fun r => s.downTenant 3 r.owner) = some true :=
  ⟨⟨{ host [0] with jobs := [(1, { job1 with tenant := 3 })] }.setCtxAt 0 3 { spc with task := some task }, task, by decide +kernel⟩,
    ⟨{ host [3] with jobs := [(1, { job1 with tenant := 3, st := .linkKilled })] }.updCore 0 fun k => { k with unbindJob := some 1, zeroing := true },
      by decide +kernel⟩,
    { host [3] with jobs := [(1, { job1 with tenant := 3, st := .linkKilled })] }.updCore 0 fun k => { k with bound := some 1 },
    by decide +kernel⟩

/-- Flash slot 0 with an image that the key of OTP signs, after att attempts; an update waits in slot 1 with SVN svn and that image. -/
def signed (att svn : Nat) (upd : Option Bool) : State := { z with sn := { Sniras.reset with
  fwKey := ecKey, otpKey := keyDigest ecKey, otpsvn := 2, slots := [(0, ⟨2, ecSig, ecMsg, att⟩), (1, ⟨svn, ecSig, ecMsg, 3⟩)], update := upd } }
theorem signed_good (att svn : Nat) (upd : Option Bool) (x : FwSlot) (h : x.image = ecMsg) (g : x.sig = ecSig) :
    (signed att svn upd).fwGood x = true := by
  simp [State.fwGood, signed, h, g, ec_verifies]
theorem signed_boots : (signed 2 2 none).bootSlot = some (0, false) := by
  have h : (signed 2 2 none).slot 0 = ⟨2, ecSig, ecMsg, 2⟩ := rfl
  have g := signed_good 2 2 none ⟨2, ecSig, ecMsg, 2⟩ rfl rfl
  have p : (signed 2 2 none).sn.pref = 0 := rfl
  have o : (signed 2 2 none).sn.otpsvn = 2 := rfl
  simp [State.bootSlot, State.slotOk, h, g, p, o]

/-- Both slots have used their attempts. -/
def spent3 : State := { z with sn := { Sniras.reset with slots := [(0, ⟨0, 0, [], 3⟩), (1, ⟨0, 0, [], 3⟩)] } }

theorem witness_boot :
    (∃ s : State, s.arg 0 = 0 ∧ s.sn.update ≠ some true ∧ s.sn.recovery = false ∧ s.bootSlot = some (0, false) ∧
      fwSup (tget FwSlot.none s.sn.slots 0).image = none) ∧
    (∃ s : State, s.arg 0 = 1 ∧ s.bootSlot = none) ∧ ((host []).sn.watchdog = true ∧ z.sn.watchdog = false) ∧
    (∀ h ∈ [0, 1], ∀ svn ∈ [1, 2], ∃ (s : State) (x : FwSlot), s.arg 0 = h ∧ s.sn.update = some (h != 0) ∧ s.sn.otpsvn = 2 ∧
      tget FwSlot.none s.sn.slots (1 - s.sn.running) = x ∧ x.svn = svn ∧
      keyDigest s.sn.fwKey = s.sn.otpKey ∧ ecdsaOk s.sn.fwKey (sha256 x.image) x.sig = true) ∧
    (∃ s : State, s.sn.update = some false ∧ s.arg 0 = 0 ∧ keyDigest s.sn.fwKey ≠ s.sn.otpKey) ∧
    (∀ h ∈ [0, 1], ∃ s : State, s.arg 0 = h ∧ s.sn.update = some (h == 0)) ∧
    (∀ p ∈ [899, 900, 1800, 1801], ∃ s : State, s.arg 0 = 1 ∧ s.sn.update ≠ some true ∧ s.sn.recovery = false ∧ s.arg 1 = p) ∧
    (∃ (s : State) (r : KeyRec), s.sn.dumped = none ∧ tfind s.keys 8 = some r ∧ s.confidential r.owner = true) ∧
    ∃ s : State, s.sn.dumped.isSome = true ∧ s.arg 0 ∉ s.sn.cutPorts ∧ 4 ∈ s.sn.cutPorts :=
  ⟨⟨args (signed 2 2 none) [0], by decide, by decide, by decide, signed_boots, by decide +kernel⟩,
    ⟨args spent3 [1], rfl, by
      have h0 : ((args spent3 [1]).slot 0).att = 3 := rfl
      have h1 : ((args spent3 [1]).slot 1).att = 3 := rfl
      have p : (args spent3 [1]).sn.pref = 0 := rfl
      simp [State.bootSlot, State.slotOk, p, h0, h1]⟩, by decide,
    fun h _ v _ => ⟨args (signed 0 v (some (h != 0))) [h], ⟨v, ecSig, ecMsg, 3⟩, rfl, rfl, rfl, rfl, rfl, rfl, ec_verifies⟩,
    ⟨{ z with sn := { Sniras.reset with update := some false, fwKey := ecKey, otpKey := 0 } }, rfl, rfl, by decide +kernel⟩,
    fun h _ => ⟨args { z with sn := { Sniras.reset with update := some (h == 0) } } [h], rfl, rfl⟩,
    fun p hp => ⟨args z [1, p], by revert p; decide⟩,
    ⟨host [], ⟨0, 3⟩, by decide +kernel⟩, args { z with sn := { Sniras.reset with dumped := some 2, cutPorts := [4] } } [5], by decide +kernel⟩

/-! Witnesses: the fabric, collectives and packets (O45 to O48, O54). -/

/-- A node of a 2x1x1 torus with its port 0 trained; job 1 in the fabric's table with every group and a Crucible window of one page; a
packet in lane 0. -/
def fjob : FabJob := ⟨2, BitVec.allOnes 32, 0, 1, 0⟩
def fnode : State := { jobs with
  nodecfg := 0x8000, fab := { Fabric.reset with jobs := [(1, fjob)], links := 1 } }
def pk : Packet := { Packet.zero with nprog := 1, prog := [0xD000], hb := 1, pmi := 1, tenant := 2, dst := 1 }
def inLane (p : Packet) (n : Nat) : State := fnode.updFab fun f => { f with lanes := [(0, ⟨[], some p, n⟩)] }
def pcmd (k : CKind) (c : Word) (md : Nat) : CopyIn := { copyIn with cmd := ⟨k, 0, 0, c, md, 0, 0⟩ }
/-- A packet command of context 0 of core 0, with handle 3. -/
def punit (k : CKind) : State := (fnode.updCore 0 fun c => { c with handles := [] }).updFab fun f => { f with
  pktq := [pcmd k 3 0], staged := [⟨0, 0, 7, 0, pk⟩], park := [(9, ⟨pk, 1, 0, 0⟩)] }
def remote : RemOp := ⟨5, pcmd .rst 3 0, some 3, 1, .sent, ⟨5, false, [], false, 0⟩, false⟩

theorem witness_fabric_events :
    (∀ hb ∈ [0, 1], ∃ s : State, s.laneHeld s.cur.lane = false ∧ (s.fab.lane s.cur.lane).pkt = none ∧ (s.fab.lane s.cur.lane).queue = [({ pk with hb := hb }, .arrive)] ∧
      s.cur.inp = [] ∧ s.sn.dumped = none ∧ tfind s.fab.jobs 1 = some fjob ∧ fjob.tenant = pk.tenant ∧
      ((List.range 256).find? fun i => (tfind s.fab.park i).isNone) = some 0) ∧
    (let s := punit .pksnd
     ((s.fab.pktq.find? fun c => c.core == 0 && c.ctx == 0) = some (pcmd .pksnd 3 0) ∧
      (s.fab.staged.find? fun y => y.isSlot (pcmd .pksnd 3 0) 0) = some ⟨0, 0, 7, 0, pk⟩ ∧ pk.bad s.nodecfg = false ∧ s.fab.unsent = [] ∧
      (s.source (srcCore 0)).waiting = [] ∧ (s.source (srcCore 0)).used ≤ 6)) ∧
    (∃ s : State, s.fab.pktq = [pcmd .pksnd 3 0] ∧ s.fab.unsent = [] ∧ (s.fab.staged.find? fun y => y.isSlot (pcmd .pksnd 3 0) 0).isSome = true ∧
      (s.source (srcCore 0)).waiting ≠ [] ∧ (s.source (srcCore 0)).sends = [] ∧ recordPasses (s.stream 0 2) 0x31 = true ∧
      s.tenantOf 1 = 2 ∧ s.lossless (s.stream 0 2) = true) ∧
    (∃ (s : State) (u : Unsent), s.fab.unsent = [u] ∧ u.inp.core = 0 ∧ u.inp.ctx = 0 ∧ u.ts = none ∧
      ((s.source (srcCore 0)).sends.find? fun y => y.1 == u.pkt.tenant) = some (2, 77)) ∧
    (∃ (s : State) (x : Leaving), s.fab.leaving[s.arg 0]? = some x ∧ s.arg 0 < 6 ∧ x.port = s.arg 0) ∧
    (let s := punit .pkprkDrop
     ((s.core.handle 3).st = .free ∧ s.heldBack 0 0 7 = false ∧ s.pickPark (pcmd .pkprkDrop 3 0) = none) ∧
      (s.pickPark { pcmd .pkprkDrop 3 0 with cmd := { (pcmd .pkprkDrop 3 0).cmd with b := allOnes } }).map Prod.fst = some 9) ∧
    (∀ k ∈ [0, 1, 2, 3], ∀ src ∈ [0, 1], ∃ s : State, s.arg 0 = k ∧ s.arg 1 = src ∧ s.self = 0 ∧ s.arg 10 = 0 ∧ s.sn.dumped = none ∧
      (tfind s.fab.jobs (s.arg 3)).map FabJob.tenant = some (s.arg 4) ∧
      (match (s.cpPages 4 (s.anvilView (s.arg 3)) (if k = 0 then .read else .write)
          (pageParts (s.arg 7 / 4096 + 2) 0 (BitVec.ofNat 64 (s.arg 6)) (s.arg 7))).2 with
        | .inl rs => !rs.isEmpty && rs.all fun x => !(s.keyDead x.key x.pa)
        | .inr _ => false) = true) ∧
    (∃ s : State, s.sn.dumped.isSome = true ∧ s.arg 11 = 5 ∧ s.sn.cutPorts = [4]) ∧
    (∀ node ∈ [1, 32], ∃ s : State, s.sn.dumped = none ∧ s.self = 0 ∧ s.arg 10 = node ∧
      s.present ((routePort s.nodecfg node).getD 0) = decide (node = 1)) ∧
    (∀ k ∈ [4, 5], ∃ s : State, s.arg 0 = k ∧ s.arg 10 = s.self ∧ s.sn.dumped = none ∧ plocOf (s.arg 6) = .crucible 0 ∧ rangeMapped (s.arg 6) (s.arg 7) = true ∧
      s.cur.inp.length = s.arg 7) ∧
    (∃ s : State, s.arg 0 = 1 ∧ s.sn.dumped = none ∧ s.arg 10 = s.self ∧ tfind s.fab.jobs (s.arg 3) = none) ∧
    (∃ s : State, s.remoteAt (s.arg 0) = some remote ∧ s.sn.dumped = none ∧ s.arg 4 = s.self ∧ s.heldBack 0 0 7 = false ∧ ((s.coreAt 0).handle 3).rel = none) ∧
    (∃ s : State, s.fab.held[s.arg 0]? = some (.response 0 1 ⟨5, false, [], false, 0⟩)) ∧ ∀ l ∈ [0, 5], ∃ s : State, s.arg 0 = l :=
  ⟨fun h hh => ⟨fnode.updFab fun f => { f with lanes := [(0, ⟨[({ pk with hb := h }, .arrive)], none, 0⟩)] }, by revert h; decide +kernel⟩,
    by decide +kernel,
    ⟨{ punit .pksnd with
      feat := 4, mem := memWrite [] 256 128 (2 * 2 ^ 350 + 2 ^ (512 + 0x31)), trace := [(srcCore 0, { TraceSrc.zero with waiting := [(2, 0, 0)] })] },
      by decide +kernel⟩,
    ⟨{ fnode.updFab fun f => { f with unsent := [⟨pcmd .pksnd 3 0, pk, none⟩] } with
      trace := [(srcCore 0, { TraceSrc.zero with sends := [(2, 77)] })] }, ⟨pcmd .pksnd 3 0, pk, none⟩, by decide +kernel⟩,
    ⟨args (fnode.updFab fun f => { f with leaving := [⟨0, pk, pk, 2⟩] }) [0], ⟨0, pk, pk, 2⟩, by decide +kernel⟩,
    by decide +kernel, fun k hk q hq => ⟨args (paged fnode) [k, q, 5, 1, 2, 0, 0x100, 8, 0, 0], by revert k q; decide +kernel⟩,
    ⟨args { z with sn := { Sniras.reset with dumped := some 3, cutPorts := [4] } } [0, 0, 0, 0, 0, 0, 0, 0, 0, 0, 0, 5], by decide +kernel⟩,
    fun n hn => ⟨args { fnode with nodecfg := 0x108000 } [0, 0, 0, 1, 2, 0, 0, 8, 0, 0, n], by revert n; decide +kernel⟩,
    fun k hk => ⟨let s := args fnode [k, 1, 5, 1, 2, 0, 0x3E_1000_0000, 2, 0, 0]; { s with cur := { s.cur with inp := [1, 2] } },
      by revert k; decide +kernel⟩,
    ⟨args fnode [1, 1, 5, 63, 2, 0, 0, 8, 0], by decide +kernel⟩,
    ⟨args (fnode.updFab fun f => { f with remote := [remote] }) [5], by decide +kernel⟩,
    ⟨args (fnode.updFab fun f => { f with held := [.response 0 1 ⟨5, false, [], false, 0⟩] }) [0], by decide +kernel⟩, fun l _ => ⟨args z [l], rfl⟩⟩

/-- Collective 6 of job 1, aborted, with one bucket of one die; its counter is number 5 of the job. -/
def cdie : CollDie := ⟨0, pcmd .coll 0 0, 0x100, [0], none, [], []⟩
def coll (ended : Option Nat) (failed : List (Nat × Nat)) : Coll := ⟨1, 6, 0, 0, [cdie], [], [], [], ended, false, [], failed, none⟩
/-- The header of a sum of BF16 elements on die 0 with one bucket and counter 64; its entry, from 200H to 300H, 16 elements; as a layout, one
dimension of 16, replicated. -/
def collHdr : Nat := 64 * 2 ^ 112 + 2 ^ 45 + 2 ^ 41 + 3 * 2 ^ 37 + 6
def collLay : Nat := 0x200 + 0x300 * 2 ^ 64 + 16 * 2 ^ 128
/-- The same collective of one bucket on a line of two nodes; the chunk of each, and its CBKT. -/
def lineHdr : BitVec 512 := BitVec.ofNat 512 (collHdr + 2 ^ 80)
def lineColl (got : List Chunk) (sent : List Nat) : Coll :=
  ⟨1, 6, lineHdr, 0, [{ cdie with ents := [BitVec.ofNat 256 (0x200 + 0x300 * 2 ^ 64 + 16 * 2 ^ 128)] }], got, sent, [], none, false, [], [], none⟩
def chunk (p : Nat) : Chunk := ⟨1, lineHdr, 0, 0, p, List.replicate 16 CElem.zero, 40⟩
def line (c : Coll) : State := args ((paged fnode).updFab fun f => { f with colls := [c], cbkts := [(0, 1, 6, 0)] }) [1, 6, 0]

/-- A bucket ready to be sent, and one whose contributions are here, its outputs and word on mapped pages. -/
theorem witness_bucket_sent : ∃ (s : State) (c : Coll) (d : CollDie), let h := c.hdr.toNat
    s.stalled srcColl = false ∧ s.sn.dumped = none ∧ s.fab.colls = [c] ∧ c.job = s.arg 0 ∧ c.cnum = s.arg 1 ∧ c.ended = none ∧ c.spread = false ∧
    c.dies = [d] ∧ c.sent = [] ∧ c.got = [] ∧ 1 < chNodes h ∧ s.arg 2 = 0 ∧ 0 < chNb h ∧ chDies h = [d.die] ∧ s.bucketReady c d.die 0 = true ∧
    (s.collRead d (ceSrc (d.ents.getD 0 0)) (chWidth h) (c.len 0)).2.isLeft = true ∧
    (s.collRead d (ceSrc (d.ents.getD 0 0)) (chWidth h) (c.len 0)).1.fab = s.fab :=
  ⟨line (lineColl [] []), lineColl [] [], (lineColl [] []).dies.headD cdie, by decide +kernel⟩
theorem witness_bucket_done : ∃ (s : State) (c : Coll) (d : CollDie), let h := c.hdr.toNat
    s.stalled srcColl = false ∧ s.sn.dumped = none ∧ s.fab.colls = [c] ∧ c.ended = none ∧ c.dies = [d] ∧ d.outs = [] ∧ c.sent.contains 0 = true ∧
    (c.inputs 0).isSome = true ∧
    let ys := collOuts h (c.len 0) (s.meshSelf h) ((c.inputs 0).getD [])
    (∀ y ∈ ys, y.bad = false) ∧
    let q := s.cpRuns 4 d.view 3 .write (ceDst (d.ents.getD 0 0)) (chWidth h * ys.length)
    q.2.isLeft = true ∧ let rs := q.2.elim id fun _ => []
    (∀ r ∈ rs, q.1.keyDead r.key r.pa = false) ∧
    let w := q.1.runsWrite rs (ys.flatMap fun y => toBytes y.bits (chWidth h)) clean
    w.fab = s.fab ∧
    let m := w.updColl 1 6 fun x => x.updDie d.die fun y => { y with outs := tset y.outs 0 (0, 0) }
    let x : State := match m.bucketCause c 0 with | some t => { m with cur := { m.cur with least := t + 32 } } | none => m
    x.heldBack d.inp.core d.inp.ctx d.inp.serial = false ∧
    let v := x.collStore d (BitVec.ofNat 64 d.cwa) (collWord 0 0 0)
    v.2 = none ∧ v.1.fab = x.fab :=
  ⟨line (lineColl [chunk 0, chunk 1] [0]), lineColl [chunk 0, chunk 1] [0], (lineColl [] []).dies.headD cdie, by decide +kernel⟩

/-- A line of two nodes, as a header's EXT fields and as a layout: one dimension of four, resharded over the line. -/
theorem witness_line : (∃ h : Nat, chExt h 0 = 2 ∧ chExt h 1 = 1 ∧ chExt h 2 = 1) ∧
    ∃ (l : Nat) (x : List CElem), clRank l = 1 ∧ clFps l = 0 ∧ clTps l = 0 ∧ clFrom l 0 = 1 ∧
      (∀ k, k < 4 → clTo l k = 0 ∧ (k ≠ 0 → clFrom l k = 0)) ∧ clExt l 0 = 2 * x.length :=
  ⟨⟨2 ^ 80, by decide⟩, 2 ^ 226 + 4 * 2 ^ 128, List.replicate 2 CElem.zero, by decide +kernel⟩

theorem witness_collective_events :
    (∃ (s : State), s.fab.collq = [pcmd .cwgt 0 0] ∧ s.sn.dumped = none) ∧
    (∀ k ∈ [CKind.coll, .resh], ∃ s : State, s.fab.collq = [pcmd k 0 0] ∧ s.sn.dumped = none ∧
      (match s.collRecord (pcmd k 0 0) with
        | (u, some (h, l, some es)) => (u.collAt 1 (chNum h)).isNone &&
            (if k == .resh then !(u.reshBad 1 h l) else !(u.collBad 1 h es)) && (chDies h).contains 0
        | _ => false) = true) ∧ (∃ s : State, s.fab.newWeights = some 0x421) ∧
    (∀ f ∈ [[], [(0, 0)]], ∃ s : State, s.stalled srcColl = false ∧ s.fab.colls = [coll (some 8) f] ∧ s.arg 0 = 1 ∧ s.arg 1 = 6 ∧ s.arg 2 = 0 ∧ s.sn.dumped = none ∧
      s.heldBack 0 0 7 = false ∧ (s.collStore cdie 0x100 (collWord 8 0 0)).2 = none ∧ (s.collStore cdie 0x100 (collWord 8 0 0)).1.fab = s.fab) ∧
    (∃ s : State, s.sn.dumped = none ∧ s.collLate 1 6 8 = false ∧ s.arg 2 = 8 ∧ s.collAt (s.arg 0) (s.arg 1) = none) ∧
    (∃ s : State, s.sn.dumped = none ∧ s.collLate 1 6 8 = false ∧ s.collAt (s.arg 0) (s.arg 1) = some (coll none [])) ∧
    ∃ s : State, s.sn.dumped = none ∧ s.collLate 1 0 0 = false ∧ s.collAt (s.arg 0) (chNum (chShared (ofBytes (s.cur.inp.take 64))).toNat) = none :=
  let put (s : State) (l : List Coll) : State := s.updFab fun f => { f with colls := l }
  ⟨⟨fnode.updFab fun f => { f with collq := [pcmd .cwgt 0 0] }, by decide⟩,
    fun k hk => ⟨{ fnode.updFab fun f => { f with collq := [pcmd k 0 0] } with
      domain := 0x8000000#64, mem := memWrite (memWrite [] (spBase 0) 64 collHdr) (spBase 0 + 64) 64 collLay }, by revert k; decide +kernel⟩, ⟨fnode.updFab fun f => { f with newWeights := some 0x421 }, by decide⟩,
    fun f hf => ⟨put (args (paged fnode) [1, 6, 0]) [coll (some 8) f], by revert f; decide +kernel⟩, ⟨args z [1, 6, 8], by decide⟩,
    ⟨put (args z [1, 6, 8]) [coll none []], by decide +kernel⟩, args z [1], by decide +kernel⟩

/-- Packets of zero, two and eight stack entries; the last instruction of the step limit and one beyond; a payload of one word. -/
theorem witness_packet :
    (∀ sd ∈ [0, 1, 2, 8], ∃ (s : State) (p : Packet), s.PktMay p 0 ∧ s.PktMay p 1 ∧ (s.fab.lane s.cur.lane).steps = 15 ∧ p.sd = sd ∧
      p.plen = 4) ∧
    (∃ (s : State) (p : Packet), (s.fab.lane s.cur.lane).pkt = some p ∧ (s.fab.lane s.cur.lane).steps = 16 ∧ p.sd ≤ 8) ∧
    ∃ (s : State) (p : Packet), (s.fab.lane s.cur.lane).pkt = some p ∧ (s.fab.lane s.cur.lane).steps < 16 ∧
      ∀ j, tfind s.fab.jobs p.pmi = some j → j.perm.getLsbD 0 = false :=
  ⟨fun sd hs => ⟨inLane { pk with sd := sd, plen := 4 } 15, { pk with sd := sd, plen := 4 }, ⟨rfl, Nat.lt_succ_self 15, fjob, rfl, by decide⟩,
      ⟨rfl, Nat.lt_succ_self 15, fjob, rfl, by decide⟩, rfl, rfl, rfl⟩,
    ⟨inLane pk 16, pk, rfl, rfl, by decide⟩, inLane { pk with pmi := 0 } 0, { pk with pmi := 0 }, rfl, by decide, fun j h => nomatch h⟩

/-- Tops of stack at the ends of each target's range: the last word of the window and the first beyond; port 0, present, and port 1, not;
counter 127 of the job, one of another job, handle 1 of core 0 free and FULL, node 0 with a count of 2, and die 0 for a graph. -/
def withTop (t : BitVec 32) : Packet := { pk with sd := 2, stk := [(0, t), (1, t)], k := [(2, 0x100)] }
def delivers (p : Packet) (h : HState) : State := { (((paged (inLane p 0)).updCore 0 fun k => { k with
    ctxs := [(0, { spc with task := some { task with hCnt := 2 } })], bound := some 1, handles := [(1, ⟨h, none⟩)] }).updDie 0 fun d => { d with
    nodes := [(0, { node1 with st := .waiting, count := 2 })] }) with
  mem := memWrite (memWrite (paged z).mem 0x3E01000100 64 1) 0x3E01000140 32 (0x200 * 2 ^ 192) }
theorem witness_packet_delivery :
    (∀ t ∈ [0, 6, 1023, 1024, 127, 1, 4095, 4096, 16384, 32768], ∃ (s : State) (p : Packet) (j : FabJob),
      (s.fab.lane s.cur.lane).pkt = some p ∧ (s.fab.lane s.cur.lane).steps < 16 ∧ tfind s.fab.jobs p.pmi = some j ∧
      j.perm = BitVec.allOnes 32 ∧ p.sd = 2 ∧ (tget 0 p.stk (p.sd - 1)).toNat = t ∧ (tget 0 p.stk (p.sd - 2)).toNat = t ∧
      j.crSize * 4096 = 4096 ∧ p.plen = 0 ∧ s.present 0 = true ∧ s.present 1 = false ∧ routePort s.nodecfg p.dst = some 0 ∧
      ((tfind (s.dieAt 0).nodes 0).map fun y => (y.job, y.st, y.count)) = some (1, .waiting, 2) ∧
      (s.coreAt 0).bound = some p.pmi ∧ (s.coreAt 0).jobHandle 1 1 = true ∧ (s.coreAt 0).jobHandle 1 2 = false) ∧
    routePort fnode.nodecfg 0 = none ∧ (∃ s : State, routePort s.nodecfg 32 = some 2 ∧ s.present 2 = false) ∧
    (∀ h ∈ [HState.free, .full], ∃ s : State, ((s.coreAt 0).handle 1).st = h ∧ (s.readGraph 0 1 (withTop 0).place).2.isSome = true ∧
      (s.job 1).phaseDone = false ∧ (s.job 1).cancFrom = none) :=
  ⟨fun t ht => ⟨delivers (withTop (BitVec.ofNat 32 t)) .free, withTop (BitVec.ofNat 32 t), fjob, by revert t; decide +kernel⟩, by decide,
    ⟨{ fnode with nodecfg := 0x108000 }, by decide⟩,
    fun h hh => ⟨delivers (withTop 0) h, by revert h; decide +kernel⟩⟩

/-- Payloads and graphs on a mapped page and on one that is not present. -/
def carrying (t : BitVec 32) (hi : BitVec 32) : Packet := { withTop t with plen := 8, k := [(2, hi)], pay := [(0, 5)] }
def under (p : Packet) : Packet := { p with sd := p.sd - 1 }
theorem witness_payload :
    (∀ t ∈ [64, 127, 1], ∃ (s : State) (p : Packet), (s.fab.lane s.cur.lane).pkt = some p ∧ p.sd ≠ 0 ∧ (tget 0 p.stk (p.sd - 1)).toNat = t ∧
      ((s.coreAt 0).handle 1).st = .free ∧
      let q := s.dlvPages (under p)
      q.2.isLeft = true ∧ let rs := q.2.elim id fun _ => []
      (∀ r ∈ rs, q.1.keyDead r.key r.pa = false) ∧ (q.1.runsWrite rs (under p).payload clean).fab = s.fab ∧
      let w := (q.1.updCore 0 fun k => k.setHandle 1 ⟨.filling, none⟩).runsWrite rs (under p).payload clean
      w.fab = s.fab ∧ (w.coreAt 0).handle 1 = ⟨.filling, none⟩) ∧
    (∃ (s : State) (p : Packet), (s.fab.lane s.cur.lane).pkt = some p ∧ (s.dlvPages (under p)).1.fab = s.fab ∧
      (match (s.dlvPages (under p)).2 with | .inr (.fault _ _) => true | _ => false) = true) ∧
    (∃ (s : State) (p : Packet), (s.fab.lane s.cur.lane).pkt = some p ∧ p.plen = 0 ∧ (s.dlvGraph 0 (under p)).1.fab = s.fab ∧
      (match (s.dlvGraph 0 (under p)).2 with | some (.fault _ _) => true | _ => false) = true) ∧
    ∃ (s : State) (p : Packet), (s.fab.lane s.cur.lane).pkt = some p ∧ p.plen = 0 ∧
      let v := s.dlvGraph 0 (under p)
      v.2 = none ∧ v.1.jobs = s.jobs ∧ v.1.fab = s.fab ∧
      (({ v.1 with cur := { v.1.cur with least := p.sentOn v.1 + 32 } } : State).readGraph 0 1 p.place).2.isSome = true :=
  ⟨fun t ht => ⟨delivers (carrying (BitVec.ofNat 32 t) 0x100) .free, carrying (BitVec.ofNat 32 t) 0x100, by revert t; decide +kernel⟩,
    ⟨delivers (carrying 64 0x40000000) .free, carrying 64 0x40000000, by decide +kernel⟩,
    ⟨delivers { withTop 0 with k := [(2, 0x40000000)] } .free, { withTop 0 with k := [(2, 0x40000000)] }, by decide +kernel⟩,
    delivers (withTop 0) .free, withTop 0, by decide +kernel⟩

/-- A packet whose PC stands at NPROG. -/
theorem witness_packet_end : ∃ (s : State) (p : Packet), (s.fab.lane 0).pkt = some p ∧ (s.fab.lane 0).steps < 16 ∧ p.nprog ≤ p.pc ∧ s.laneHeld 0 = false :=
  ⟨inLane { pk with pc := 1 } 0, { pk with pc := 1 }, by decide⟩

/-! Witnesses: registers and traps, encodings, and the step (O49 to O60). -/

/-- A register poisoned, s0 not; an empty latch. -/
theorem witness_trap : (∃ s : State, s.cur.poisonV = none ∧ s.ctx.bad.contains (0, 5) = true ∧ s.ctx.bad.contains (0, 0) = false) ∧
    (∃ s : State, s.ctx.replay = false ∧ s.ctx.latchAt 2 3 = none ∧ s.ctx.bad.contains (0, 0) = false) ∧
    (∃ (s : State) (x : Task), s.cur.ctx ≠ 4 ∧ s.ctx.task = some x ∧ x.handler = 0 ∧ s.core.port = some s.cur.ctx) ∧
    ∃ c : Ctx, c.pend = [] :=
  ⟨⟨withC { Ctx.reset with bad := [(0, 5)] }, by decide⟩, ⟨z, by decide⟩,
    ⟨(withC { spc with task := some task }).updCore 0 fun k => { k with port := some 0 }, task, by decide⟩, Ctx.reset, rfl⟩

/-- Opcodes without a row, a NOP with a nonzero bit, the supervisor's lowest opcode, and an M-slot word of a no-matrix task. -/
theorem witness_illegal : rowOf .s (0x001FC00000000000 / 2 ^ 54) = none ∧ rowOf .s 0x3EF = none ∧ rowC 0x7F = none ∧ rowY 0x3F = none ∧
    (∀ w ∈ [0xFC66090008400400, 0xFC00000000000000 + 0x3E * 2 ^ 54 % 2 ^ 54 + 1], ∃ q : Attr, q.sup = false ∧ 0x3F0 ≤ w / 2 ^ 54 ∧ w < 2 ^ 64 ∧
      ((decSlot { q with sup := true } .s w).why = 0 ∨ (decSlot { q with sup := true } .s w).why < 9)) ∧
    (∀ w ∈ [0x04000200001C1133, 2 ^ 54 * 0x3FF], ∃ q : Attr, q.nomx = true ∧ w < 2 ^ 64 ∧
      ((decSlot { q with nomx := false } .m w).why = 0 ∨ (decSlot { q with nomx := false } .m w).why < 8)) ∧
    ∃ (s : State) (op : ROp), mdSpace op.md = .cl ∧ slotOf (.sts op) = some .t ∧ (match exec (.sts op) s with | .next _ => true | _ => false) = true := by
  refine ⟨by decide +kernel, by decide +kernel, by decide +kernel, by decide +kernel, fun w hw => ⟨{ Attr.any with sup := false }, rfl, by revert w; decide +kernel⟩,
    fun w hw => ⟨{ Attr.any with nomx := true }, rfl, by revert w; decide +kernel⟩, z, ro (r 1) (r 2) (r 3) 0x100, by decide +kernel⟩

/-- A well-formed instruction of a slot, and of a packet; a bundle of one operation. -/
theorem witness_encode : WellFormed (.add (ro (r 1) (.const 5) (r 0) 0)) = true ∧ slotOf (.add (ro (r 1) (.const 5) (r 0) 0)) = some .s ∧
    WellFormed (.pktJmp 15) = true ∧ instrCode (.pktJmp 15) = .pkt 0xA80F := by decide +kernel

def adder : Bundle := ⟨0, false, true, 0, some (.add (ro (r 1) (.const 5) (r 0) 0)), none, none, none, none, none, none, none⟩
theorem witness_bundle : adder.scope.toNat < 5 ∧ endReason adder.se (encSlot adder.s / 2 ^ 54) = 0 ∧
    withDoubles (slots.map fun sl => decSlot Attr.any sl (encSlot (adder.op sl))) = [0, 0, 0, 0, 0, 0, 0, 0] := by decide +kernel

/-- The bundle in core 0's fetch buffer, its context at its address with the port; and the same with an undefined opcode in the A slot. -/
def atAdder : State := z.withFetchWord 512 (encodeBundle adder).toNat
def atIll : State := z.withFetchWord 512 ((encodeBundle adder).toNat + 0x3EF * 2 ^ 150)
theorem witness_step : atAdder.TurnOf 0 ∧ atAdder.turned.Fetched 0 0 (encodeBundle adder) ∧
    (decodeBundle (atAdder.turned.ctxAt 0 0).attr (encodeBundle adder) = .bundle adder ∧
      let i : Instr := .add (ro (r 1) (.const 5) (r 0) 0)
      undoneOps adder (atAdder.ctxAt 0 0).mask = [(.s, i)] ∧ spPair adder = false ∧
      let v := (atAdder.turned.atBundle 0 0 0 [i]).queueFirst 0 0 [i]
      (v.ctxAt 0 0).stat = .issuing ∧
      v.stopOf i = none ∧ opPops i = [] ∧ (v.waitsOf [i]).any = false ∧ v.bankWait [i] ≤ (v.ctxAt 0 0).bankN) :=
  ⟨⟨rfl, rfl, rfl, _, rfl⟩, ⟨⟨by decide +kernel, rfl, rfl, rfl, Or.inr (by decide +kernel), Or.inl rfl, Or.inr (by decide +kernel),
    by decide +kernel⟩, Or.inl rfl, by decide +kernel, Or.inr (Or.inl rfl)⟩, by decide +kernel⟩

theorem witness_illegal_step : atIll.TurnOf 0 ∧ (∃ w, atIll.turned.Fetched 0 0 w ∧
    decodeBundle (atIll.turned.ctxAt 0 0).attr w = .ill partA 1 ∧
    atIll.turned.valueIll 0 0 (opsBelow (atIll.turned.ctxAt 0 0).attr w partA) = none) :=
  ⟨⟨rfl, rfl, rfl, _, rfl⟩, BitVec.ofNat 512 ((encodeBundle adder).toNat + 0x3EF * 2 ^ 150),
    ⟨⟨by decide +kernel, rfl, rfl, rfl, Or.inr (by decide +kernel), Or.inl rfl, Or.inr (by decide +kernel),
    by decide +kernel⟩, Or.inl rfl, by decide +kernel, Or.inr (Or.inl rfl)⟩, by decide +kernel⟩

/-- An event at the head of the agenda; a lane's turn with a packet whose instruction decodes. -/
theorem witness_step_other : (∃ (s : State) (e : Ev), s.agenda = [e] ∧ s.sn.dumped = none) ∧
    ∃ (s : State) (p : Packet), s.agenda = [] ∧ s.sn.dumped = none ∧ s.turn % 2 = 1 ∧
      ({ s with turn := s.turn + 1 } : State).duties[s.turn / 2 % ({ s with turn := s.turn + 1 } : State).duties.length]? = some (.lane 0) ∧
      (s.fab.lane 0).pkt = some p ∧ (s.fab.lane 0).steps < 16 ∧ p.pc < p.nprog ∧ s.laneHeld 0 = false ∧
      decodePacket (p.prog.getD p.pc 0).toNat = some .pktDrop :=
  ⟨⟨{ z with agenda := [⟨.mxsum, 0, 0, 0, [], []⟩] }, ⟨.mxsum, 0, 0, 0, [], []⟩, rfl, rfl⟩,
    z.withFetchWord 16 0xD000, (((z.withFetchWord 16 0xD000).fab.lane 0).pkt).getD pk, by decide +kernel⟩

/-! Decoding: each instruction by a word put together from the opcode maps and field layouts of R52 to R69, with PRED 9 and PN 1,
and operands at the ends of their ranges. -/

/-- Words of a slot decode to the instructions they stand for. -/
def decodes (sl : SlotId) (l : List (Nat × Instr)) : Bool := l.all fun p => (decSlot Attr.any sl p.1).op == some p.2

theorem decode_s0 : decodes .s [
    (0x67006C38000000, .add ⟨9, true, true, 0, .latch 2 3, .const 128, .reg 0, 0x0⟩),
    (0xA63F5430500000, .sub ⟨9, true, false, 63, .latch 1 1, .const 5, .reg 0, 0x0⟩),
    (0xE63F803FFFFC00, .addi ⟨9, true, false, 63, .queue false, 0xFFFFF, 0x0⟩),
    (0x6263F8040000000, .clz ⟨9, true, false, 63, .queue true, .reg 0, .reg 0, 0x0⟩),
    (0x6663F8040000000, .popc ⟨9, true, false, 63, .queue true, .reg 0, .reg 0, 0x0⟩),
    (0x9263F0070503C00, .sel ⟨9, true, false, 63, .reg 1, .const 5, .reg 15, 0x0⟩),
    (0xA260F0070500005, .cmp ⟨9, true, false, 15, .reg 1, .const 5, .reg 0, 0x5⟩),
    (0xC260F0040E00000, .pand ⟨9, true, false, 15, .reg 1, .reg 14, .reg 0, 0x0⟩),
    (0xC660F0040E00000, .por ⟨9, true, false, 15, .reg 1, .reg 14, .reg 0, 0x0⟩),
    (0xCA60F0040E00000, .pxor ⟨9, true, false, 15, .reg 1, .reg 14, .reg 0, 0x0⟩),
    (0xCE60F0380000000, .pnot ⟨9, true, false, 15, .reg 14, .reg 0, .reg 0, 0x0⟩),
    (0x102605FFFFFFFF01, .movi ⟨9, true, false, 5, 0xFFFFFFFF, 0x1⟩)] = true := by decide +kernel

theorem decode_s1 : decodes .s [
    (0x1066058000000100, .movhi ⟨9, true, false, 5, 0x80000001, 0x0⟩),
    (0x10A6050060000001, .lea ⟨9, true, false, 5, .reg 1, 0x80000, 0x1⟩),
    (0x10E6050040200C01, .bfx ⟨9, true, false, 5, .reg 1, .reg 2, .reg 3, 0x1⟩),
    (0x1126050040200040, .bfi ⟨9, true, false, 5, .reg 1, .reg 2, .reg 0, 0x40⟩),
    (0x1426050000008800, .csrr ⟨9, true, false, 5, .reg 0, 0x22, 0x0⟩),
    (0x14660001C0008800, .csrw ⟨9, true, false, 0, .reg 7, 0x22, 0x0⟩),
    (0x182600FFFFFFFB00, .br ⟨9, true, false, 0, 0xFFFFFFFB, 0x0⟩),
    (0x186600C000000C05, .brc ⟨9, true, false, 0, .const 0, 0x3, 0x5⟩),
    (0x18A63E0000000700, .call ⟨9, true, false, 62, 0x7, 0x0⟩),
    (0x18E6000F80000000, .ret ⟨9, true, false, 0, .reg 62, .reg 0, .reg 0, 0x0⟩),
    (0x1926000100003001, .loopm ⟨9, true, false, 0, .reg 4, 0xC, 0x1⟩),
    (0x196600FFFFFFFF00, .brlc ⟨9, true, false, 0, 0xFFFFFFFF, 0x0⟩)] = true := by decide +kernel

theorem decode_s2 : decodes .s [
    (0x1C26000000123400, .trap ⟨9, true, false, 0, 0x1234, 0x0⟩),
    (0x1C66000000000000, .endTask ⟨9, true, false, 0, .reg 0, .reg 0, .reg 0, 0x0⟩),
    (0xFC26000000000000, .eret ⟨9, true, false, 0, .reg 0, .reg 0, .reg 0, 0x0⟩),
    (0xFC66090008400400, .xrd ⟨9, true, false, 9, .reg 0, 0x21001, 0x0⟩),
    (0xFCA6000250800800, .xwr ⟨9, true, false, 0, .reg 9, 0x42002, 0x0⟩),
    (0x1263F5430500000, .mul ⟨9, true, false, 63, .latch 1 1, .const 5, .reg 0, 0x0⟩),
    (0x1663F5430500000, .mulh ⟨9, true, false, 63, .latch 1 1, .const 5, .reg 0, 0x0⟩),
    (0x1A63F5430500000, .mulhu ⟨9, true, false, 63, .latch 1 1, .const 5, .reg 0, 0x0⟩),
    (0x1E63F5430500000, .div ⟨9, true, false, 63, .latch 1 1, .const 5, .reg 0, 0x0⟩),
    (0x2263F5430500000, .divu ⟨9, true, false, 63, .latch 1 1, .const 5, .reg 0, 0x0⟩),
    (0x2663F5430500000, .rem ⟨9, true, false, 63, .latch 1 1, .const 5, .reg 0, 0x0⟩),
    (0x4263F5430500000, .and ⟨9, true, false, 63, .latch 1 1, .const 5, .reg 0, 0x0⟩)] = true := by decide +kernel

theorem decode_s3 : decodes .s [
    (0x4663F5430500000, .or ⟨9, true, false, 63, .latch 1 1, .const 5, .reg 0, 0x0⟩),
    (0x4A63F5430500000, .xor ⟨9, true, false, 63, .latch 1 1, .const 5, .reg 0, 0x0⟩),
    (0x4E63F5430500000, .andn ⟨9, true, false, 63, .latch 1 1, .const 5, .reg 0, 0x0⟩),
    (0x5263F5430500000, .shl ⟨9, true, false, 63, .latch 1 1, .const 5, .reg 0, 0x0⟩),
    (0x5663F5430500000, .shr ⟨9, true, false, 63, .latch 1 1, .const 5, .reg 0, 0x0⟩),
    (0x5A63F5430500000, .sra ⟨9, true, false, 63, .latch 1 1, .const 5, .reg 0, 0x0⟩),
    (0x5E63F5430500000, .rot ⟨9, true, false, 63, .latch 1 1, .const 5, .reg 0, 0x0⟩),
    (0x8263F5430500000, .min ⟨9, true, false, 63, .latch 1 1, .const 5, .reg 0, 0x0⟩),
    (0x8663F5430500000, .max ⟨9, true, false, 63, .latch 1 1, .const 5, .reg 0, 0x0⟩),
    (0x8A63F5430500000, .minu ⟨9, true, false, 63, .latch 1 1, .const 5, .reg 0, 0x0⟩),
    (0x8E63F5430500000, .maxu ⟨9, true, false, 63, .latch 1 1, .const 5, .reg 0, 0x0⟩)] = true := by decide +kernel

theorem decode_a0 : decodes .a [
    (0x663F0F80100001, .vadd .a ⟨9, true, false, 63, .reg 62, .reg 1, .reg 0, 0x1⟩),
    (0xA63F0F80100001, .vsub .a ⟨9, true, false, 63, .reg 62, .reg 1, .reg 0, 0x1⟩),
    (0xE63F0F80100001, .vmul .a ⟨9, true, false, 63, .reg 62, .reg 1, .reg 0, 0x1⟩),
    (0x127008012001403, .vfma .a ⟨9, true, true, 0, .queue false, .latch 0 2, .reg 5, 0x3⟩),
    (0x167008012001403, .vfms .a ⟨9, true, true, 0, .queue false, .latch 0 2, .reg 5, 0x3⟩),
    (0x1A7008012001403, .vnfma .a ⟨9, true, true, 0, .queue false, .latch 0 2, .reg 5, 0x3⟩),
    (0x1E63F0F80100001, .vmin .a ⟨9, true, false, 63, .reg 62, .reg 1, .reg 0, 0x1⟩),
    (0x2263F0F80100001, .vmax .a ⟨9, true, false, 63, .reg 62, .reg 1, .reg 0, 0x1⟩),
    (0x2663F0F80000002, .vabs .a ⟨9, true, false, 63, .reg 62, .reg 0, .reg 0, 0x2⟩),
    (0x2A63F0F80000002, .vneg .a ⟨9, true, false, 63, .reg 62, .reg 0, .reg 0, 0x2⟩),
    (0x426050180000018, .vsf .a ⟨9, true, false, 5, .reg 6, .reg 0, .reg 0, 0x18⟩),
    (0x626050180000011, .vcvt .a ⟨9, true, false, 5, .reg 6, .reg 0, .reg 0, 0x11⟩)] = true := by decide +kernel

theorem decode_a1 : decodes .a [
    (0x666050180700001, .vqnt .a ⟨9, true, false, 5, .reg 6, .reg 7, .reg 0, 0x1⟩),
    (0x6A6050180700001, .vdqnt .a ⟨9, true, false, 5, .reg 6, .reg 7, .reg 0, 0x1⟩),
    (0x8E6050180000000, .vnot .a ⟨9, true, false, 5, .reg 6, .reg 0, .reg 0, 0x0⟩),
    (0xA260F0180700045, .vcmp .a ⟨9, true, false, 15, .reg 6, .reg 7, .reg 0, 0x45⟩),
    (0xA66050180703C00, .vsel .a ⟨9, true, false, 5, .reg 6, .reg 7, .reg 15, 0x0⟩),
    (0xAA605FFC0000000, .vmov .a ⟨9, true, false, 5, .const 255, .reg 0, .reg 0, 0x0⟩),
    (0xAE6050FC0000007, .vbcast .a ⟨9, true, false, 5, .reg 63, .reg 0, .reg 0, 0x7⟩),
    (0xB26050FC0000007, .viota .a ⟨9, true, false, 5, .reg 63, .reg 0, .reg 0, 0x7⟩),
    (0xC26050180700002, .vshuf .a ⟨9, true, false, 5, .reg 6, .reg 7, .reg 0, 0x2⟩),
    (0xC66050180700000, .vrowm .a ⟨9, true, false, 5, .reg 6, .reg 7, .reg 0, 0x0⟩),
    (0xCA6050180700000, .vcolm .a ⟨9, true, false, 5, .reg 6, .reg 7, .reg 0, 0x0⟩),
    (0xCE6050180000000, .vtrn .a ⟨9, true, false, 5, .reg 6, .reg 0, .reg 0, 0x0⟩)] = true := by decide +kernel

theorem decode_a2 : decodes .a [
    (0xE2605018000005A, .vred .a ⟨9, true, false, 5, .reg 6, .reg 0, .reg 0, 0x5A⟩),
    (0xE66050180000041, .vscan .a ⟨9, true, false, 5, .reg 6, .reg 0, .reg 0, 0x41⟩),
    (0xF26050180702000, .vdot2 .a ⟨9, true, false, 5, .reg 6, .reg 7, .reg 8, 0x0⟩),
    (0x10260501B0300000, .vext .a ⟨9, true, false, 5, .reg 6, .const 3, .reg 0, 0x0⟩),
    (0x10660501B0301C00, .vins .a ⟨9, true, false, 5, .reg 6, .const 3, .reg 7, 0x0⟩),
    (0x10A60501B0300002, .vlds .a ⟨9, true, false, 5, .reg 6, .const 3, .reg 0, 0x2⟩),
    (0x10E60001B0301C01, .vsts .a ⟨9, true, false, 0, .reg 6, .const 3, .reg 7, 0x1⟩),
    (0x20261F0FC0000000, .dnrm .a ⟨9, true, false, 31, .reg 63, .reg 0, .reg 0, 0x0⟩),
    (0x20663E07C0000001, .dexp .a ⟨9, true, false, 62, .reg 31, .reg 0, .reg 0, 0x1⟩),
    (0x20A63F07C1E00000, .ddot .a ⟨9, true, false, 63, .reg 31, .reg 30, .reg 0, 0x0⟩),
    (0x20E63F07C1800000, .ddot8 .a ⟨9, true, false, 63, .reg 31, .reg 24, .reg 0, 0x0⟩),
    (0x21261F07BFD00000, .dscl .a ⟨9, true, false, 31, .reg 30, .const 253, .reg 0, 0x0⟩)] = true := by decide +kernel

theorem decode_a3 : decodes .a [
    (0x21663F07C0000000, .dnget .a ⟨9, true, false, 63, .reg 31, .reg 0, .reg 0, 0x0⟩),
    (0x21A61F0FC0000000, .dnset .a ⟨9, true, false, 31, .reg 63, .reg 0, .reg 0, 0x0⟩),
    (0x21E61F0781D00000, .dadd .a ⟨9, true, false, 31, .reg 30, .reg 29, .reg 0, 0x0⟩),
    (0x22261F0781D00000, .dsub .a ⟨9, true, false, 31, .reg 30, .reg 29, .reg 0, 0x0⟩),
    (0x22661F0780000000, .dneg .a ⟨9, true, false, 31, .reg 30, .reg 0, .reg 0, 0x0⟩),
    (0x22A61F0783F00000, .dmulv .a ⟨9, true, false, 31, .reg 30, .reg 63, .reg 0, 0x0⟩),
    (0x22E61F0781DD0000, .dlerp .a ⟨9, true, false, 31, .reg 30, .reg 29, .const 64, 0x0⟩),
    (0x23261F0780000000, .dmov .a ⟨9, true, false, 31, .reg 30, .reg 0, .reg 0, 0x0⟩),
    (0x23663E07C0000000, .dcvt .a ⟨9, true, false, 62, .reg 31, .reg 0, .reg 0, 0x0⟩),
    (0x8263F0F80100000, .vand .a ⟨9, true, false, 63, .reg 62, .reg 1, .reg 0, 0x0⟩),
    (0x8663F0F80100000, .vor .a ⟨9, true, false, 63, .reg 62, .reg 1, .reg 0, 0x0⟩),
    (0x8A63F0F80100000, .vxor .a ⟨9, true, false, 63, .reg 62, .reg 1, .reg 0, 0x0⟩)] = true := by decide +kernel

theorem decode_a4 : decodes .a [
    (0x9263F0F80100000, .vshl .a ⟨9, true, false, 63, .reg 62, .reg 1, .reg 0, 0x0⟩),
    (0x9663F0F80100000, .vshr .a ⟨9, true, false, 63, .reg 62, .reg 1, .reg 0, 0x0⟩),
    (0x9A63F0F80100000, .vsra .a ⟨9, true, false, 63, .reg 62, .reg 1, .reg 0, 0x0⟩),
    (0x12263F0F80100000, .sadd .a ⟨9, true, false, 63, .reg 62, .reg 1, .reg 0, 0x0⟩),
    (0x12663F0F80100000, .ssub .a ⟨9, true, false, 63, .reg 62, .reg 1, .reg 0, 0x0⟩),
    (0x12A63F0F80100000, .smul .a ⟨9, true, false, 63, .reg 62, .reg 1, .reg 0, 0x0⟩),
    (0x12E63F0F80100000, .smin .a ⟨9, true, false, 63, .reg 62, .reg 1, .reg 0, 0x0⟩),
    (0x13263F0F80100000, .smax .a ⟨9, true, false, 63, .reg 62, .reg 1, .reg 0, 0x0⟩),
    (0x13663F0F80100000, .sand .a ⟨9, true, false, 63, .reg 62, .reg 1, .reg 0, 0x0⟩),
    (0x13A63F0F80100000, .sor .a ⟨9, true, false, 63, .reg 62, .reg 1, .reg 0, 0x0⟩),
    (0x13E63F0F80100000, .sxor .a ⟨9, true, false, 63, .reg 62, .reg 1, .reg 0, 0x0⟩)] = true := by decide +kernel

theorem decode_m0 : decodes .m [
    (0x66050200000038, .omclaim ⟨9, true, false, 5, .reg 8, .reg 0, .reg 0, 0x38⟩),
    (0xA6000200000038, .omrel ⟨9, true, false, 0, .reg 8, .reg 0, .reg 0, 0x38⟩),
    (0xE63F0074000000, .omld ⟨9, true, false, 63, .reg 1, .const 64, .reg 0, 0x0⟩),
    (0x12600007400FC00, .omst ⟨9, true, false, 0, .reg 1, .const 64, .reg 63, 0x0⟩),
    (0x426070F83FDFD88, .mma ⟨9, true, false, 7, .reg 62, .reg 63, .const 127, 0x188⟩),
    (0x466070F83FD0100, .mmaq ⟨9, true, false, 7, .reg 62, .reg 63, .const 64, 0x100⟩),
    (0x826070000000000, .tzero ⟨9, true, false, 7, .reg 0, .reg 0, .reg 0, 0x0⟩),
    (0x866070140000000, .tcfg ⟨9, true, false, 7, .reg 5, .reg 0, .reg 0, 0x0⟩),
    (0x8A63F01C0500000, .trow ⟨9, true, false, 63, .reg 7, .reg 5, .reg 0, 0x0⟩),
    (0x8E63F01C0500000, .tcol ⟨9, true, false, 63, .reg 7, .reg 5, .reg 0, 0x0⟩),
    (0x8A6070FC0500001, .trowW ⟨9, true, false, 7, .reg 63, .reg 5, .reg 0, 0x1⟩),
    (0x8E6070FC0500001, .tcolW ⟨9, true, false, 7, .reg 63, .reg 5, .reg 0, 0x1⟩)] = true := by decide +kernel

theorem decode_m1 : decodes .m [
    (0x926070040200000, .tld ⟨9, true, false, 7, .reg 1, .reg 2, .reg 0, 0x0⟩),
    (0x966000040201C00, .tst ⟨9, true, false, 0, .reg 1, .reg 2, .reg 7, 0x0⟩),
    (0x9A60001C0200C01, .tdrain ⟨9, true, false, 0, .reg 7, .reg 2, .reg 3, 0x1⟩),
    (0x9E60001C0000000, .tsave ⟨9, true, false, 0, .reg 7, .reg 0, .reg 0, 0x0⟩),
    (0xA260501C0000001, .tstat ⟨9, true, false, 5, .reg 7, .reg 0, .reg 0, 0x1⟩)] = true := by decide +kernel

theorem decode_l0 : decodes .l [
    (0x6601017FFFE1C0, .lda ⟨9, true, false, 1, .reg 5, 0xFFFF8, 0x1C0⟩),
    (0xA60101C0000000, .ldw ⟨9, true, false, 1, .reg 7, .reg 0, .reg 0, 0x0⟩),
    (0xE63F00708000C0, .lds ⟨9, true, false, 63, .reg 1, .const 8, .reg 0, 0xC0⟩),
    (0x1263F0074000011, .ldv ⟨9, true, false, 63, .reg 1, .const 64, .reg 0, 0x11⟩),
    (0x166010143F00080, .ldg ⟨9, true, false, 1, .reg 5, .reg 63, .reg 0, 0x80⟩),
    (0x1A6010170400080, .ldx ⟨9, true, false, 1, .reg 5, .const 4, .reg 0, 0x80⟩),
    (0x226000140600300, .pft ⟨9, true, false, 0, .reg 5, .reg 6, .reg 0, 0x300⟩),
    (0x26601000000001F, .qdrop ⟨9, true, false, 1, .reg 0, .reg 0, .reg 0, 0x1F⟩),
    (0x426070174000000, .wset ⟨9, true, false, 7, .reg 5, .const 64, .reg 0, 0x0⟩),
    (0x4660001F0200000, .wadv ⟨9, true, false, 0, .reg 7, .const 2, .reg 0, 0x0⟩),
    (0x4A63F01C0000005, .csel ⟨9, true, false, 63, .reg 7, .reg 0, .reg 0, 0x5⟩)] = true := by decide +kernel

theorem decode_t0 : decodes .t [
    (0x6600007080FCC0, .sts ⟨9, true, false, 0, .reg 1, .const 8, .reg 63, 0xC0⟩),
    (0xA600007400FC18, .stv ⟨9, true, false, 0, .reg 1, .const 64, .reg 63, 0x18⟩),
    (0xE60001C0001400, .stw ⟨9, true, false, 0, .reg 7, .reg 0, .reg 5, 0x0⟩),
    (0x126000043E0FC80, .stg ⟨9, true, false, 0, .reg 1, .reg 62, .reg 63, 0x80⟩),
    (0x166000070803CC0, .stp ⟨9, true, false, 0, .reg 1, .const 8, .reg 15, 0xC0⟩),
    (0x566000040200CC0, .acas ⟨9, true, false, 0, .reg 1, .reg 2, .reg 3, 0xC0⟩),
    (0x4260000400008C0, .aadd ⟨9, true, false, 0, .reg 1, .reg 0, .reg 2, 0xC0⟩),
    (0x466000040000880, .afadd ⟨9, true, false, 0, .reg 1, .reg 0, .reg 2, 0x80⟩),
    (0x4A60000400008A0, .amin ⟨9, true, false, 0, .reg 1, .reg 0, .reg 2, 0xA0⟩),
    (0x4E60000400008C0, .amax ⟨9, true, false, 0, .reg 1, .reg 0, .reg 2, 0xC0⟩),
    (0x5260000400008C0, .axch ⟨9, true, false, 0, .reg 1, .reg 0, .reg 2, 0xC0⟩),
    (0x5A60000400008C0, .aand ⟨9, true, false, 0, .reg 1, .reg 0, .reg 2, 0xC0⟩)] = true := by decide +kernel

theorem decode_t1 : decodes .t [
    (0x5E60000400008C0, .aor ⟨9, true, false, 0, .reg 1, .reg 0, .reg 2, 0xC0⟩),
    (0x6260000400008C0, .axor ⟨9, true, false, 0, .reg 1, .reg 0, .reg 2, 0xC0⟩)] = true := by decide +kernel

theorem decode_c0 : decodes .c [
    (0x199F9F1E800, .copy ⟨9, true, 63, 62, 61, 0⟩),
    (0x299F9F1E800, .copym ⟨9, true, 63, 62, 61, 0⟩),
    (0x399F8000000, .gath ⟨9, true, 63, 0, 0, 0⟩),
    (0x499F8000003, .scad ⟨9, true, 63, 0, 0, 3⟩),
    (0x5980003F800, .hrel ⟨9, true, 0, 0, 127, 0⟩),
    (0x699F9F00001, .taskl ⟨9, true, 63, 62, 0, 1⟩),
    (0x899F9F00000, .canc ⟨9, true, 63, 62, 0, 0⟩),
    (0x999F9F00000, .tmrk ⟨9, true, 63, 62, 0, 0⟩),
    (0x2099F9F00007, .pkb ⟨9, true, 63, 62, 0, 7⟩),
    (0x2199F9F0001F, .pksnd ⟨9, true, 63, 62, 0, 31⟩),
    (0x2399F9F3F8FF, .rld ⟨9, true, 63, 62, 127, 255⟩),
    (0x2499F9F3F8FF, .rst ⟨9, true, 63, 62, 127, 255⟩)] = true := by decide +kernel

theorem decode_c1 : decodes .c [
    (0x2599F9F1E801, .faa ⟨9, true, 63, 62, 61, 1⟩),
    (0x2699F9F3F800, .ffn ⟨9, true, 63, 62, 127, 0⟩),
    (0x4099F8000000, .coll ⟨9, true, 63, 0, 0, 0⟩),
    (0x4199F8000000, .resh ⟨9, true, 63, 0, 0, 0⟩),
    (0x4299F9F00000, .cbkt ⟨9, true, 63, 62, 0, 0⟩),
    (0x4399F8000000, .cwgt ⟨9, true, 63, 0, 0, 0⟩),
    (0x799F800000C, .tasksSetpri ⟨9, true, 63, 0, 0, 12⟩),
    (0x799F8000001, .tasksSusp ⟨9, true, 63, 0, 0, 1⟩),
    (0x799F8000002, .tasksResume ⟨9, true, 63, 0, 0, 2⟩),
    (0x2299F9F3F800, .pkprkCopy ⟨9, true, 63, 62, 127, 0⟩),
    (0x2299F9F3F801, .pkprkTake ⟨9, true, 63, 62, 127, 1⟩),
    (0x229801F3F802, .pkprkRetry ⟨9, true, 0, 62, 127, 2⟩)] = true := by decide +kernel

theorem decode_c2 : decodes .c [
    (0x229801F3F803, .pkprkDrop ⟨9, true, 0, 62, 127, 3⟩)] = true := by decide +kernel

theorem decode_y0 : decodes .y [
    (0x66FE002, .waith ⟨9, true, 127, 0x2⟩),
    (0xA67EFFF, .waitc ⟨9, true, 63, 0xFFF⟩),
    (0xE600000, .acq ⟨9, true, 0, 0x0⟩),
    (0x12600000, .rel ⟨9, true, 0, 0x0⟩),
    (0x16600000, .fence ⟨9, true, 0, 0x0⟩),
    (0x1A60001A, .fencex ⟨9, true, 0, 0x1A⟩),
    (0x1E6A0C05, .chk ⟨9, true, 80, 0xC05⟩),
    (0x22600000, .yld ⟨9, true, 0, 0x0⟩),
    (0x26600000, .brk ⟨9, true, 0, 0x0⟩),
    (0x2A67E0FF, .trig ⟨9, true, 63, 0xFF⟩),
    (0x2E60007F, .fpclr ⟨9, true, 0, 0x7F⟩),
    (0x3267C001, .fpsnap ⟨9, true, 62, 0x1⟩)] = true := by decide +kernel

theorem decode_y1 : decodes .y [
    (0x4261E028, .bara ⟨9, true, 15, 0x28⟩),
    (0x4661E000, .barw ⟨9, true, 15, 0x0⟩),
    (0x4A600000, .rdv ⟨9, true, 0, 0x0⟩)] = true := by decide +kernel

theorem decode_b : decodes .b [(0x663F0F80100001, .vadd .b ⟨9, true, false, 63, .reg 62, .reg 1, .reg 0, 0x1⟩), (0x20E63F07C1800000, .ddot8 .b ⟨9, true, false, 63, .reg 31, .reg 24, .reg 0, 0x0⟩)] = true := by decide +kernel

/-- Packet instructions (R393 to R400). -/
theorem decode_packet : ([
    (0x0403, .pktPshr 3), (0x0802, .pktPopr 2), (0x0FFF, .pktPshi 0x3FF), (0x1000, .pktDup), (0x1400, .pktSwp),
    (0x1800, .pktDrp), (0x2000, .pktAdd), (0x2400, .pktSub), (0x2800, .pktMin), (0x2C00, .pktMax),
    (0x3000, .pktAnd), (0x3400, .pktOr), (0x3800, .pktXor), (0x3C00, .pktShl), (0x4000, .pktShr),
    (0x4400, .pktCeq), (0x4800, .pktClt), (0x7000, .pktTsc), (0x7401, .pktInc 1), (0x7800, .pktNode),
    (0x7C00, .pktHops), (0x6000, .pktLdw), (0x6400, .pktAdw), (0x6800, .pktXcw), (0x807F, .pktPld 127),
    (0x847F, .pktPaccI32 127), (0x8485, .pktPaccF32 5), (0x8506, .pktPaccMax 6), (0xA00F, .pktJz 15), (0xA40E, .pktJnz 14),
    (0xA80D, .pktJmp 13), (0xC0F5, .pktRoutePort 15 5), (0xC036, .pktRouteAuto 3), (0xC047, .pktRoutePop 4), (0xC67F, .pktClone 9 0x3F),
    (0xC800, .pktDlvrCtr), (0xC801, .pktDlvrHnd), (0xC802, .pktDlvrNode), (0xC803, .pktDlvrGraph), (0xCC7F, .pktPark 127),
    (0xD000, .pktDrop)] : List (Nat × Instr)).all (fun p => decodePacket p.1 == some p.2) = true := by
  decide +kernel

/-! Ill-formed terms (R55, R56, R61, R70 to R72): one for each check, refused. -/

/-- One operand beyond the s, p, d, n, t, w and o files and their pairs, each role of a source and a destination. -/
theorem smoke_files : [Instr.add (ro (r 64) (r 1) (r 0) 0), .pand (ro (r 1) (r 16) (r 0) 0), .dadd .a (ro (r 32) (r 1) (r 0) 0),
    .ddot8 .a (ro (r 1) (r 25) (r 0) 0), .wadv { ro (r 8) (r 1) (r 0) 0 with dst := 0 }, .tsave { ro (r 8) (r 0) (r 0) 0 with dst := 0 },
    .mma { ro (r 64) (r 1) (r 2) 1 with dst := 0 }, .dnrm .a { ro (r 63) (r 0) (r 0) 1 with dst := 1 }, .cmp { ro (r 1) (r 2) (r 0) 0 with dst := 16 },
    .dneg .a { ro (r 1) (r 0) (r 0) 0 with dst := 32 }, .dexp .a { ro (r 1) (r 0) (r 0) 1 with dst := 63 },
    .qdrop { ro (r 0) (r 0) (r 0) 1 with dst := 2 }, .csrr { ri (r 0) 0x2D 0 with dst := 1 }].all (fun i => !WellFormed i) = true := by
  decide +kernel
/-- A class that a role does not accept, an unused selector, MOD and DST, and NW with a DST, with no result and with a direction. -/
theorem smoke_fields : [Instr.pand (ro (.const 1) (r 2) (r 0) 0), .dadd .a (ro (.queue true) (r 1) (r 0) 0), .add (ro (r 1) (r 2) (r 3) 0),
    .add (ro (r 1) (r 2) (r 0) 1), .sts (ro (r 1) (r 2) (r 3) 0), .add { ro (r 1) (r 2) (r 0) 0 with nw := true },
    .ret { ro (r 1) (r 0) (r 0) 0 with dst := 0, nw := true }, .dneg .a { ro (r 1) (r 0) (r 0) 0 with dst := 0, nw := true },
    .endTask { ro (r 1) (r 0) (r 0) 0 with dst := 0 }].all (fun i => !WellFormed i) = true := by decide +kernel
/-- Reserved variants: cc 6, fn 9, VRED op 3, a width of 65, an unlisted FP type, SZ of an atomic, a reserved path of FENCEX, TRIG of 0,
BARA of 41, QDROP and OMCLAIM counts, TASKS.setpri of level 0, CANC of level 5, and a ROUTE to port 6. -/
theorem smoke_values : [Instr.cmp (ro (r 1) (r 2) (r 0) 6), .vsf .a (ro (r 1) (r 0) (r 0) 0x19), .vred .a (ro (r 1) (r 0) (r 0) 0x43),
    .bfi (ro (r 1) (r 2) (r 3) 65), .bfi (ro (r 1) (r 2) (r 3) 0), .vadd .a (ro (r 1) (r 2) (r 0) 0x00F),
    .aadd { ro (r 1) (r 0) (r 2) 0x040 with dst := 0 }, .fencex (yo 0 0x30), .fencex (yo 0 0x09), .trig (yo 1 0), .bara (yo 1 41),
    .omclaim (ro (r 60) (r 0) (r 0) 5), .tasksSetpri (co 1 0 0 0), .canc (co 1 0 0 5), .pktRoutePort 1 6].all (fun i => !WellFormed i) = true := by
  decide +kernel
/-- C and Y fields: a register, a handle and a barrier beyond their range, and an unused one. -/
theorem smoke_commands : [Instr.copy (co 64 0 0 0), .hrel (co 0 0 128 0), .hrel (co 1 0 0 0), .coll (co 1 2 0 0), .waith (yo 128 0),
    .barw (yo 16 0), .acq (yo 1 0), .chk (yo 0x4F 0), .fpsnap (yo 63 0)].all (fun i => !WellFormed i) = true := by decide +kernel
/-- Words of a bundle: an undefined opcode, a NOP with a field, a reserved selector, a reserved SCOPE, header and top bits, one register
written twice, and END without SE. -/
theorem smoke_bundle :
    ([(1, .ill 1 1), (2, .ill 1 4), (3, .ill 1 2), (4, .ill 0 3), (5, .ill 0 4), (6, .ill 0 4), (7, .ill 1 7), (8, .ill 1 5)] :
      List (Nat × Decoded)).all (fun p => decodeBundle Attr.any (BitVec.ofNat 512 (match p.1 with
        | 1 => 0x00F * 2 ^ 86
        | 2 => 2 ^ 72
        | 3 => (0x0040000000000000 + 0x1C0 * 2 ^ 30) * 2 ^ 32
        | 4 => 5
        | 5 => 2 ^ 8
        | 6 => 2 ^ 511
        | 7 => (0x0040050000000000 : Nat) * 2 ^ 32 + 0x1200050000000000 * 2 ^ 96
        | _ => 0x1C40000000000000 * 2 ^ 32)) == p.2) = true := by decide +kernel

/-! Single steps against the spec's worked examples and tables. -/

/-- The writes and flags that one instruction puts in flight. -/
def posts (i : Instr) (s : State) : Option (List Write × Flags) :=
  match exec i s with
  | .next t => t.ctx.pend.head?.map fun p => (p.writes, p.fl)
  | _ => none
/-- The low n elements of width w of the first vector or pair that it writes, with its norm and flags. -/
def lanes (w n : Nat) (i : Instr) (s : State) : Option (List Nat × Nat × Flags) :=
  match posts i s with
  | some (.v _ _ x :: _, f) => some ((List.range n).map (velem w x), 0, f)
  | some (.pair _ x m :: _, f) => some ((List.range n).map (velem w x), m.toNat, f)
  | _ => none
def two (a b : Word) : State := withC (sregs [(1, a), (2, b)])
def vec (l : List Nat) : Vec := vbuild 32 fun i => l.getD i 0

/-- R110's table of DIV, DIVU and REM, with ZD for a divisor of zero. -/
theorem test_division : [((-7 : Word), (2 : Word), (-3 : Word), (0x7FFFFFFFFFFFFFFC : Word), (-1 : Word), (0 : Flags)),
    (0x8000000000000000, -1, 0x8000000000000000, 0, 0, 0), (5, 0, -1, -1, 5, 0x02)].all (fun (a, b, q, u, m, f) =>
      let op := { ro (r 1) (r 2) (r 0) 0 with dst := 3 }
      posts (.div op) (two a b) == some ([.s 3 q], f) && posts (.divu op) (two a b) == some ([.s 3 u], f) &&
        posts (.rem op) (two a b) == some ([.s 3 m], f)) = true := by decide +kernel
/-- Wraps, signs and shift counts by hand (R110): 2^64 - 1 + 1, high halves of (-1) (-1), a shift by 65, ROT by 4, ANDN, CLZ of 1. -/
theorem test_integer : [(Instr.add { ro (r 1) (r 2) (r 0) 0 with dst := 3 }, (-1 : Word), (1 : Word), (0 : Word)),
    (.mulh { ro (r 1) (r 2) (r 0) 0 with dst := 3 }, -1, -1, 0), (.mulhu { ro (r 1) (r 2) (r 0) 0 with dst := 3 }, -1, -1, -2),
    (.shl { ro (r 1) (r 2) (r 0) 0 with dst := 3 }, 3, 65, 6), (.sra { ro (r 1) (r 2) (r 0) 0 with dst := 3 }, -8, 1, -4),
    (.shr { ro (r 1) (r 2) (r 0) 0 with dst := 3 }, -8, 60, 15), (.rot { ro (r 1) (r 2) (r 0) 0 with dst := 3 }, 0xF000000000000001, 4, 0x1F),
    (.andn { ro (r 1) (r 2) (r 0) 0 with dst := 3 }, 0xFF, 0x0F, 0xF0), (.clz { ro (r 1) (r 0) (r 0) 0 with dst := 3 }, 1, 0, 63),
    (.popc { ro (r 1) (r 0) (r 0) 0 with dst := 3 }, 0xF1, 0, 5), (.min { ro (r 1) (r 2) (r 0) 0 with dst := 3 }, -1, 1, -1),
    (.minu { ro (r 1) (r 2) (r 0) 0 with dst := 3 }, -1, 1, 1)].all (fun (i, a, b, x) => posts i (two a b) == some ([.s 3 x], 0)) = true := by
  decide +kernel
/-- BFX.s of a field that runs past bit 63, BFI of eight bits at 60 (R113). -/
theorem test_fields : posts (.bfx { ro (r 1) (r 2) (.const 8) 1 with dst := 3 }) (two 0xA000000000000000 60) = some ([.s 3 10], 0) ∧
    posts (.bfi { ro (r 1) (.const (-1)) (r 2) 8 with dst := 3 }) (two 1 60) = some ([.s 3 0xF000000000000001], 0) := by decide +kernel
/-- R22: 0x3F808000 lies halfway between BF16 codes: RNE, RUP, and STOC with seed 1, whose first draw gives 0x3F80. -/
theorem test_round : (encodeFmt .bf16 .rne .none 0 (decodeFmt .f32 0x3F808000).1).1 = 0x3F80 ∧
    (encodeFmt .bf16 .rup .none 0 (decodeFmt .f32 0x3F808000).1).1 = 0x3F81 ∧
    (encodeFmt .bf16 .rtz .none 0 (decodeFmt .f32 0x3F808000).1).1 = 0x3F80 := by decide +kernel
/-- R25: the block of eight FP32 values quantises to 0x104F05B2 with scale byte 0x5B and NX. -/
def quantBlock : Vec := vec [0x3F400000, 0xBF99999A, 0x40400000, 0x3DCCCCCD, 0xC0B00000, 0x400CCCCD, 0, 0x3F000000]
theorem test_quantise : (lanes 32 1 (.vqnt .a { ro (r 1) (.const 1) (r 0) 0x001 with dst := 3 })
    (withC { Ctx.reset with vRegs := [(1, quantBlock)] })).map (fun x => (x.1, x.2.2)) = some ([0x104F05B2], 0x10) := by decide +kernel
/-- R35 to R37, R40: the round trip of (3, 4, 0, 0) with DLEN 4: q, n and no flag; its DDOT with itself; its DEXP to FP32 with NX. -/
def dir : Ctx := { Ctx.reset with
  csr := { Csr.reset with dlen := 4 }, vRegs := [(1, vec [0x40400000, 0x40800000])], dRegs := [(1, vbuild 16 fun i => [0x4CCD, 0x6666].getD i 0)]
  nRegs := [(1, 0x025269E1)] }
theorem test_directional :
    lanes 16 4 (.dnrm .a { ro (r 1) (r 0) (r 0) 1 with dst := 1 }) (withC dir) = some ([0x4CCD, 0x6666, 0, 0], 0x025269E1, 0) ∧
    (lanes 32 1 (.ddot .a { ro (r 1) (r 1) (r 0) 0 with dst := 3 }) (withC dir)).map (fun x => x.1) = some [0x3F7FFF33] ∧
    lanes 32 2 (.dexp .a { ro (r 1) (r 0) (r 0) 1 with dst := 4 }) (withC dir) = some ([0x40400080, 0x407FFF00], 0, 0x10) := by
  decide +kernel
/-- R29, R157: the fixed-order row sum under SHAPE 0403H gives 3F800001H with NX. -/
theorem test_reduce : posts (.vred .a { ro (r 2) (r 0) (r 0) 0x010 with dst := 5 }) (withC { Ctx.reset with
    csr := { Csr.reset with shape := 0x0403 }, vRegs := [(2, vec [0x3F800000, 0x33800000, 0x33800000, 0x33800000])] }) =
    some ([.s 5 0x3F800001], 0x10) := by decide +kernel
/-- R28, R200: the product of one step: A row 0 of (1, 2), B rows of ones and (0.5, 0), K = 4, into a 1 x 2 FP32 tile: 3.0 and 0.5. -/
theorem test_product :
    let s : State := { (withC { mxc with csr := { mxc.csr with tshp := [(1, 0x401)] } }) with
      mem := memWrite (memWrite (memWrite [] (omBase 0 0) 8 0x40003F80) (omBase 0 1) 8 0x3F803F803F803F80) (omBase 0 1 + 128) 8 0x3F00 }
    let s := s.updCore 0 fun k => { k with
      tiles := [tile1], cycle := 20, mq := [{ ent (.mma 0 1 4 3 3 true) (some 1) (some 1) with cmd := { cmd (.mma 0 1 4 3 3 true) (some 1) with shape := 0x401 } }] }
    (match exec .matrixCmdComplete s with
      | .next t => [t.tileEntry 0 0 0 0, t.tileEntry 0 0 0 1]
      | _ => []) = [0x40400000, 0x3F000000] := by decide +kernel
/-- A doubleword store to the scratchpad is little-endian, and an aligned halfword of a store leaves its neighbours (R170, R184). -/
theorem test_store : (match exec (.sts { ro (.const 64) (.const 0) (r 1) 0x0C0 with dst := 0 }) (sp1 0x0102030405060708) with
      | .next t => (List.range 9).map fun i => memGet t.mem (spBase 0 + 64 + i)
      | _ => []) = [8, 7, 6, 5, 4, 3, 2, 1, 0] ∧
    (match exec (.sts { ro (.const 64) (.const 2) (r 1) 0x040 with dst := 0 }) (sp1 0x0102030405060708) with
      | .next t => (List.range 6).map fun i => memGet t.mem (spBase 0 + 64 + i)
      | _ => []) = [0, 0, 8, 7, 0, 0] := by decide +kernel
/-- A misaligned and an out-of-bounds load trap in part L with cause 07H, subcodes 02H and 01H, and the address (R90, R206, R208, R211). -/
theorem test_load_traps : [((0x41 : Word), (0x50207 : BitVec 20)), (0x4000, 0x50107)].all (fun (a, c) =>
    match exec (.lds { ro (r 1) (.const 0) (r 0) 0x0C0 with dst := 3 }) (sp1 a) with
      | .next t => t.ctx.stat == .frozen && t.ctx.csr.trapv == a && t.ctx.csr.trapc == c
      | _ => false) = true := by decide +kernel
/-- CHK of 5 against 5: EQ passes, NE stops with cause 0DH (R133); BRC.NE on a latch reads the value pushed (R94, R119). -/
theorem test_check : [((0 : BitVec 13), false), (1, true)].all (fun (cc, stops) =>
    match exec (.chk (yo 5 (0x305 * 8 + cc))) (withC (sregs [(5, 5)])) with
      | .next t => (t.ctx.stat == .frozen) == stops
      | _ => false) = true := by decide +kernel
/-- SUB of a packet takes the lower entry first; CLT compares signed; PACC.f32 adds 1.0 and 2^-24 to 1.0, a tie to even (R394, R395). -/
theorem test_packet : (∀ x ∈ [(Instr.pktSub, (3 : BitVec 32), (5 : BitVec 32), (-2 : BitVec 32)), (.pktClt, -1, 1, 1), (.pktShl, 3, 33, 6)],
    (match exec x.1 (inLane { pk with sd := 2, stk := [(0, x.2.1), (1, x.2.2.1)] } 0) with
      | .next t => ((t.fab.lane 0).pkt.map fun p => (p.sd, tget 0 p.stk 0, p.pc))
      | _ => none) = some (1, x.2.2.2, 1)) ∧ paccF32 0x3F800000 0x33800000 = 0x3F800000 := by decide +kernel
/-- One step of a bundle: s1 := 0 + 5 is visible to the next bundle, the PC is 64 bytes on, and the segment's count is 1 (R46, R91, R102). -/
theorem test_step : (match step atAdder with
    | .next t => let c := t.ctxAt 0 0; c.sGet 1 == 5 && c.pc == 64 && c.segN == 1 && c.latchAt 0 0 == some (.scalar 5)
    | _ => false) = true := by decide +kernel
/-- The standards' own vectors: SHA-256 of "abc" (FIPS 180-4), AES-256 (FIPS 197, C.3), and the tag of AES-256-GCM on nothing under a zero
key and IV. -/
theorem test_crypto : (toBytes (sha256 [0x61, 0x62, 0x63]).toNat 32).take 8 = [0xBA, 0x78, 0x16, 0xBF, 0x8F, 0x01, 0xCF, 0xEA] ∧
    aesEnc (aesKeys ((List.range 32).map (BitVec.ofNat 8))) ((List.range 16).map fun i => BitVec.ofNat 8 (17 * i)) =
      [0x8E, 0xA2, 0xB7, 0xCA, 0x51, 0x67, 0x45, 0xBF, 0xEA, 0xFC, 0x49, 0x90, 0x4B, 0x49, 0x60, 0x89] ∧
    toBytes (gcmSeal 0 0 [] []).2.toNat 16 =
      [0x53, 0x0F, 0x8A, 0xFB, 0xC7, 0x45, 0x36, 0xB9, 0xA9, 0x63, 0xB4, 0xF1, 0xC4, 0xCB, 0x73, 0x8B] := by decide +kernel

end Sys2Proof.Tests
end

section
/-! The words of the slot forms (R52, R53, R56, R61, R62): what each field of an encoded word reads. -/

namespace Sys2Proof.BundleEncoding

open Sys2Proof Sys2Proof.Machine

/-! Selectors. -/

/-- The ten bits of a constant selector as a number (R56). -/
theorem selBits_const_toNat (k : BitVec 8) : (selBits (.const k)).toNat = 768 + k.toNat := by
  revert k; decide +kernel

/-- The ten bits of a selector read back as the selector (R56). -/
@[simp] theorem selOfBits_selBits (x : Sel) : selOfBits (selBits x) = some x := by
  cases x with
  | reg n =>
    have hn := n.isLt
    have class0 : (selBits (.reg n)).toNat / 256 = 0 := by simp [selBits]; omega
    simp [selOfBits, class0]
    simp [selBits]
  | latch slot depth => revert slot depth; decide
  | queue q => cases q <;> rfl
  | const k =>
    have hk := k.isLt
    have class3 : (selBits (.const k)).toNat / 256 = 3 := by rw [selBits_const_toNat]; omega
    have low8 : BitVec.ofNat 8 (768 + k.toNat) = k := BitVec.eq_of_toNat_eq (by rw [BitVec.toNat_ofNat]; omega)
    simp only [selOfBits, class3]
    rw [selBits_const_toNat, low8]

/-- A field that holds a selector's ten bits reads as the selector. -/
@[simp] theorem selAt_selBits (x : Sel) : selAt (selBits x).toNat = x := by
  simp [selAt]

/-! Fields. -/

@[simp] theorem bit_beq_one (b : Bool) : (bit b == 1) = b := by cases b <;> rfl

/-- What the fields of a word above bit 40 of the R, RI and I32 forms read (R52). -/
def HeadReads (w : Nat) (o : BitVec 10) (pred : BitVec 4) (pn nw : Bool) (dst : BitVec 8) : Prop :=
  bitsOf w 63 54 = o.toNat ∧ bitsOf w 53 50 = pred.toNat ∧ bitsOf w 49 49 = bit pn ∧ bitsOf w 48 48 = bit nw ∧
    bitsOf w 47 40 = dst.toNat

/-- Whatever lies below bit 40, the fields above it read what the encoder put there. -/
theorem headReads_add (o : BitVec 10) (pred : BitVec 4) (pn nw : Bool) (dst : BitVec 8) {r : Nat} (hr : r < 2 ^ 40) :
    HeadReads (encHead o pred pn nw dst + r) o pred pn nw dst := by
  have ho := o.isLt
  have hp := pred.isLt
  have hd := dst.isLt
  have hn := Laws.bit_le pn
  have hw := Laws.bit_le nw
  simp only [HeadReads, bitsOf, encHead]
  refine ⟨?_, ?_, ?_, ?_, ?_⟩ <;> omega

theorem headReads_encR (o : BitVec 10) (op : ROp) : HeadReads (encR o op) o op.pred op.pn op.nw op.dst := by
  have ha := (selBits op.xa).isLt
  have hb := (selBits op.xb).isLt
  have hc := (selBits op.xc).isLt
  have hm := op.md.isLt
  unfold encR
  rw [Nat.add_assoc, Nat.add_assoc, Nat.add_assoc]
  exact headReads_add _ _ _ _ _ (by omega)

theorem headReads_encRI (o : BitVec 10) (op : RIOp) : HeadReads (encRI o op) o op.pred op.pn op.nw op.dst := by
  have ha := (selBits op.xa).isLt
  have hi := op.imm.isLt
  have hm := op.md.isLt
  unfold encRI
  rw [Nat.add_assoc, Nat.add_assoc]
  exact headReads_add _ _ _ _ _ (by omega)

theorem headReads_encI32 (o : BitVec 10) (op : I32Op) : HeadReads (encI32 o op) o op.pred op.pn op.nw op.dst := by
  have hi := op.imm.isLt
  have hm := op.md.isLt
  unfold encI32
  rw [Nat.add_assoc]
  exact headReads_add _ _ _ _ _ (by omega)

/-- The selectors and MOD of an R word (R52). -/
theorem tail_encR (o : BitVec 10) (op : ROp) :
    bitsOf (encR o op) 39 30 = (selBits op.xa).toNat ∧ bitsOf (encR o op) 29 20 = (selBits op.xb).toNat ∧
      bitsOf (encR o op) 19 10 = (selBits op.xc).toNat ∧ bitsOf (encR o op) 9 0 = op.md.toNat := by
  have ha := (selBits op.xa).isLt
  have hb := (selBits op.xb).isLt
  have hc := (selBits op.xc).isLt
  have hm := op.md.isLt
  simp only [bitsOf, encR, encHead]
  refine ⟨?_, ?_, ?_, ?_⟩ <;> omega

/-- The selector, IMM20 and MOD of an RI word (R53). -/
theorem tail_encRI (o : BitVec 10) (op : RIOp) :
    bitsOf (encRI o op) 39 30 = (selBits op.xa).toNat ∧ bitsOf (encRI o op) 29 10 = op.imm.toNat ∧
      bitsOf (encRI o op) 9 0 = op.md.toNat := by
  have ha := (selBits op.xa).isLt
  have hi := op.imm.isLt
  have hm := op.md.isLt
  simp only [bitsOf, encRI, encHead]
  refine ⟨?_, ?_, ?_⟩ <;> omega

/-- IMM32 and MOD of an I32 word (R53). -/
theorem tail_encI32 (o : BitVec 10) (op : I32Op) :
    bitsOf (encI32 o op) 39 8 = op.imm.toNat ∧ bitsOf (encI32 o op) 7 0 = op.md.toNat := by
  have hi := op.imm.isLt
  have hm := op.md.isLt
  simp only [bitsOf, encI32, encHead]
  refine ⟨?_, ?_⟩ <;> omega

/-- The fields of a C-slot word (R61). -/
theorem fields_encC (o : BitVec 8) (op : COp) :
    bitsOf (encC o op) 47 40 = o.toNat ∧ bitsOf (encC o op) 39 36 = op.pred.toNat ∧ bitsOf (encC o op) 35 35 = bit op.pn ∧
      bitsOf (encC o op) 34 27 = op.ca.toNat ∧ bitsOf (encC o op) 26 19 = op.cb.toNat ∧
      bitsOf (encC o op) 18 11 = op.cc.toNat ∧ bitsOf (encC o op) 10 0 = op.md.toNat := by
  have ho := o.isLt
  have hp := op.pred.isLt
  have hn := Laws.bit_le op.pn
  have ha := op.ca.isLt
  have hb := op.cb.isLt
  have hc := op.cc.isLt
  have hm := op.md.isLt
  simp only [bitsOf, encC]
  refine ⟨?_, ?_, ?_, ?_, ?_, ?_, ?_⟩ <;> omega

/-- The fields of a Y-slot word (R62). -/
theorem fields_encY (o : BitVec 6) (op : YOp) :
    bitsOf (encY o op) 31 26 = o.toNat ∧ bitsOf (encY o op) 25 22 = op.pred.toNat ∧ bitsOf (encY o op) 21 21 = bit op.pn ∧
      bitsOf (encY o op) 20 13 = op.yr.toNat ∧ bitsOf (encY o op) 12 0 = op.imm.toNat := by
  have ho := o.isLt
  have hp := op.pred.isLt
  have hn := Laws.bit_le op.pn
  have hy := op.yr.isLt
  have hi := op.imm.isLt
  simp only [bitsOf, encY]
  refine ⟨?_, ?_, ?_, ?_, ?_⟩ <;> omega

/-! Operand records. -/

@[simp] theorem decR_encR (o : BitVec 10) (op : ROp) : decR (encR o op) = op := by
  obtain ⟨-, hp, hn, hw, hd⟩ := headReads_encR o op
  obtain ⟨ha, hb, hc, hm⟩ := tail_encR o op
  simp [decR, hp, hn, hw, hd, ha, hb, hc, hm]

@[simp] theorem decRI_encRI (o : BitVec 10) (op : RIOp) : decRI (encRI o op) = op := by
  obtain ⟨-, hp, hn, hw, hd⟩ := headReads_encRI o op
  obtain ⟨ha, hi, hm⟩ := tail_encRI o op
  simp [decRI, hp, hn, hw, hd, ha, hi, hm]

@[simp] theorem decI32_encI32 (o : BitVec 10) (op : I32Op) : decI32 (encI32 o op) = op := by
  obtain ⟨-, hp, hn, hw, hd⟩ := headReads_encI32 o op
  obtain ⟨hi, hm⟩ := tail_encI32 o op
  simp [decI32, hp, hn, hw, hd, hi, hm]

@[simp] theorem decC_encC (o : BitVec 8) (op : COp) : decC (encC o op) = op := by
  obtain ⟨-, hp, hn, ha, hb, hc, hm⟩ := fields_encC o op
  simp [decC, hp, hn, ha, hb, hc, hm]

@[simp] theorem decY_encY (o : BitVec 6) (op : YOp) : decY (encY o op) = op := by
  obtain ⟨-, hp, hn, hy, hi⟩ := fields_encY o op
  simp [decY, hp, hn, hy, hi]

/-- With SHAPE's type unknown, the raw fields of an R word are those that well-formedness looks at. -/
@[simp] theorem fieldsR_encR (o : BitVec 10) (op : ROp) : fieldsR 0 (encR o op) = rawR op := by
  obtain ⟨-, -, -, -, hd⟩ := headReads_encR o op
  obtain ⟨ha, hb, hc, hm⟩ := tail_encR o op
  simp [fieldsR, rawR, hd, ha, hb, hc, hm]

@[simp] theorem fieldsRI_encRI (o : BitVec 10) (op : RIOp) : fieldsRI (encRI o op) = rawRI op := by
  obtain ⟨-, -, -, -, hd⟩ := headReads_encRI o op
  obtain ⟨ha, hi, hm⟩ := tail_encRI o op
  simp [fieldsRI, rawRI, hd, ha, hi, hm]

@[simp] theorem fieldsI32_encI32 (o : BitVec 10) (op : I32Op) : fieldsI32 (encI32 o op) = rawI32 op := by
  obtain ⟨-, -, -, -, hd⟩ := headReads_encI32 o op
  obtain ⟨hi, hm⟩ := tail_encI32 o op
  simp [fieldsI32, rawI32, hd, hi, hm]

end Sys2Proof.BundleEncoding
end

section
/-! What the decoder of one slot answers, by the row that the opcode names, and the round trip of one instruction (R46 to R73, R393). -/

namespace Sys2Proof.BundleEncoding

open Sys2Proof Sys2Proof.Machine

/-! Reasons. -/

theorem low_two (a b : Nat) : low [a, b] = if b = 0 then a else if a = 0 then b else Min.min a b := by
  by_cases ha : a = 0 <;> simp [low, ha]

/-- A reason beside none stands alone. -/
@[simp] theorem low_two_zero (a : Nat) : low [a, 0] = a := by simp [low_two]

@[simp] theorem Attr.any_reason (sl : SlotId) (o : Nat) : attrReason Attr.any sl o = 0 := by
  cases sl <;> simp [attrReason, Attr.any]

/-! Wide slots. -/

/-- The instruction that a form reads from a word, and the raw fields that its checks look at. -/
def formInstr (m : Mk) (w : Nat) : Instr :=
  match m with
  | .r f => f (decR w)
  | .ri f => f (decRI w)
  | .i32 f => f (decI32 w)

def formFields (m : Mk) (et w : Nat) : Raw :=
  match m with
  | .r _ => fieldsR et w
  | .ri _ => fieldsRI w
  | .i32 _ => fieldsI32 w

/-- The reason that a slot's own bits give, whatever its task is. -/
def rowReason (row : Row) (et w : Nat) : Nat := row.reason (bitsOf w 48 48 == 1) (formFields row.make et w)

/-- No slot has a row for opcode 0, the NOP's. -/
@[simp] theorem rowOf_zero (sl : SlotId) : rowOf sl 0 = none := by cases sl <;> rfl

/-- A slot with a row is 64 bits wide, and its words are read by the wide decoder. -/
theorem rowOf_some {sl : SlotId} {o : Nat} {row : Row} (h : rowOf sl o = some row) :
    o ≠ 0 ∧ slotWidth sl = 64 ∧ ∀ q w, decSlot q sl w = decWide q sl w := by
  refine ⟨fun h0 => ?_, ?_, fun q w => ?_⟩
  · rw [h0, rowOf_zero] at h
    cases h
  · cases sl with
    | c | y => cases h
    | s | a | b | m | l | t => rfl
  · cases sl with
    | c | y => cases h
    | s | a | b | m | l | t => rfl

theorem bitsOf_zero (h l : Nat) : bitsOf 0 h l = 0 := by simp [bitsOf]

/-- A word whose opcode has a row: its reason, and its instruction where there is none. -/
theorem decWide_of_row {q : Attr} {sl : SlotId} {w : Nat} {row : Row} (h : rowOf sl (bitsOf w 63 54) = some row) :
    (decWide q sl w).why = low [rowReason row q.etype w, attrReason q sl (bitsOf w 63 54)] ∧
      (decWide q sl w).op = if (decWide q sl w).why = 0 then some (formInstr row.make w) else none := by
  have ho : bitsOf w 63 54 ≠ 0 := (rowOf_some h).1
  have hw : w ≠ 0 := fun e => ho (by rw [e, bitsOf_zero])
  obtain ⟨make, sig⟩ := row
  unfold decWide
  dsimp only
  rw [if_neg hw, if_neg ho, h]
  cases make <;> exact ⟨rfl, rfl⟩

/-- A word whose opcode has a row and whose fields give no reason decodes for a task that nothing hinders. -/
theorem decSlot_any_of_row {sl : SlotId} {w : Nat} {row : Row} (h : rowOf sl (bitsOf w 63 54) = some row)
    (hr : rowReason row 0 w = 0) :
    (decSlot Attr.any sl w).op = some (formInstr row.make w) ∧ (decSlot Attr.any sl w).why = 0 := by
  obtain ⟨hwhy, hop⟩ := decWide_of_row (q := Attr.any) h
  have why0 : (decWide Attr.any sl w).why = 0 := by rw [hwhy, Attr.any_reason, low_two_zero]; exact hr
  rw [(rowOf_some h).2.2]
  exact ⟨by rw [hop, if_pos why0], why0⟩

/-! The round trip of a slot. -/

/-- An instruction's word fits its slot and decodes there to the instruction, without a reason. -/
def DecodesIn (i : Instr) (sl : SlotId) : Prop :=
  encode i < 2 ^ slotWidth sl ∧ (decSlot Attr.any sl (encode i)).op = some i ∧ (decSlot Attr.any sl (encode i)).why = 0

/-- The row that an opcode names in a slot reads the instruction's word as the instruction, without a reason. -/
def RowReads (i : Instr) (sl : SlotId) (o : BitVec 10) : Prop :=
  ∃ row, rowOf sl o.toNat = some row ∧ bitsOf (encode i) 63 54 = o.toNat ∧ formInstr row.make (encode i) = i ∧
    rowReason row 0 (encode i) = 0

theorem rowReads_r {i : Instr} {sl : SlotId} {o : BitVec 10} {op : ROp} (hc : instrCode i = .r sl o op)
    (h : WellFormed i = true) : RowReads i sl o := by
  obtain ⟨hopc, -, -, hnw, -⟩ := headReads_encR o op
  have henc : encode i = encR o op := by simp only [encode, hc]
  simp only [WellFormed, hc] at h
  cases hrow : rowOf sl o.toNat with
  | none => simp [hrow] at h
  | some row =>
    obtain ⟨make, sig⟩ := row
    cases make with
    | r f =>
      obtain ⟨hi, hr⟩ : f op = i ∧ Row.reason ⟨.r f, sig⟩ op.nw (rawR op) = 0 := by simpa [hrow] using h
      exact ⟨_, hrow, by rw [henc, hopc], by simp [formInstr, henc, hi], by simp [rowReason, formFields, henc, hnw, hr]⟩
    | ri f | i32 f => simp [hrow] at h

theorem rowReads_ri {i : Instr} {sl : SlotId} {o : BitVec 10} {op : RIOp} (hc : instrCode i = .ri sl o op)
    (h : WellFormed i = true) : RowReads i sl o := by
  obtain ⟨hopc, -, -, hnw, -⟩ := headReads_encRI o op
  have henc : encode i = encRI o op := by simp only [encode, hc]
  simp only [WellFormed, hc] at h
  cases hrow : rowOf sl o.toNat with
  | none => simp [hrow] at h
  | some row =>
    obtain ⟨make, sig⟩ := row
    cases make with
    | ri f =>
      obtain ⟨hi, hr⟩ : f op = i ∧ Row.reason ⟨.ri f, sig⟩ op.nw (rawRI op) = 0 := by simpa [hrow] using h
      exact ⟨_, hrow, by rw [henc, hopc], by simp [formInstr, henc, hi], by simp [rowReason, formFields, henc, hnw, hr]⟩
    | r f | i32 f => simp [hrow] at h

theorem rowReads_i32 {i : Instr} {sl : SlotId} {o : BitVec 10} {op : I32Op} (hc : instrCode i = .i32 sl o op)
    (h : WellFormed i = true) : RowReads i sl o := by
  obtain ⟨hopc, -, -, hnw, -⟩ := headReads_encI32 o op
  have henc : encode i = encI32 o op := by simp only [encode, hc]
  simp only [WellFormed, hc] at h
  cases hrow : rowOf sl o.toNat with
  | none => simp [hrow] at h
  | some row =>
    obtain ⟨make, sig⟩ := row
    cases make with
    | i32 f =>
      obtain ⟨hi, hr⟩ : f op = i ∧ Row.reason ⟨.i32 f, sig⟩ op.nw (rawI32 op) = 0 := by simpa [hrow] using h
      exact ⟨_, hrow, by rw [henc, hopc], by simp [formInstr, henc, hi], by simp [rowReason, formFields, henc, hnw, hr]⟩
    | r f | ri f => simp [hrow] at h

theorem ne_zero_of_toNat {n : Nat} {o : BitVec n} (h : o.toNat ≠ 0) : o ≠ 0 := fun e => h (by rw [e]; rfl)

/-- The three wide forms (R52, R53). -/
theorem RowReads.decodesIn {i : Instr} {sl : SlotId} {o : BitVec 10} (h : RowReads i sl o) (hs : slotOf i = some sl)
    (codec : o ≠ 0 → slotWidth sl = 64 → Laws.Codec.Statement i) : DecodesIn i sl := by
  obtain ⟨row, hrow, hopc, hread, hr⟩ := h
  obtain ⟨ho, hwidth, -⟩ := rowOf_some hrow
  obtain ⟨hop, hwhy⟩ := decSlot_any_of_row (by rw [hopc]; exact hrow) hr
  exact ⟨(codec (ne_zero_of_toNat ho) hwidth sl hs).2, by rw [hop, hread], hwhy⟩

theorem wellFormed_c {i : Instr} {o : BitVec 8} {op : COp} (hc : instrCode i = .c o op) (h : WellFormed i = true) :
    ∃ row, rowC o.toNat = some row ∧ row.make op = i ∧ row.reason op.ca.toNat op.cb.toNat op.cc.toNat op.md.toNat = 0 := by
  simp only [WellFormed, hc] at h
  cases hrow : rowC o.toNat with
  | none => simp [hrow] at h
  | some row => exact ⟨row, rfl, by simpa [hrow] using h⟩

theorem wellFormed_y {i : Instr} {o : BitVec 6} {op : YOp} (hc : instrCode i = .y o op) (h : WellFormed i = true) :
    ∃ row, rowY o.toNat = some row ∧ row.make op = i ∧ row.why op.yr.toNat op.imm.toNat = 0 := by
  simp only [WellFormed, hc] at h
  cases hrow : rowY o.toNat with
  | none => simp [hrow] at h
  | some row => exact ⟨row, rfl, by simpa [hrow] using h⟩

theorem rowC_ne_zero {o : Nat} {row : CRow} (h : rowC o = some row) : o ≠ 0 := by rintro rfl; cases h
theorem rowY_ne_zero {o : Nat} {row : YRow} (h : rowY o = some row) : o ≠ 0 := by rintro rfl; cases h

/-- Every feature that a row of the C slot asks for is a bit of the feature map. -/
theorem rowC_feat {o : Nat} {row : CRow} (h : rowC o = some row) {b : Nat} (hb : row.feat = some b) :
    Attr.any.feat.getLsbD b = true := by
  unfold rowC at h
  split at h <;> cases h <;> cases hb <;> rfl

theorem decodesIn_c {i : Instr} {o : BitVec 8} {op : COp} (hc : instrCode i = .c o op) (h : WellFormed i = true) :
    DecodesIn i .c := by
  obtain ⟨row, hrow, hi, hr⟩ := wellFormed_c hc h
  obtain ⟨hopc, -, -, ha, hb, hcc, hm⟩ := fields_encC o op
  have ho := rowC_ne_zero hrow
  have henc : encode i = encC o op := by simp only [encode, hc]
  obtain ⟨hpos, hlt⟩ := Laws.Codec.ofC hc (ne_zero_of_toNat ho) .c (by simp [slotOf, hc])
  have hw : encC o op ≠ 0 := by rw [← henc]; omega
  have hdec : decCmd Attr.any (encC o op) = ⟨some i, 0, []⟩ := by
    simp only [decCmd, hopc, hrow, if_neg hw, if_neg ho, ha, hb, hcc, hm, hr, decC_encC, hi]
    cases hfeat : row.feat with
    | none => rfl
    | some b => simp only [rowC_feat hrow hfeat, if_true]; rfl
  refine ⟨hlt, ?_⟩
  rw [henc]
  simp [decSlot, hdec]

theorem decodesIn_y {i : Instr} {o : BitVec 6} {op : YOp} (hc : instrCode i = .y o op) (h : WellFormed i = true) :
    DecodesIn i .y := by
  obtain ⟨row, hrow, hi, hr⟩ := wellFormed_y hc h
  obtain ⟨hopc, -, -, hy, him⟩ := fields_encY o op
  have ho := rowY_ne_zero hrow
  have henc : encode i = encY o op := by simp only [encode, hc]
  obtain ⟨hpos, hlt⟩ := Laws.Codec.ofY hc (ne_zero_of_toNat ho) .y (by simp [slotOf, hc])
  have hw : encY o op ≠ 0 := by rw [← henc]; omega
  refine ⟨hlt, ?_⟩
  rw [henc]
  simp [decSlot, decSync, hopc, hrow, hw, ho, hy, him, hr, hi]

/-- A well-formed instruction's word decodes to it in its own slot (R46 to R73). -/
theorem decodesIn_slotOf {i : Instr} {sl : SlotId} (h : WellFormed i = true) (hs : slotOf i = some sl) : DecodesIn i sl := by
  cases hc : instrCode i with
  | r sl' o op =>
    obtain rfl : sl' = sl := by simpa [slotOf, hc] using hs
    exact (rowReads_r hc h).decodesIn hs (Laws.Codec.ofR hc)
  | ri sl' o op =>
    obtain rfl : sl' = sl := by simpa [slotOf, hc] using hs
    exact (rowReads_ri hc h).decodesIn hs (Laws.Codec.ofRI hc)
  | i32 sl' o op =>
    obtain rfl : sl' = sl := by simpa [slotOf, hc] using hs
    exact (rowReads_i32 hc h).decodesIn hs (Laws.Codec.ofI32 hc)
  | c o op =>
    obtain rfl : .c = sl := by simpa [slotOf, hc] using hs
    exact decodesIn_c hc h
  | y o op =>
    obtain rfl : .y = sl := by simpa [slotOf, hc] using hs
    exact decodesIn_y hc h
  | pkt w => simp [slotOf, hc] at hs
  | event => simp [slotOf, hc] at hs

end Sys2Proof.BundleEncoding
end

section
/-! The round trip of a packet instruction (R393 to R400). -/

namespace Sys2Proof.BundleEncoding

open Sys2Proof Sys2Proof.Machine

/-- Every word with this opcode and these ten operand bits decodes to the instruction. -/
def PacketReads (k x : Nat) (i : Instr) : Prop := ∀ w : Nat, w / 1024 = k → w % 1024 = x → decodePacket w = some i

/-- The encoder's number has the opcode above its ten low bits and the operand in them. -/
theorem PacketReads.word {k x b : Nat} {i : Instr} (h : PacketReads k x i) (hk : k < 64 := by decide)
    (hx : x < 1024 := by omega) (hb : b = 1024 * k + x := by omega) : decodePacket (BitVec.ofNat 16 b).toNat = some i := by
  refine h _ ?_ ?_ <;> rw [BitVec.toNat_ofNat] <;> omega

theorem ofNat_eq_of_mod {n y : Nat} {x : BitVec n} (h : y % 2 ^ n = x.toNat) : BitVec.ofNat n y = x :=
  BitVec.eq_of_toNat_eq (by rw [BitVec.toNat_ofNat, h])

/-- PACC: the operation above the seven bits of the payload word (R395). -/
theorem packetReads_pacc (f : BitVec 7) :
    PacketReads 0x21 f.toNat (.pktPaccI32 f) ∧ PacketReads 0x21 (128 + f.toNat) (.pktPaccF32 f) ∧
      PacketReads 0x21 (256 + f.toNat) (.pktPaccMax f) := by
  have hf := f.isLt
  have q0 : f.toNat / 128 = 0 := by omega
  have q1 : (128 + f.toNat) / 128 = 1 := by omega
  have q2 : (256 + f.toNat) / 128 = 2 := by omega
  have r1 : BitVec.ofNat 7 (128 + f.toNat) = f := ofNat_eq_of_mod (by omega)
  have r2 : BitVec.ofNat 7 (256 + f.toNat) = f := ofNat_eq_of_mod (by omega)
  refine ⟨?_, ?_, ?_⟩ <;> intro w hk hx
  · simp only [decodePacket, hk, hx, q0, BitVec.ofNat_toNat, BitVec.setWidth_eq]
  · simp only [decodePacket, hk, hx, q1, r1]
  · simp only [decodePacket, hk, hx, q2, r2]

/-- ROUTE: the next PC above a bit that must be zero, and the direction below it, 6 and 7 for the other two forms (R397). -/
theorem packetReads_route (n : BitVec 4) (d : BitVec 3) :
    (d.toNat < 6 → PacketReads 0x30 (n.toNat * 16 + d.toNat) (.pktRoutePort n d)) ∧
      PacketReads 0x30 (n.toNat * 16 + 6) (.pktRouteAuto n) ∧ PacketReads 0x30 (n.toNat * 16 + 7) (.pktRoutePop n) := by
  have hn := n.isLt
  have fields (y : Nat) (hy : y < 8) : ¬((n.toNat * 16 + y) / 256 ≠ 0 ∨ (n.toNat * 16 + y) / 8 % 2 ≠ 0) ∧
      (n.toNat * 16 + y) % 8 = y ∧ BitVec.ofNat 4 ((n.toNat * 16 + y) / 16) = n := by
    refine ⟨by omega, by omega, ofNat_eq_of_mod (by omega)⟩
  refine ⟨fun hd => ?_, ?_, ?_⟩ <;> intro w hk hx
  · obtain ⟨hz, hdir, hnext⟩ := fields d.toNat (by omega)
    have hd3 : BitVec.ofNat 3 (n.toNat * 16 + d.toNat) = d := ofNat_eq_of_mod (by omega)
    simp only [decodePacket, hk, hx, if_neg hz, hdir, hnext, hd3]
    rw [if_neg (by omega), if_neg (by omega)]
  · obtain ⟨hz, hdir, hnext⟩ := fields 6 (by omega)
    simp only [decodePacket, hk, hx, if_neg hz, hdir, hnext, if_true]
  · obtain ⟨hz, hdir, hnext⟩ := fields 7 (by omega)
    simp only [decodePacket, hk, hx, if_neg hz, hdir, hnext]
    rfl

/-- CLONE: the next PC above the six bits of its port mask (R398). -/
theorem packetReads_clone (n : BitVec 4) (m : BitVec 6) : PacketReads 0x31 (n.toNat * 64 + m.toNat) (.pktClone n m) := by
  intro w hk hx
  have hn := n.isLt
  have hm := m.isLt
  have hnext : BitVec.ofNat 4 ((n.toNat * 64 + m.toNat) / 64) = n := ofNat_eq_of_mod (by omega)
  have hmask : BitVec.ofNat 6 (n.toNat * 64 + m.toNat) = m := ofNat_eq_of_mod (by omega)
  simp only [decodePacket, hk, hx, hnext, hmask]

/-- The forms whose operand is a register of the packet (R394). -/
theorem packetReads_register (n : BitVec 2) :
    PacketReads 0x01 n.toNat (.pktPshr n) ∧ PacketReads 0x02 n.toNat (.pktPopr n) ∧ PacketReads 0x1D n.toNat (.pktInc n) := by
  have hn := n.isLt
  refine ⟨?_, ?_, ?_⟩ <;> intro w hk hx <;> simp [decodePacket, hk, hx, hn]

/-- The branches (R396). -/
theorem packetReads_branch (t : BitVec 4) :
    PacketReads 0x28 t.toNat (.pktJz t) ∧ PacketReads 0x29 t.toNat (.pktJnz t) ∧ PacketReads 0x2A t.toNat (.pktJmp t) := by
  have ht := t.isLt
  refine ⟨?_, ?_, ?_⟩ <;> intro w hk hx <;> simp [decodePacket, hk, hx, ht]

/-- A payload word, and the number of PARK (R395, R400). -/
theorem packetReads_word (f : BitVec 7) :
    PacketReads 0x20 f.toNat (.pktPld f) ∧ PacketReads 0x33 f.toNat (.pktPark f) := by
  have hf := f.isLt
  refine ⟨?_, ?_⟩ <;> intro w hk hx <;> simp [decodePacket, hk, hx, hf]

theorem packetReads_pshi (v : BitVec 10) : PacketReads 0x03 v.toNat (.pktPshi v) := by
  intro w hk hx
  simp [decodePacket, hk, hx]

/-- A well-formed packet instruction's word decodes to it. -/
theorem decodePacket_encode {i : Instr} {w : BitVec 16} (h : WellFormed i = true) (hc : instrCode i = .pkt w) :
    decodePacket (encode i) = some i := by
  have henc : encode i = w.toNat := by simp only [encode, hc]
  rw [henc]
  cases i with
  | pktPshr n =>
    cases hc
    have hn := n.isLt
    exact (packetReads_register n).1.word
  | pktPopr n =>
    cases hc
    have hn := n.isLt
    exact (packetReads_register n).2.1.word
  | pktInc n =>
    cases hc
    have hn := n.isLt
    exact (packetReads_register n).2.2.word
  | pktPshi v =>
    cases hc
    have hv := v.isLt
    exact (packetReads_pshi v).word
  | pktJz t =>
    cases hc
    have ht := t.isLt
    exact (packetReads_branch t).1.word
  | pktJnz t =>
    cases hc
    have ht := t.isLt
    exact (packetReads_branch t).2.1.word
  | pktJmp t =>
    cases hc
    have ht := t.isLt
    exact (packetReads_branch t).2.2.word
  | pktPld f =>
    cases hc
    have hf := f.isLt
    exact (packetReads_word f).1.word
  | pktPark f =>
    cases hc
    have hf := f.isLt
    exact (packetReads_word f).2.word
  | pktPaccI32 f =>
    cases hc
    have hf := f.isLt
    exact (packetReads_pacc f).1.word
  | pktPaccF32 f =>
    cases hc
    have hf := f.isLt
    exact (packetReads_pacc f).2.1.word
  | pktPaccMax f =>
    cases hc
    have hf := f.isLt
    exact (packetReads_pacc f).2.2.word
  | pktRoutePort n d =>
    cases hc
    have hn := n.isLt
    have hd : d.toNat < 6 := of_decide_eq_true h
    exact ((packetReads_route n d).1 hd).word
  | pktRouteAuto n =>
    cases hc
    have hn := n.isLt
    exact (packetReads_route n 0).2.1.word
  | pktRoutePop n =>
    cases hc
    have hn := n.isLt
    exact (packetReads_route n 0).2.2.word
  | pktClone n m =>
    cases hc
    have hn := n.isLt
    have hm := m.isLt
    exact (packetReads_clone n m).word
  | pktDup | pktSwp | pktDrp | pktAdd | pktSub | pktMin | pktMax | pktAnd | pktOr | pktXor | pktShl | pktShr | pktCeq |
  pktClt | pktLdw | pktAdw | pktXcw | pktTsc | pktNode | pktHops | pktDlvrCtr | pktDlvrHnd | pktDlvrNode | pktDlvrGraph |
  pktDrop =>
    cases hc
    rfl
  | _ => cases hc

/-- Settles O55: the opcode's row reads each field of the word back as the operand that the encoder put there. -/
theorem encodingRoundTrip : Obligations.EncodingRoundTrip :=
  ⟨fun _ _ h hs => decodesIn_slotOf h hs, fun _ _ h hc => decodePacket_encode h hc⟩

end Sys2Proof.BundleEncoding
end

section
/-! The round trip of a bundle (R46, R48, R60, R73). -/

namespace Sys2Proof.BundleEncoding

open Sys2Proof Sys2Proof.Machine

/-- The eight low bits of a bundle's word (R48). -/
def headBits (b : Bundle) : Nat := b.gap.toNat * 32 + bit b.se * 16 + bit b.sb * 8 + b.scope.toNat

/-- Every slot's word fits its place in the bundle. -/
def SlotsFit (b : Bundle) : Prop := ∀ sl, encSlot (b.op sl) < 2 ^ slotWidth sl

theorem SlotsFit.bounds {b : Bundle} (h : SlotsFit b) :
    encSlot b.s < 2 ^ 64 ∧ encSlot b.a < 2 ^ 64 ∧ encSlot b.b < 2 ^ 64 ∧ encSlot b.m < 2 ^ 64 ∧ encSlot b.l < 2 ^ 64 ∧
      encSlot b.t < 2 ^ 64 ∧ encSlot b.c < 2 ^ 48 ∧ encSlot b.y < 2 ^ 32 :=
  ⟨h .s, h .a, h .b, h .m, h .l, h .t, h .c, h .y⟩

/-- A bundle's word is the sum of its parts, each at its lowest bit (R46). -/
theorem encodeBundle_toNat {b : Bundle} (h : SlotsFit b) :
    (encodeBundle b).toNat = encSlot b.y * 2 ^ 464 + encSlot b.c * 2 ^ 416 + encSlot b.t * 2 ^ 352 + encSlot b.l * 2 ^ 288 +
      encSlot b.m * 2 ^ 224 + encSlot b.b * 2 ^ 160 + encSlot b.a * 2 ^ 96 + encSlot b.s * 2 ^ 32 + headBits b ∧
    headBits b < 2 ^ 8 := by
  obtain ⟨hs, ha, hb, hm, hl, ht, hc, hy⟩ := h.bounds
  have hgap := b.gap.isLt
  have hse := Laws.bit_le b.se
  have hsb := Laws.bit_le b.sb
  have hscope := b.scope.isLt
  have hhead : headBits b < 2 ^ 8 := by unfold headBits; omega
  refine ⟨?_, hhead⟩
  unfold encodeBundle
  rw [BitVec.toNat_ofNat]
  change (_ + headBits b) % _ = _
  omega

/-- The bits of a slot in a bundle's word are the slot's word. -/
theorem encodeBundle_slot {b : Bundle} (h : SlotsFit b) (sl : SlotId) :
    (encodeBundle b).toNat / 2 ^ slotBase sl % 2 ^ slotWidth sl = encSlot (b.op sl) := by
  obtain ⟨hsum, hhead⟩ := encodeBundle_toNat h
  obtain ⟨hs, ha, hb, hm, hl, ht, hc, hy⟩ := h.bounds
  rw [hsum]
  cases sl <;> simp only [slotBase, slotWidth, Bundle.op] <;> omega

/-- The header's fields of a bundle's word, and its two fields that must be zero (R48). -/
theorem encodeBundle_head {b : Bundle} (h : SlotsFit b) :
    bitsOf (encodeBundle b).toNat 2 0 = b.scope.toNat ∧ bitsOf (encodeBundle b).toNat 3 3 = bit b.sb ∧
      bitsOf (encodeBundle b).toNat 4 4 = bit b.se ∧ bitsOf (encodeBundle b).toNat 7 5 = b.gap.toNat ∧
      bitsOf (encodeBundle b).toNat 31 8 = 0 ∧ bitsOf (encodeBundle b).toNat 511 496 = 0 := by
  obtain ⟨hsum, hhead⟩ := encodeBundle_toNat h
  obtain ⟨hs, ha, hb, hm, hl, ht, hc, hy⟩ := h.bounds
  have hgap := b.gap.isLt
  have hse := Laws.bit_le b.se
  have hsb := Laws.bit_le b.sb
  have hscope := b.scope.isLt
  have head : headBits b = b.gap.toNat * 32 + bit b.se * 16 + bit b.sb * 8 + b.scope.toNat := rfl
  rw [hsum]
  simp only [bitsOf]
  refine ⟨?_, ?_, ?_, ?_, ?_, ?_⟩ <;> omega

/-- The word of no instruction is the NOP's, which decodes to none without a reason (R63 to R69). -/
theorem decSlot_nop (q : Attr) (sl : SlotId) : decSlot q sl 0 = ⟨none, 0, []⟩ := by cases sl <;> rfl

/-- Each slot of a bundle of well-formed instructions, encoded, fits its place and decodes to what stands in it. -/
theorem decSlot_encSlot {b : Bundle} (h : ∀ sl i, b.op sl = some i → slotOf i = some sl ∧ WellFormed i = true) (sl : SlotId) :
    encSlot (b.op sl) < 2 ^ slotWidth sl ∧ (decSlot Attr.any sl (encSlot (b.op sl))).op = b.op sl ∧
      (decSlot Attr.any sl (encSlot (b.op sl))).why = 0 := by
  cases hi : b.op sl with
  | none =>
    simp only [encSlot, decSlot_nop, and_self, and_true]
    exact Nat.two_pow_pos _
  | some i =>
    obtain ⟨hs, hw⟩ := h sl i hi
    exact decodesIn_slotOf hw hs

/-- The header of a bundle's word with a defined scope gives no reason (R48). -/
theorem headReason_encodeBundle {b : Bundle} (h : SlotsFit b) (hscope : b.scope.toNat < 5) :
    headReason (encodeBundle b).toNat = 0 := by
  obtain ⟨hsc, -, -, -, hz1, hz2⟩ := encodeBundle_head h
  rw [headReason, hsc, hz1, hz2, if_pos hscope]
  rfl

/-- The S slot's opcode in a bundle's word. -/
theorem opcodeS_encodeBundle {b : Bundle} (h : SlotsFit b) :
    bitsOf ((encodeBundle b).toNat / 2 ^ slotBase .s) 63 54 = encSlot b.s / 2 ^ 54 := by
  have hslot := encodeBundle_slot h .s
  have hs := h .s
  simp only [slotBase, slotWidth, Bundle.op, bitsOf] at hslot hs ⊢
  omega

/-- A bundle's word decodes to its header's fields and its slots' instructions where no part has a reason (R73). -/
theorem decodeBundle_of_parts {q : Attr} {w : BundleWord} (ds : SlotId → SlotDec)
    (hslots : ∀ sl, decSlot q sl (w.toNat / 2 ^ slotBase sl % 2 ^ slotWidth sl) = ds sl) (hhead : headReason w.toNat = 0)
    (hend : endReason (bitsOf w.toNat 4 4 == 1) (bitsOf (w.toNat / 2 ^ slotBase .s) 63 54) = 0)
    (hparts : firstBad 0 (0 :: withDoubles (slots.map ds)) = none) :
    decodeBundle q w = .bundle {
      gap := BitVec.ofNat 3 (bitsOf w.toNat 7 5), se := bitsOf w.toNat 4 4 == 1, sb := bitsOf w.toNat 3 3 == 1
      scope := BitVec.ofNat 3 (bitsOf w.toNat 2 0)
      s := (ds .s).op, a := (ds .a).op, b := (ds .b).op, m := (ds .m).op
      l := (ds .l).op, t := (ds .t).op, c := (ds .c).op, y := (ds .y).op } := by
  simp only [slots, List.map_cons, List.map_nil] at hparts
  unfold decodeBundle
  simp only [hslots, hhead, hend, low_two_zero]
  rw [hparts]

/-- Settles O56: the parts of the word are those that were put in, and no part has a reason. -/
theorem bundleRoundTrip : Obligations.BundleRoundTrip := by
  intro b hscope hops hend hdoubles
  have hdec := decSlot_encSlot hops
  have hfit : SlotsFit b := fun sl => (hdec sl).1
  obtain ⟨hsc, hsb, hse, hgap, -, -⟩ := encodeBundle_head hfit
  rw [decodeBundle_of_parts (fun sl => decSlot Attr.any sl (encSlot (b.op sl)))]
  · simp only [fun sl => (hdec sl).2.1, hsc, hsb, hse, hgap, bit_beq_one, BitVec.ofNat_toNat, BitVec.setWidth_eq]
    rfl
  · intro sl
    rw [encodeBundle_slot hfit]
  · exact headReason_encodeBundle hfit hscope
  · rw [hse, bit_beq_one, opcodeS_encodeBundle hfit, hend]
  · rw [hdoubles]
    rfl

end Sys2Proof.BundleEncoding
end

section
/-! What does not decode, and what becomes of it at issue (R72, R73, R97 to R104, R444). -/

namespace Sys2Proof.BundleEncoding

open Sys2Proof Sys2Proof.Machine

/-! Slots that do not decode. -/

theorem decSlot_wide {sl : SlotId} (hc : sl ≠ .c) (hy : sl ≠ .y) (q : Attr) (w : Nat) : decSlot q sl w = decWide q sl w := by
  cases sl with
  | c => exact absurd rfl hc
  | y => exact absurd rfl hy
  | s | a | b | m | l | t => rfl

/-- The opcode of a 64-bit word. -/
theorem bitsOf_opcode {w : Nat} (h : w < 2 ^ 64) : bitsOf w 63 54 = w / 2 ^ 54 := by
  simp only [bitsOf]
  omega

/-- An opcode without a row is undefined: reason 0x01, whatever the rest of the word (R72). -/
theorem decWide_undefined {sl : SlotId} {w : Nat} (q : Attr) (ho : bitsOf w 63 54 ≠ 0) (h : rowOf sl (bitsOf w 63 54) = none) :
    decWide q sl w = ⟨none, 1, []⟩ := by
  have hw : w ≠ 0 := fun e => ho (by rw [e, bitsOf_zero])
  unfold decWide
  dsimp only
  rw [if_neg hw, if_neg ho, h]

/-- A NOP with a nonzero field has reason 0x04 (R71, R72). -/
theorem decWide_nop {sl : SlotId} {w : Nat} (q : Attr) (hw : w ≠ 0) (ho : bitsOf w 63 54 = 0) :
    decWide q sl w = ⟨none, 4, []⟩ := by
  unfold decWide
  dsimp only
  rw [if_neg hw, if_pos ho]

theorem decCmd_undefined {w : Nat} (q : Attr) (ho : bitsOf w 47 40 ≠ 0) (h : rowC (bitsOf w 47 40) = none) :
    decCmd q w = ⟨none, 1, []⟩ := by
  have hw : w ≠ 0 := fun e => ho (by rw [e, bitsOf_zero])
  unfold decCmd
  dsimp only
  rw [if_neg hw, if_neg ho, h]

theorem decSync_undefined {w : Nat} (ho : bitsOf w 31 26 ≠ 0) (h : rowY (bitsOf w 31 26) = none) : decSync w = ⟨none, 1, []⟩ := by
  have hw : w ≠ 0 := fun e => ho (by rw [e, bitsOf_zero])
  unfold decSync
  dsimp only
  rw [if_neg hw, if_neg ho, h]

/-- A slot that its task may not use, with reason k: it decodes to nothing, with that reason or the lower one that its bits give (R72). -/
theorem decWide_forbidden {q q' : Attr} {sl : SlotId} {w k : Nat} (het : q'.etype = q.etype) (hw : w ≠ 0) (hk : k ≠ 0)
    (hq : attrReason q sl (bitsOf w 63 54) = k) (hq' : attrReason q' sl (bitsOf w 63 54) = 0) :
    (decWide q sl w).op = none ∧
      let r := (decWide q' sl w).why
      (r = 0 → (decWide q sl w).why = k) ∧ (r ≠ 0 → r < k → (decWide q sl w).why = r) := by
  by_cases ho : bitsOf w 63 54 = 0
  · rw [decWide_nop q hw ho, decWide_nop q' hw ho]
    simp
  · cases hrow : rowOf sl (bitsOf w 63 54) with
    | none =>
      rw [decWide_undefined q ho hrow, decWide_undefined q' ho hrow]
      simp
    | some row =>
      obtain ⟨hwhy, hop⟩ := decWide_of_row (q := q) hrow
      obtain ⟨hwhy', -⟩ := decWide_of_row (q := q') hrow
      rw [hq, low_two, if_neg hk] at hwhy
      rw [hq', low_two_zero, het] at hwhy'
      rw [hop, hwhy', hwhy]
      refine ⟨?_, fun h0 => if_pos h0, fun h0 hlt => ?_⟩
      · exact if_neg (by split <;> omega)
      · rw [if_neg h0]
        omega

/-! A core's turn. -/

/-- A step in which a core's turn comes next is that turn and its end (log entry 5). -/
theorem step_of_turnOf {s : State} {core : Nat} (h : s.TurnOf core) :
    step s = andThen (s.turned.coreTurn core) fun t => .next (s.turned.turnEnd t core) := by
  obtain ⟨hagenda, hdumped, hturn, k, hcore⟩ := h
  unfold step State.run1
  rw [hagenda]
  dsimp only
  unfold State.autoTurn
  simp only [hdumped, hturn, hcore, Option.isSome_none, Bool.false_eq_true, if_false, if_true]
  rfl

theorem switchDue_eq_false {s : State} {core h : Nat}
    (hs : (s.ctxAt core h).csr.ldqsw = 0 ∨ (s.ctxAt core h).stallN < (s.ctxAt core h).csr.ldqsw.toNat) :
    s.switchDue core h = false := by
  unfold State.switchDue
  rcases hs with hz | hlt
  · simp [hz]
  · have : ¬(s.ctxAt core h).csr.ldqsw.toNat ≤ (s.ctxAt core h).stallN := by omega
    simp [this]

theorem departDue_eq_false {s : State} {core h : Nat} (hs : 4 ≤ h ∨ (s.ctxAt core h).sliceN < 1024) :
    s.departDue core h = false := by
  unfold State.departDue
  rcases hs with hx | hlt
  · have : ¬h < 4 := by omega
    simp [this]
  · have : ¬1024 ≤ (s.ctxAt core h).sliceN := by omega
    simp [this]

/-- Where nothing comes before the port holder's next bundle, a core's turn issues it (R97 to R100). -/
theorem coreTurn_of_portFree {s : State} {core h : Nat} (hp : s.PortFree core h) : s.coreTurn core = s.issue core h := by
  obtain ⟨hdue, hport, hclosing, hgap, hx, hseg, hswitch, hslice, hwake, hstall⟩ := hp
  have holder : s.holderTurn core h = s.issue core h := by
    have hclosing' : ((s.coreAt core).ctxAt h).closing = false := hclosing
    have hwake' : ((s.coreAt core).ctxAt h).wakeN = 0 := hwake
    have notX : (((s.coreAt core).ctxAt 4).stat == .ready && h != 4) = false := by
      rcases hx with rfl | hx
      · simp
      · simp [hx]
    have segment : (((s.coreAt core).ctxAt h).segOpen && decide (256 ≤ ((s.coreAt core).ctxAt h).segN)) = false := by
      rcases hseg with hopen | hlt
      · have : ((s.coreAt core).ctxAt h).segOpen = false := hopen
        simp [this]
      · have : ((s.coreAt core).ctxAt h).segN < 256 := hlt
        simp [this]
    unfold State.holderTurn
    simp only [hclosing', hgap, notX, segment, hwake', switchDue_eq_false hswitch, departDue_eq_false hslice, Bool.false_and,
      Bool.false_eq_true, if_false, ne_eq, not_true_eq_false]
  unfold State.coreTurn
  simp only [hdue, hstall, hport, holder, Bool.false_eq_true, if_false]

/-- A fetched bundle that does not decode: an ILL of a register's value in a part below stands first, then the decoder's (R73, R444). -/
theorem issue_ill {s : State} {core h p r : Nat} {w : BundleWord} (hf : s.Fetched core h w)
    (hd : decodeBundle (s.ctxAt core h).attr w = .ill p r) :
    s.issue core h = .next (s.stopBefore core h ((s.valueIll core h (opsBelow (s.ctxAt core h).attr w p)).getD
      ⟨p, 0x01, r, BitVec.ofNat 64 ((s.ctxAt core h).pc.toNat / 64 * 64 + p)⟩) 0) := by
  obtain ⟨-, hbreak, hfetch, -⟩ := hf
  have noBreak : (!(s.ctxAt core h).skips && s.breakHit core h) = false := by
    rcases hbreak with hb | hb <;> simp [hb]
  unfold State.issue
  simp only [noBreak, hfetch, hd, Bool.false_eq_true, if_false]

/-- Settles O54: each illegal slot by its own reason, and the stop by the turn that finds it. -/
theorem illegalBundles : Obligations.IllegalBundles := by
  refine ⟨?_, ?_, ?_, ?_, ?_, ?_, ?_⟩
  · intro q sl w hc hy hw ho hrow
    rw [← bitsOf_opcode hw] at ho hrow
    rw [decSlot_wide hc hy, decWide_undefined q ho hrow]
    exact ⟨rfl, rfl⟩
  · intro q sl w hc hy hw h0
    have ho : bitsOf w 63 54 = 0 := by rw [bitsOf_opcode (by omega)]; omega
    rw [decSlot_wide hc hy, decWide_nop q h0 ho]
    exact ⟨rfl, rfl⟩
  · intro q w hw ho hrow
    have opcode : bitsOf w 47 40 = w / 2 ^ 40 := by simp only [bitsOf]; omega
    rw [← opcode] at ho hrow
    simp only [decSlot, decCmd_undefined q ho hrow]
  · intro q w hw ho hrow
    have opcode : bitsOf w 31 26 = w / 2 ^ 26 := by simp only [bitsOf]; omega
    rw [← opcode] at ho hrow
    simp only [decSlot, decSync_undefined ho hrow]
  · intro q w hsup hw ho
    rw [← bitsOf_opcode hw] at ho
    refine decWide_forbidden (q' := { q with sup := true }) rfl (by rintro rfl; simp [bitsOf_zero] at ho) (by decide) ?_ ?_
    · simp [attrReason, ho, hsup]
    · simp [attrReason]
  · intro q w hnomx hw h0
    exact decWide_forbidden (q' := { q with nomx := false }) rfl h0 (by decide) (by simp [attrReason, hnomx]) rfl
  · intro s core h p r w hturn hfetched hill c hvalue
    rw [step_of_turnOf hturn, coreTurn_of_portFree hfetched.1, issue_ill hfetched hill, hvalue]
    rfl

end Sys2Proof.BundleEncoding
end

section
/-! Branches, calls, returns and loops (R47, R107, R118 to R122). -/

namespace Sys2Proof.BundleEncoding

open Sys2Proof Sys2Proof.Machine

/-! Fields and targets. -/

/-- The lowest bits of a field. -/
theorem bitsOf_low {n : Nat} (x : BitVec n) (k : Nat) : bitsOf x.toNat k 0 = (x.setWidth (k + 1)).toNat := by
  simp [bitsOf, BitVec.toNat_setWidth]

/-- R120: a return goes to the bundle that the address lies in. -/
theorem and_not_63 (a : Word) : a &&& ~~~63#64 = BitVec.ofNat 64 (a.toNat / 64 * 64) := by
  apply BitVec.eq_of_getLsbD_eq
  intro i hi
  have low6 : Nat.testBit 63 i = decide (i < 6) := Nat.testBit_two_pow_sub_one 6 i
  simp only [BitVec.getLsbD_and, BitVec.getLsbD_not, BitVec.getLsbD_ofNat, hi, decide_true, Bool.true_and, low6]
  rw [show a.toNat / 64 * 64 = a.toNat / 2 ^ 6 * 2 ^ 6 from rfl, Nat.testBit_mul_two_pow, Nat.testBit_div_two_pow]
  by_cases h : 6 ≤ i
  · rw [Nat.sub_add_cancel h]
    simp [h, Nat.not_lt.mpr h, BitVec.testBit_toNat]
  · simp [h, Nat.lt_of_not_le h]

/-- The physical stage predicates of a loop are those that the architectural names p12 to p15 reach (R84). -/
theorem stagePhys_eq_pPhys (c : Ctx) (i : Nat) : stagePhys c.csr.rotp.toNat i = c.pPhys (12 + i) := by
  have hr := c.csr.rotp.isLt
  unfold stagePhys Ctx.pPhys
  rw [if_neg (by omega)]
  omega

/-- A target a number of bundles on (R47). -/
theorem offset_natCast (s : State) (n : Nat) : s.offset (n : Nat) = s.cur.addr + 64#64 * BitVec.ofNat 64 n := by
  unfold State.offset
  rw [BitVec.ofInt_mul]
  rfl

/-- BRC's conditions on the signed value of its source (R119). -/
theorem condZero_iff (a : Word) :
    (condZero 0 a = true ↔ a = 0) ∧ (condZero 1 a = true ↔ a ≠ 0) ∧ (condZero 2 a = true ↔ a.toInt < 0) ∧
      (condZero 3 a = true ↔ a.toInt ≤ 0) ∧ (condZero 4 a = true ↔ False) ∧ (condZero 5 a = true ↔ a = 0) := by
  refine ⟨?_, ?_, ?_, ?_, ?_, ?_⟩
  · simp [condZero, condS]
  · simp [condZero, condS]
  · simp [condZero, condS, BitVec.slt]
  · simp [condZero, condS, BitVec.sle]
  · simp [condZero, condS, BitVec.ult]
  · simp [condZero, condS, BitVec.ule, BitVec.toNat_eq]

/-! The instructions. -/

/-- BRC goes to its target where its guard and its condition hold, and changes nothing where one fails (R118, R119). -/
theorem exec_brc {op : RIOp} {s : State} (hx : s.Holds .s op.xa) {cc : Nat} {p : Prop} (hcc : (op.md.setWidth 3).toNat = cc)
    (hp : condZero cc (s.valS op.xa) = true ↔ p) :
    ∃ t, exec (.brc op) s = .next t ∧
      (s.ctx.guard op.pred op.pn = true ∧ p →
        t = { s with cur := { s.cur with next := s.cur.addr + BitVec.ofInt 64 (64 * op.imm.toInt) } }) ∧
      (¬(s.ctx.guard op.pred op.pn = true ∧ p) → t = s) := by
  have hcond : bitsOf op.md.toNat 2 0 = cc := by rw [bitsOf_low, hcc]
  have run : exec (.brc op) s =
      .next (if s.ctx.guard op.pred op.pn && condZero cc (s.valS op.xa) then s.goTo (s.offset op.imm.toInt) else s) := by
    rw [← hcond]
    exact s.sources_one partS .s op.xa hx fun c =>
      if s.ctx.guard op.pred op.pn && condZero (bitsOf op.md.toNat 2 0) (c.srcS s.cur op.xa) then s.goTo (s.offset op.imm.toInt) else s
  have taken : (s.ctx.guard op.pred op.pn && condZero cc (s.valS op.xa)) = true ↔ s.ctx.guard op.pred op.pn = true ∧ p := by
    rw [Bool.and_eq_true, hp]
  exact ⟨_, run, fun h => if_pos (taken.mpr h), fun h => if_neg fun hg => h (taken.mp hg)⟩

/-- RET (R120). -/
theorem exec_ret {op : ROp} {s : State} (hx : s.Holds .s op.xa) :
    exec (.ret op) s = .next (if s.ctx.guard op.pred op.pn = true then
      { s with cur := { s.cur with next := BitVec.ofNat 64 ((s.valS op.xa).toNat / 64 * 64) } } else s) := by
  rw [← and_not_63]
  exact s.sources_one partS .s op.xa hx fun c =>
    if s.ctx.guard op.pred op.pn then s.goTo (c.srcS s.cur op.xa &&& ~~~63#64) else s

/-- What LOOPM writes (R121): LC, EC, and the stage predicates p12 to p15, the first of which holds x. -/
def loopmWrites (c : Ctx) (lc : Word) (st : Nat) (x : Word) : List Write :=
  [.csr 0x12 lc, .csr 0x13 (BitVec.ofNat 64 ((st - 1) * 16)), .p (c.pPhys (12 + 0)) allOnes x,
    .p (c.pPhys (12 + 1)) allOnes 0, .p (c.pPhys (12 + 2)) allOnes 0, .p (c.pPhys (12 + 3)) allOnes 0]

/-- LOOPM (R121): it sets the loop up, or skips the kernel when there is no iteration. -/
theorem exec_loopm {op : RIOp} {s : State} (hx : s.Holds .s op.xa) :
    let n := (s.valS op.xa).toNat
    let st := (op.md.setWidth 2).toNat + 1
    exec (.loopm op) s = .next (if s.ctx.guard op.pred op.pn = false then s
      else if 1 ≤ n then
        s.post 0 1 (loopmWrites s.ctx (BitVec.ofNat 64 (Min.min (n + st - 1) (2 ^ 64 - 1))) st allOnes) none 0 false
      else (s.post 0 1 (loopmWrites s.ctx 0 st 0) none 0 false).goTo
        (s.cur.addr + 64#64 * BitVec.ofNat 64 (op.imm.toNat + 1))) := by
  intro n st
  show execLoopm op s = _
  unfold execLoopm
  rw [s.sources_one partS .s op.xa hx]
  simp only [stagePhys_eq_pPhys, bitsOf_low, offset_natCast]
  cases s.ctx.guard op.pred op.pn <;> rfl

/-- EC's fields: the stages less one, and how many drain (R85). -/
theorem bitsOf_ec (ec : BitVec 6) : bitsOf ec.toNat 5 4 = (ec.extractLsb' 4 2).toNat := by
  simp [bitsOf, Nat.shiftRight_eq_div_pow]

/-- BRLC (R107, R122): with LC at its end LC alone is written; else one step of the sequencer, whose stage predicates go through the
new ROTP, and the branch. -/
theorem exec_brlc (op : I32Op) (s : State) :
    let c := s.ctx.csr
    let lc := c.lc - 1
    let st := (c.ec.extractLsb' 4 2).toNat + 1
    let d := Min.min ((c.ec.setWidth 2).toNat + 1) 3
    let rotp : BitVec 3 := c.rotp + 1
    let p (i : Nat) : Nat := { s.ctx with csr := { c with rotp := rotp } }.pPhys (12 + i)
    let stage (i : Nat) : Write := .p (p i) allOnes (if i ≤ st - 1 ∧ i ≤ d ∧ st ≤ i + lc.toNat then allOnes else 0)
    exec (.brlc op) s = .next (if s.ctx.guard op.pred op.pn = false then s
      else if lc = 0 then s.post 0 1 [.csr 0x12 lc] none 0 false
      else (s.post 0 1 [.csr 0x12 lc, .csr 0x13 (BitVec.ofNat 64 ((st - 1) * 16 + d)), .csr 0x10 ((c.rotv + 1).setWidth 64),
        .csr 0x11 (rotp.setWidth 64), stage 0, stage 1, stage 2, stage 3] none 0 false).goTo (s.offset op.imm.toInt)) := by
  intro c lc st d rotp p stage
  have hrotv : (c.rotv.toNat + 1) % 32 = (c.rotv + 1).toNat := by simp [BitVec.toNat_add]
  have hrotp : (c.rotp.toNat + 1) % 8 = rotp.toNat := by simp [rotp, BitVec.toNat_add]
  have hstage (i : Nat) : stagePhys rotp.toNat i = p i := stagePhys_eq_pPhys { s.ctx with csr := { c with rotp := rotp } } i
  show execBrlc op s = _
  unfold execBrlc
  simp only [c, bitsOf_low, bitsOf_ec, hrotv, hrotp, hstage, BitVec.ofNat_toNat]
  cases s.ctx.guard op.pred op.pn with
  | false => rfl
  | true => rfl

/-- Settles O7: each instruction's own effect; what a loop writes are results of latency 1. -/
theorem branchAndLoopResults : Obligations.BranchAndLoopResults := by
  refine ⟨⟨?_, ?_, ?_⟩, ?_, ?_⟩
  · intro op s g target
    exact ⟨⟨_, rfl, rfl⟩, _, _, rfl, scalarOut_putS s partS 1 (by decide) _ op.nw op.dst _ 0, rfl⟩
  · intro op s hx g a target done
    obtain ⟨h0, h1, h2, h3, h4, h5⟩ := condZero_iff a
    exact ⟨fun hcc => exec_brc hx hcc h0, fun hcc => exec_brc hx hcc h1, fun hcc => exec_brc hx hcc h2,
      fun hcc => exec_brc hx hcc h3, fun hcc => exec_brc hx hcc h4, fun hcc => exec_brc hx hcc h5⟩
  · intro op s hx
    exact ⟨_, exec_ret hx, rfl⟩
  · intro op s hx n st ec p
    refine ⟨_, exec_loopm hx, fun hg => if_pos hg, fun hg hn => ?_, fun hg hn => ?_⟩
    · rw [if_neg (by simp [hg]), if_pos hn]
      exact posts_post_write s partS 1 _ _ _ _
    · rw [if_neg (by simp [hg]), if_neg (by rw [show (s.valS op.xa).toNat = 0 from hn]; decide)]
      exact ⟨_, posts_post_write s partS 1 _ _ _ _, rfl⟩
  · intro op s c lc st d rotp p stage
    refine ⟨_, exec_brlc op s, fun hg => if_pos hg, fun hg hlc => ?_, fun hg hlc => ?_⟩
    · rw [if_neg (by simp [hg]), if_pos hlc, ← hlc]
      exact posts_post_write s partS 1 _ _ _ _
    · rw [if_neg (by simp [hg]), if_neg hlc]
      exact ⟨_, posts_post_write s partS 1 _ _ _ _, rfl⟩

end Sys2Proof.BundleEncoding
end

section
/-! Constant selectors (R59), and worked words of the spec (R52 to R73, R393). -/

namespace Sys2Proof.BundleEncoding

open Sys2Proof Sys2Proof.Machine

/-- Every element of a constant source is the constant's element, within the format's width. -/
theorem velem_srcE_const (c : Ctx) (cur : Cur) (f : Fmt) (k : BitVec 8) {i : Nat} (hi : i < 2048 / f.width) :
    velem f.width (c.srcE cur f (.const k)) i = constElem f k % 2 ^ f.width :=
  velem_vbuild f.width _ i hi

/-- No format but INT4, with its reserved code, raises a flag when it is read (R12, R14, R16). -/
theorem decodeFmt_flags {f : Fmt} (h : f ≠ .i4) (x : Nat) : (decodeFmt f x).2 = 0 := by
  unfold decodeFmt
  cases f with
  | i4 => exact absurd rfl h
  | raw | i32 | i8 | f32 | f16 | bf16 | e4m3 | e5m2 | fp4 => simp only [apply_ite Prod.snd, ite_self]

/-- A constant in an integer role, read back: its value limited to the format's range, INT4's being symmetric (R16, R59). -/
theorem decodeFmt_constElem_int :
    ∀ f ∈ [Fmt.i32, .i8, .i4], ∀ k : BitVec 8, decodeFmt f (constElem f k % 2 ^ f.width) =
      (XVal.ofInt (Max.max (if f = .i4 then -7 else f.intLo) (Min.min k.toInt f.intHi)), 0) := by
  decide +kernel

/-- A constant in a floating-point role is a pattern of the format (R59). -/
theorem constElem_float_lt :
    ∀ f ∈ [Fmt.f32, .f16, .bf16, .e4m3, .e5m2, .fp4], ∀ k : BitVec 8, constElem f k < 2 ^ f.width := by
  decide +kernel

/-- Settles O49: every element of a constant source is the one that the constant gives in its format. -/
theorem constantSelector : Obligations.ConstantSelector := by
  intro c cur k
  refine ⟨rfl, fun f hf i hi => ?_, fun f hf i hi => ?_⟩
  · dsimp only
    rw [velem_srcE_const c cur f k hi]
    exact decodeFmt_constElem_int f (by simpa using hf) k
  · have elem : velem f.width (c.srcE cur f (.const k)) i = constElem f k := by
      rw [velem_srcE_const c cur f k hi]
      exact Nat.mod_eq_of_lt (constElem_float_lt f (by simpa using hf) k)
    dsimp only
    rw [elem]
    refine ⟨?_, decodeFmt_flags (by rintro rfl; simp at hf) _⟩
    have float : f.isInt = false := by rcases hf with rfl | rfl | rfl | rfl | rfl | rfl <;> rfl
    simp [constElem, float]

/-- Settles O53: each word is a closed one, which the decoder evaluates. -/
theorem decodeWords : Obligations.DecodeWords := by
  unfold Obligations.DecodeWords
  decide +kernel

end Sys2Proof.BundleEncoding
end
